-- ==== Sys2Proof/Word.lean ====
section
/-!
DEFINITION. The words of the CZ-512 and the operand kinds of its instructions and device events (R2, R130 to
R137, R262 to R271). Only types and their plainest arithmetic stand here.
-/
namespace Sys2Proof

abbrev Byte := BitVec 8
abbrev Word := BitVec 32
abbrev Dword := BitVec 64
/-- A world identifier (R30). -/
abbrev World := BitVec 8
/-- A format tag (R137). -/
abbrev Tag := BitVec 5

/-- The common part of an instruction: predicate register and its negation (R266), lookahead (R123), and whether a
field the instruction leaves unused, or a low bit of a continuation parcel, is not zero (R264, R265). -/
structure Hd where
  pg : BitVec 3
  pn : Bool
  la : BitVec 4
  rsv : Bool
  deriving DecidableEq, Repr

/-- The comparisons of `ICMP` (R289). -/
inductive Cmp where | eq | ne | lt | le | gt | ge
  deriving DecidableEq, Repr

/-- The comparisons of `FCMP` (R311). -/
inductive FCmp where | eq | ne | lt | le | gt | ge | un
  deriving DecidableEq, Repr

/-- The operations of `PLOP` (R296). -/
inductive PredOp where | and | or | xor
  deriving DecidableEq, Repr

/-- The operations of `VOTE` (R302). -/
inductive VoteOp where | all | any | ballot
  deriving DecidableEq, Repr

/-- The modes of `SHFL` (R302). -/
inductive ShflMode where | rank | rot | rev | seg
  deriving DecidableEq, Repr

/-- The operations of `MATCH` (R302). -/
inductive MatchOp where | any | all
  deriving DecidableEq, Repr

/-- The operations of `REDUX` (R302). -/
inductive RedOp where | sum | low | high | band | bor | bxor
  deriving DecidableEq, Repr

/-- The modes of `REDUX` (R302). -/
inductive ScanMode where | tot | inc | exc
  deriving DecidableEq, Repr

/-- The operations of `ATOM` and `RED` (R332); `exch` is `ATOM`'s alone. -/
inductive AtomOp where | add | min | max | and | or | xor | exch | incw | decw
  deriving DecidableEq, Repr

/-- The address operand of the MEM family (R327): record, index register (255 when absent), signed immediate. -/
structure MemAddr where
  brec : BitVec 4
  idx : BitVec 8
  imm : BitVec 24
  deriving DecidableEq, Repr

/-- The operands of the CP family that all copies share (R268, R342). -/
structure CopyArgs where
  vS : BitVec 8
  dRec : BitVec 4
  sRec : BitVec 4
  vK : BitVec 8
  vJ : BitVec 8
  dImm : BitVec 24
  sImm : BitVec 24
  len : BitVec 8
  ord : Bool
  deriving DecidableEq, Repr

/-- The barrier operand of a copy (R271): ARR and nB as encoded. -/
structure CopyBar where
  arr : Bool
  nb : BitVec 4
  deriving DecidableEq, Repr

/-- How a head fails to decode (R264). -/
inductive DecodeTrap where | misland | fetchBoundary | undefinedOpcode
  deriving DecidableEq, Repr

/-- The element formats of `DOT4` (R322). -/
inductive Dot4Fmt where | e4m3 | e5m2 | i8 | n8
  deriving DecidableEq, Repr

/-- An extended real as arithmetic handles it: an exact dyadic number with a sign (so that zeros keep theirs),
an infinity, or a NaN with its signalling bit (R130, R134, R142). The value of `fin n m e` is
(-1)^n · m · 2^e. -/
inductive XNum where
  | nan (signalling : Bool)
  | inf (neg : Bool)
  | fin (neg : Bool) (m : Nat) (e : Int)
  deriving DecidableEq, Repr

/-- What the host reads by its link (R28): registers by CXL.io, at an offset in a BAR0, or the usable HBM by CXL.mem. -/
inductive HostAddr where
  | io (off : Nat)
  | mem (addr : Nat)
  deriving DecidableEq, Repr

/-- What the fabric or the remote home answers to an access that leaves the device (R27, R31, R34, R40). Local
accesses ignore it (log 56, DESIGN CHOICE). -/
inductive FabricRes where
  | ok
  | world
  | lost
  | tagFail
  | checkFail
  | poison
  | ingot
  deriving DecidableEq, Repr

/-- The operation of a message on the fabric (R19): a request, or the answer to one. -/
inductive FabOp where
  | load (bytes : Nat)
  | store
  | atomic (op : AtomOp) (ty : BitVec 6)
  | cas (ty : BitVec 6)
  | answer (res : FabricRes)
  deriving DecidableEq, Repr

/-- A message of the fabric with its header slot (R19) and the bytes of its data slots: source device, world, fabric address, operation,
scope, data (a line, or the operands of an atomic: log 15, DESIGN CHOICE), their check values, and for protected traffic the counter of
its IV and its tag (R40). -/
structure FabMsg where
  src : BitVec 20
  world : World
  addr : Dword
  op : FabOp
  scope : Nat
  data : List Byte
  checkLo : BitVec 24
  checkHi : BitVec 24
  ctr : BitVec 76 := 0
  tag : List Byte := []
  deriving DecidableEq, Repr

/-- The 32-byte slots that a message takes (R19): its header, and those of its data. -/
def FabMsg.slots (m : FabMsg) : Nat := 1 + (m.data.length + 31) / 32

/-- The kinds of flit (R15, R19, R20, R25): traffic, the fence of a release with its count, an acknowledgement alone, training and
management (log 15, DESIGN CHOICE). -/
inductive FlitKind where
  | traffic
  | fence (count : Nat)
  | idle
  | training
  | management
  deriving DecidableEq, Repr

/-- A flit (R19): its header with kind, sequence number, acknowledged number and credit return, its messages, and its CRC-64. A message of more
than seven slots takes several flits, of which `part` counts (log 15, DESIGN CHOICE). -/
structure Flit where
  kind : FlitKind := .traffic
  seq : BitVec 12
  ack : BitVec 12
  credit : BitVec 8 := 0
  msgs : List FabMsg
  part : Nat := 0
  crc : BitVec 64
  deriving DecidableEq, Repr

/-- The delivery modes of an Ethernet-mode port (R22): reliable and unordered, the same for idempotent operations, reliable and ordered. -/
inductive Delivery where | unordered | idempotent | ordered
  deriving DecidableEq, Repr

/-- A packet of an Ethernet-mode port (R22, R23): the device it goes to, its path, its mode of delivery, and its message. -/
structure EthPacket where
  dest : Nat
  path : Nat
  delivery : Delivery := .unordered
  msg : FabMsg
  deriving DecidableEq, Repr

/-- The causes of R240, each with its bit in the cause bitmap (`Cause.bit`). -/
inductive Cause where
  | undefinedOpcode | reservedField | misland | fetchBoundary | operandAlign | tagMismatch | bounds | align
  | world | permission | pageUnresolved | ingotAccess | ingotPolicy | retractedCode | producerOnly | barrierBusy
  | barrierMisuse | assay | integrity | poison | fpInvalid | fpDivzero | fpOverflow | spawnFault | sqsyncMisuse
  | software | breakpoint | watch | haltRequest
  deriving DecidableEq, Repr

end Sys2Proof
end

