-- ==== Sys2Proof/Config.lean ====
section
/-!
DEFINITION. What the specification leaves to the implementation or to chance: free values, constants without a body
that no proof can evaluate. Each is named in a log entry.
-/
namespace Sys2Proof.Config

/-- A random value (keys, identifiers, nonces, the start of SERIAL: R38, R39, R46, R54), by the handle that names
the draw (log 8, DESIGN CHOICE). -/
opaque random : Nat → Nat

/-- The bits a special-function instruction returns (R145, R146): operation, float type and input bits. The model
takes them where they lie within the bound of R145 (log 13, DESIGN CHOICE). -/
opaque special : Nat → Nat → Nat → Nat

/-- Bytes whose layout or content the specification does not give, by a number that names the use and an index:
image payload (log 14, DESIGN CHOICE), message bodies, signatures and certificates (log 16, DESIGN CHOICE). -/
opaque bytes : Nat → Nat → Byte

/-- The value an entry of the free kind takes, by the counter the step reads and advances (log 19, DESIGN CHOICE). -/
opaque freeValue : Nat → Nat

end Sys2Proof.Config
end

