-- ==== Sys2Proof/Machine/Maps.lean ====
section
/-!
DEFINITION. Sparse maps from numbers to plain data, in one canonical form: keys strictly rising, and (where a map has
a default) no entry equal to the default. Every collection of the state that is indexed by a number is one of these;
memory is the map from an address to its byte (`Host.Cell`).
-/
namespace Sys2Proof.Machine

/-- A sparse map. -/
abbrev Map (α : Type) := List (Nat × α)

/-- The entry of a key, if listed. -/
def Map.find {α : Type} : Map α → Nat → Option α
  | [], _ => none
  | (k, v) :: m, x => if x = k then some v else Map.find m x

/-- The entry of a key, or the default of an unlisted key. -/
def Map.look {α : Type} (d : α) (m : Map α) (x : Nat) : α := (m.find x).getD d

/-- Set the entry of a key, keeping the keys rising. -/
def Map.put {α : Type} : Map α → Nat → α → Map α
  | [], x, v => [(x, v)]
  | (k, w) :: m, x, v =>
    if x = k then (k, v) :: m else if x < k then (x, v) :: (k, w) :: m else (k, w) :: Map.put m x v

/-- Remove the entry of a key. -/
def Map.del {α : Type} : Map α → Nat → Map α
  | [], _ => []
  | (k, w) :: m, x => if x = k then Map.del m x else (k, w) :: Map.del m x

/-- Set a key of a map with a default: writing the default removes the entry. -/
def Map.store {α : Type} [DecidableEq α] (d : α) (m : Map α) (x : Nat) (v : α) : Map α :=
  if v = d then m.del x else m.put x v

/-- Change the entry of a key, where it is listed. -/
def Map.update {α : Type} (m : Map α) (x : Nat) (f : α → α) : Map α :=
  match m.find x with
  | some v => m.put x (f v)
  | none => m

/-- Every key of a map lies at or above a bound, and the keys rise strictly. -/
def Map.rising {α : Type} : Nat → Map α → Bool
  | _, [] => true
  | b, (k, _) :: m => decide (b ≤ k) && Map.rising (k + 1) m

/-- The canonical form of a map with a default. -/
def Map.wf {α : Type} [DecidableEq α] (d : α) (m : Map α) : Bool :=
  Map.rising 0 m && m.all fun kv => decide (kv.2 ≠ d)

/-- Bytes of a map from an address up, least address first. -/
def Map.bytes (d : Byte) (m : Map Byte) (a n : Nat) : List Byte := (List.range n).map fun k => m.look d (a + k)

/-- Store bytes from an address up. -/
def Map.storeBytes (d : Byte) (m : Map Byte) (a : Nat) : List Byte → Map Byte
  | [] => m
  | b :: bs => Map.storeBytes d (m.store d a b) (a + 1) bs

/-- The entries of a map from a key on, as a list of n values. -/
def Map.dense {α : Type} (d : α) : Nat → Nat → Map α → List α
  | _, 0, _ => []
  | a, n + 1, m =>
    match m.dropWhile fun e => decide (e.1 < a) with
    | [] => List.replicate (n + 1) d
    | e :: r => if e.1 = a then e.2 :: Map.dense d (a + 1) n r else d :: Map.dense d (a + 1) n (e :: r)

/-- The map of a list of values from a key on. -/
def Map.sparse {α : Type} [DecidableEq α] (d : α) : Nat → List α → Map α
  | _, [] => []
  | a, v :: vs => if v = d then Map.sparse d (a + 1) vs else (a, v) :: Map.sparse d (a + 1) vs

/-- The number of a list of bytes, least significant first (R2). -/
def ofBytes : List Byte → Nat
  | [] => 0
  | b :: bs => b.toNat + 256 * ofBytes bs

/-- The n bytes of a number, least significant first (R2). -/
def toBytes : Nat → Nat → List Byte
  | 0, _ => []
  | n + 1, v => BitVec.ofNat 8 v :: toBytes n (v / 256)

end Sys2Proof.Machine
end

