-- ==== Sys2Proof/Machine/Crypto.lean ====
section
/-!
DEFINITION. The ciphers and hashes that rules name, from their public standards (log 17, PRESUMED): SHA-384 and HKDF (R46, R51, R187),
AES-256 with CMAC key derivation (R38, R39, R50), XTS (R38, R50), GCM (R40, R54) and GMAC (R73), Trivium (R39), key unwrapping and ECDH on
the 384-bit Brainpool curve (R51).
-/
namespace Sys2Proof.Machine

/-- A number as n bytes, most significant first. -/
def beBytes (n v : Nat) : List Byte := (toBytes n v).reverse
/-- A random key or identifier of n bytes, by the handle of its draw (log 8, DESIGN CHOICE). -/
def drawn (n handle : Nat) : List Byte := toBytes n (Config.random handle)
/-- The number of bytes, most significant first. -/
def ofBe (bs : List Byte) : Nat := bs.foldl (fun v b => 256 * v + b.toNat) 0

/-- The number of 2^64 · frac of a root, as the constants of SHA-512 use it: the largest r with r^k ≤ n · 2^(64 k), mod 2^64. -/
def rootFrac (k n : Nat) : Nat :=
  ((List.range 68).foldl (fun r j => let c := r + 2 ^ (67 - j); if c ^ k ≤ n * 2 ^ (64 * k) then c else r) 0) % 2 ^ 64

/-- The first n primes. -/
def primes (n : Nat) : List Nat :=
  ((List.range 500).filter fun p => 2 ≤ p && (List.range p).all fun d => d < 2 || p % d != 0).take n

/-- The round constants of SHA-512. -/
def shaK : List Dword := (primes 80).map fun p => BitVec.ofNat 64 (rootFrac 3 p)
/-- The initial value of SHA-384: square roots of the ninth to sixteenth primes. -/
def shaInit : List Dword := ((primes 16).drop 8).map fun p => BitVec.ofNat 64 (rootFrac 2 p)

/-- The message schedule of a block, the latest word first. -/
def shaSchedule : Nat → List Dword → List Dword
  | 0, ws => ws
  | n + 1, ws =>
    let w (k : Nat) : Dword := ws.getD (k - 1) 0
    let s0 := (w 15).rotateRight 1 ^^^ (w 15).rotateRight 8 ^^^ ((w 15) >>> 7)
    let s1 := (w 2).rotateRight 19 ^^^ (w 2).rotateRight 61 ^^^ ((w 2) >>> 6)
    shaSchedule n ((w 16 + s0 + w 7 + s1) :: ws)

/-- The working variables of SHA-512. -/
structure Sha where
  a : Dword
  b : Dword
  c : Dword
  d : Dword
  e : Dword
  f : Dword
  g : Dword
  h : Dword

/-- One round of SHA-512 with its constant and word. -/
def Sha.round (x : Sha) (kw : Dword × Dword) : Sha :=
  let s1 := x.e.rotateRight 14 ^^^ x.e.rotateRight 18 ^^^ x.e.rotateRight 41
  let ch := (x.e &&& x.f) ^^^ (~~~x.e &&& x.g)
  let t1 := x.h + s1 + ch + kw.1 + kw.2
  let s0 := x.a.rotateRight 28 ^^^ x.a.rotateRight 34 ^^^ x.a.rotateRight 39
  let maj := (x.a &&& x.b) ^^^ (x.a &&& x.c) ^^^ (x.b &&& x.c)
  { a := t1 + (s0 + maj), b := x.a, c := x.b, d := x.c, e := x.d + t1, f := x.e, g := x.f, h := x.g }

/-- The hash value after one block of 128 bytes. -/
def shaBlock (hv : List Dword) (block : List Byte) : List Dword :=
  let ws := (List.range 16).map fun k => BitVec.ofNat 64 (ofBe ((block.drop (8 * k)).take 8))
  let sched := (shaSchedule 64 ws.reverse).reverse
  let v (k : Nat) : Dword := hv.getD k 0
  let x := (shaK.zip sched).foldl Sha.round ⟨v 0, v 1, v 2, v 3, v 4, v 5, v 6, v 7⟩
  [v 0 + x.a, v 1 + x.b, v 2 + x.c, v 3 + x.d, v 4 + x.e, v 5 + x.f, v 6 + x.g, v 7 + x.h]

/-- Consecutive pieces of n bytes, count of them. -/
def pieces (n : Nat) : Nat → List Byte → List (List Byte)
  | 0, _ => []
  | k + 1, bs => bs.take n :: pieces n k (bs.drop n)

/-- SHA-384 (FIPS 180-4; log 17, PRESUMED). -/
def sha384 (m : List Byte) : List Byte :=
  let pad := (128 - (m.length + 17) % 128) % 128
  let full := m ++ [0x80] ++ List.replicate pad 0 ++ beBytes 16 (8 * m.length)
  (((pieces 128 (full.length / 128) full).foldl shaBlock shaInit).take 6).flatMap fun w => beBytes 8 w.toNat

/-- HMAC-SHA-384 (RFC 2104; log 17, PRESUMED). -/
def hmac384 (key m : List Byte) : List Byte :=
  let k0 := if 128 < key.length then sha384 key else key
  let k := k0 ++ List.replicate (128 - k0.length) 0
  sha384 ((k.map (· ^^^ 0x5C)) ++ sha384 ((k.map (· ^^^ 0x36)) ++ m))

/-- The first 32 bytes of HKDF-SHA-384 without a salt (RFC 5869). -/
def hkdf32 (ikm info : List Byte) : List Byte :=
  (hmac384 (hmac384 (List.replicate 48 0) ikm) (info ++ [1])).take 32

/-- Doubling in the field of AES. -/
def xtime (b : Byte) : Byte := if b.getLsbD 7 then (b <<< 1) ^^^ 0x1B else b <<< 1
/-- Multiplication in the field of AES. -/
def gfMul (a b : Byte) : Byte :=
  ((List.range 8).foldl (fun (p : Byte × Byte) k => (if b.getLsbD k then p.1 ^^^ p.2 else p.1, xtime p.2)) (0, a)).1
/-- The inverse in the field of AES, x to the 254th. -/
def gfInv (x : Byte) : Byte :=
  let sq (y : Byte) := gfMul y y
  let x2 := sq x
  let x4 := sq x2
  let x8 := sq x4
  let x16 := sq x8
  let x32 := sq x16
  let x64 := sq x32
  gfMul (sq x64) (gfMul x64 (gfMul x32 (gfMul x16 (gfMul x8 (gfMul x4 x2)))))
/-- The substitution of AES. -/
def sbox (x : Byte) : Byte :=
  let y := gfInv x
  y ^^^ y.rotateLeft 1 ^^^ y.rotateLeft 2 ^^^ y.rotateLeft 3 ^^^ y.rotateLeft 4 ^^^ 0x63
/-- The inverse substitution of AES. -/
def sboxInv (x : Byte) : Byte := gfInv (x.rotateLeft 1 ^^^ x.rotateLeft 3 ^^^ x.rotateLeft 6 ^^^ 0x05)

/-- Bytewise exclusive or. -/
def xorBytes (a b : List Byte) : List Byte := List.zipWith (· ^^^ ·) a b

/-- The words of the key schedule of AES-256 (FIPS 197), the latest first. -/
def aesWords : Nat → List (List Byte) → List (List Byte)
  | 0, ws => ws
  | n + 1, ws =>
    let i := ws.length
    let prev := ws.headD []
    let t := if i % 8 = 0 then
        (let r := (prev.drop 1 ++ prev.take 1).map sbox
         xorBytes r [((List.range (i / 8 - 1)).foldl (fun b _ => xtime b) (1 : Byte)), 0, 0, 0])
      else if i % 8 = 4 then prev.map sbox else prev
    aesWords n (xorBytes (ws.getD 7 []) t :: ws)

/-- The fifteen round keys of AES-256. -/
def aesKeys (key : List Byte) : List (List Byte) :=
  pieces 16 15 (aesWords 52 (pieces 4 8 key).reverse).reverse.flatten

/-- The rows of a state of AES are rotated by their number, to the left or to the right. -/
def shiftRows (right : Bool) (s : List Byte) : List Byte :=
  (List.range 16).map fun k => s.getD ((4 * (k / 4 + (if right then 4 - k % 4 else k % 4)) + k % 4) % 16) 0

/-- The columns of a state of AES are multiplied by a polynomial, given by its coefficients. -/
def mixColumns (m : List Byte) (s : List Byte) : List Byte :=
  (List.range 16).map fun k => (List.range 4).foldl (fun v j =>
    v ^^^ gfMul (m.getD ((j + 4 - k % 4) % 4) 0) (s.getD (k / 4 * 4 + j) 0)) 0

/-- AES-256 encryption of a block. -/
def aesEnc (key blk : List Byte) : List Byte :=
  let ks := aesKeys key
  let s := ((ks.drop 1).take 13).foldl (fun s k => xorBytes (mixColumns [2, 3, 1, 1] (shiftRows false (s.map sbox))) k)
    (xorBytes blk (ks.headD []))
  xorBytes (shiftRows false (s.map sbox)) (ks.getD 14 [])

/-- AES-256 decryption of a block. -/
def aesDec (key blk : List Byte) : List Byte :=
  let ks := aesKeys key
  let s := ((ks.drop 1).take 13).reverse.foldl
    (fun s k => mixColumns [14, 11, 13, 9] (xorBytes ((shiftRows true s).map sboxInv) k)) (xorBytes blk (ks.getD 14 []))
  xorBytes ((shiftRows true s).map sboxInv) (ks.headD [])

/-- Doubling in GF(2^128) with the most significant bit first, as CMAC does. -/
def cmacDouble (b : List Byte) : List Byte :=
  let v := BitVec.ofNat 128 (ofBe b)
  beBytes 16 (if v.getLsbD 127 then (v <<< 1) ^^^ 0x87 else v <<< 1).toNat

/-- CMAC with AES-256 (SP 800-38B). -/
def cmac (key m : List Byte) : List Byte :=
  let k1 := cmacDouble (aesEnc key (List.replicate 16 0))
  let n := if m.isEmpty then 1 else (m.length + 15) / 16
  let last := m.drop (16 * (n - 1))
  let fin := if last.length = 16 then xorBytes last k1
    else xorBytes (last ++ [0x80] ++ List.replicate (15 - last.length) 0) (cmacDouble k1)
  let c := (pieces 16 (n - 1) m).foldl (fun c b => aesEnc key (xorBytes c b)) (List.replicate 16 0)
  aesEnc key (xorBytes c fin)

/-- The counter-mode KDF of SP 800-108 with CMAC: n bits of a key, for a label and a context. -/
def kdf (key label context : List Byte) (n : Nat) : List Byte :=
  ((List.range ((n + 127) / 128)).flatMap fun k => cmac key (beBytes 4 (k + 1) ++ label ++ [0] ++ context ++ beBytes 4 n)).take (n / 8)

/-- The keys K1 and K2 of an ingot's body (R50). -/
def ingotKeys (model : List Byte) : List Byte × List Byte :=
  let out := kdf model [0x43, 0x5A, 0x2D, 0x49, 0x4E, 0x47, 0x4F, 0x54] [] 512
  (out.take 32, out.drop 32)

/-- Doubling in GF(2^128) with the least significant byte first, as XTS does. -/
def xtsDouble (t : List Byte) : List Byte :=
  let v := BitVec.ofNat 128 (ofBytes t)
  toBytes 16 (if v.getLsbD 127 then (v <<< 1) ^^^ 0x87 else v <<< 1).toNat

/-- The blocks of a data unit enciphered or deciphered with their tweaks. -/
def xtsBlocks (cipher : List Byte → List Byte) : List Byte → List (List Byte) → List Byte
  | _, [] => []
  | t, b :: bs => xorBytes (cipher (xorBytes b t)) t ++ xtsBlocks cipher (xtsDouble t) bs

/-- XTS-AES-256 encryption of a data unit of whole blocks (IEEE 1619). -/
def xtsEnc (k1 k2 : List Byte) (unit : Nat) (p : List Byte) : List Byte :=
  xtsBlocks (aesEnc k1) (aesEnc k2 (toBytes 16 unit)) (pieces 16 (p.length / 16) p)

/-- XTS-AES-256 decryption of a data unit of whole blocks (IEEE 1619). -/
def xtsDec (k1 k2 : List Byte) (unit : Nat) (c : List Byte) : List Byte :=
  xtsBlocks (aesDec k1) (aesEnc k2 (toBytes 16 unit)) (pieces 16 (c.length / 16) c)

/-- Multiplication in GF(2^128) as GHASH does it: the first bit is the most significant. -/
def ghashMul (x y : BitVec 128) : BitVec 128 :=
  ((List.range 128).foldl (fun (p : BitVec 128 × BitVec 128) k =>
    (if x.getLsbD (127 - k) then p.1 ^^^ p.2 else p.1,
     if p.2.getLsbD 0 then (p.2 >>> 1) ^^^ (0xE1#128 <<< 120) else p.2 >>> 1)) (0, y)).1

/-- Bytes in blocks of 16, the last filled up with zeros. -/
def blocks16 (m : List Byte) : List (List Byte) :=
  let n := (m.length + 15) / 16
  pieces 16 n (m ++ List.replicate (16 * n - m.length) 0)

/-- The tag of AES-256-GCM over authenticated data and a ciphertext, with a nonce of 12 bytes (SP 800-38D). -/
def gcmTag (key nonce aad c : List Byte) : List Byte :=
  let h := BitVec.ofNat 128 (ofBe (aesEnc key (List.replicate 16 0)))
  let absorb (y : BitVec 128) (b : List Byte) : BitVec 128 := ghashMul (y ^^^ BitVec.ofNat 128 (ofBe b)) h
  let y := absorb ((blocks16 aad ++ blocks16 c).foldl absorb 0) (beBytes 8 (8 * aad.length) ++ beBytes 8 (8 * c.length))
  xorBytes (beBytes 16 y.toNat) (aesEnc key (nonce ++ beBytes 4 1))

/-- The key stream of AES-256-GCM applied to bytes. -/
def gcmStream (key nonce m : List Byte) : List Byte :=
  xorBytes m ((List.range ((m.length + 15) / 16)).flatMap fun k => aesEnc key (nonce ++ beBytes 4 (k + 2)))

/-- AES-256-GCM encryption: the ciphertext and the tag. -/
def gcmSeal (key nonce aad p : List Byte) : List Byte × List Byte :=
  let c := gcmStream key nonce p
  (c, gcmTag key nonce aad c)

/-- AES-256-GCM decryption: the plaintext, and the tag that a sound message has. -/
def gcmOpen (key nonce aad c : List Byte) : List Byte × List Byte := (gcmStream key nonce c, gcmTag key nonce aad c)

/-- The tag of AES-256-GMAC over a message, with a nonce of 12 bytes (SP 800-38D). -/
def gmac (key nonce m : List Byte) : List Byte := gcmTag key nonce m []

/-- One step of the unwrapping of RFC 3394: the register A and the n blocks. -/
def unwrapStep (kek : List Byte) (n : Nat) (st : List Byte × List (List Byte)) (t : Nat) : List Byte × List (List Byte) :=
  let i := (t - 1) % n
  let b := aesDec kek (beBytes 8 (Nat.xor (ofBe st.1) t) ++ st.2.getD i [])
  (b.take 8, st.2.set i (b.drop 8))

/-- AES key unwrap (RFC 3394): none where the integrity check fails. -/
def keyUnwrap (kek wrapped : List Byte) : Option (List Byte) :=
  let n := wrapped.length / 8 - 1
  let r := ((List.range (6 * n)).reverse.map (· + 1)).foldl (unwrapStep kek n) (wrapped.take 8, pieces 8 n (wrapped.drop 8))
  if r.1 = List.replicate 8 (0xA6 : Byte) then some r.2.flatten else none

/-- One step of Trivium (ISO/IEC 29192-3): the key bit and the next state; bit i of the state is s(i + 1). -/
def triviumStep (x : BitVec 288) : Bool × BitVec 288 :=
  let s (i : Nat) : Bool := x.getLsbD (i - 1)
  let put (i : Nat) (b : Bool) (v : BitVec 288) : BitVec 288 := (v &&& ~~~(1#288 <<< i)) ||| (if b then 1#288 <<< i else 0)
  let t1 := s 66 ^^ s 93
  let t2 := s 162 ^^ s 177
  let t3 := s 243 ^^ s 288
  (t1 ^^ t2 ^^ t3, put 177 (t2 ^^ (s 175 && s 176) ^^ s 264) (put 93 (t1 ^^ (s 91 && s 92) ^^ s 171)
    (put 0 (t3 ^^ (s 286 && s 287) ^^ s 69) (x <<< 1))))

/-- Key bits of Trivium from a state on. -/
def triviumBits : Nat → BitVec 288 → List Bool
  | 0, _ => []
  | n + 1, x => let r := triviumStep x; r.1 :: triviumBits n r.2

/-- The bits of 10 bytes in the order in which they are loaded: from the last byte, most significant bit first. -/
def triviumLoad (bs : List Byte) : List Bool := bs.reverse.flatMap fun b => (List.range 8).map fun k => b.getLsbD (7 - k)

/-- Bytes of the Trivium keystream of a key and an IV of 80 bits, from one on. -/
def trivium (key iv : List Byte) (from_ n : Nat) : List Byte :=
  let at_ (i : Nat) (bits : List Bool) (v : BitVec 288) : BitVec 288 :=
    (bits.mapIdx fun j b => (i + j, b)).foldl (fun v x => if x.2 then v ||| (1#288 <<< x.1) else v) v
  let bits := (triviumBits (1152 + 8 * (from_ + n)) (at_ 0 (triviumLoad key) (at_ 93 (triviumLoad iv) (7#288 <<< 285)))).drop (1152 + 8 * from_)
  (List.range n).map fun k => (List.range 8).foldl (fun (v : Byte) j => if bits.getD (8 * k + j) false then v ||| (1 <<< j) else v) 0

/-- The 384-bit Brainpool curve brainpoolP384r1 (RFC 5639): its prime, coefficients, generator and order. -/
def ecP : Nat := 0x8CB91E82A3386D280F5D6F7E50E641DF152F7109ED5456B412B1DA197FB71123ACD3A729901D1A71874700133107EC53
def ecA : Nat := 0x7BC382C63D8C150C3C72080ACE05AFA0C2BEA28E4FB22787139165EFBA91F90F8AA5814A503AD4EB04A8C7DD22CE2826
def ecB : Nat := 0x04A8C7DD22CE28268B39B55416F0447C2FB77DE107DCD2A62E880EA53EEB62D57CB4390295DBC9943AB78696FA504C11
def ecG : Nat × Nat :=
  (0x1D1C64F068CF45FFA2A63A81B7C13F6B8847A3E77EF14FE3DB7FCAFE0CBD10E8E826E03436D646AAEF87B2E247D4AF1E,
   0x8ABE1D7520F9C2A45CB1EB8E95CFD55262B70B29FEEC5864E19C054FF99129280E4646217791811142820341263C5315)
def ecN : Nat := 0x8CB91E82A3386D280F5D6F7E50E641DF152F7109ED5456B31F166E6CAC0425A7CF3AB6AF6B7FC3103B883202E9046565

/-- A power modulo a number, by the bits of the exponent. -/
def powMod (m b e : Nat) : Nat :=
  ((List.range 384).foldl (fun (r : Nat × Nat) k => (if e.testBit k then r.1 * r.2 % m else r.1, r.2 * r.2 % m)) (1, b % m)).1

/-- Addition of points; `none` is the point at infinity. -/
def ecAdd : Option (Nat × Nat) → Option (Nat × Nat) → Option (Nat × Nat)
  | none, q => q
  | p, none => p
  | some (x, y), some (u, v) =>
    if x = u ∧ (y + v) % ecP = 0 then none
    else
      let l := if x = u then (3 * x * x + ecA) * powMod ecP (2 * y) (ecP - 2) % ecP
        else (v + (ecP - y)) * powMod ecP (u + (ecP - x)) (ecP - 2) % ecP
      let w := (l * l + 2 * ecP - x - u) % ecP
      some (w, (l * (x + ecP - w) + ecP - y) % ecP)

/-- A multiple of a point, by the bits of the factor. -/
def ecMul (k : Nat) (p : Option (Nat × Nat)) : Option (Nat × Nat) :=
  (List.range 384).foldr (fun j r => let r := ecAdd r r; if k.testBit j then ecAdd r p else r) none

/-- An uncompressed point that lies on the curve. -/
def ecPoint (bs : List Byte) : Option (Nat × Nat) :=
  let x := ofBe ((bs.drop 1).take 48)
  let y := ofBe ((bs.drop 49).take 48)
  if bs.length = 97 ∧ bs.headD 0 = 4 ∧ x < ecP ∧ y < ecP ∧ y * y % ecP = (x * x * x + ecA * x + ecB) % ecP then some (x, y) else none

/-- A point in uncompressed form. -/
def ecBytes (p : Nat × Nat) : List Byte := 4 :: beBytes 48 p.1 ++ beBytes 48 p.2

/-- The ECDSA signature of a digest by a private key, with a secret number k (FIPS 186-5). -/
def ecdsa (d k : Nat) (digest : List Byte) : List Byte :=
  let r := (match ecMul k (some ecG) with | some p => p.1 | none => 0) % ecN
  beBytes 48 r ++ beBytes 48 (powMod ecN k (ecN - 2) * (ofBe digest + r * d) % ecN)

end Sys2Proof.Machine
end

