-- ==== Sys2Proof/Machine/Float.lean ====
section
/-!
DEFINITION. Number formats and exact arithmetic (R130 to R147): decoding of codes, rounding of exact values, the
special values and flags of conversions and operations. Values are exact dyadic numbers; a quotient or a root is its
leading bits with a mark that more follow.
-/
namespace Sys2Proof.Float

/-- The policies of R134. -/
inductive Policy where | ieee | fn | nz | finite
  deriving DecidableEq, Repr

/-- A floating-point format (R130, R131, R133). `binary` marks the formats that have signalling NaNs (R142);
`e8m0` the unsigned exponent format of R131. -/
structure Fmt where
  sign : Bool
  eb : Nat
  mb : Nat
  bias : Int
  policy : Policy
  binary : Bool := false
  e8m0 : Bool := false
  deriving DecidableEq, Repr

def f64 : Fmt := ⟨true, 11, 52, 1023, .ieee, true, false⟩
def f32 : Fmt := ⟨true, 8, 23, 127, .ieee, true, false⟩
def f16 : Fmt := ⟨true, 5, 10, 15, .ieee, true, false⟩
def bf16 : Fmt := ⟨true, 8, 7, 127, .ieee, true, false⟩
def e4m3 : Fmt := ⟨true, 4, 3, 7, .fn, false, false⟩
def e5m2 : Fmt := ⟨true, 5, 2, 15, .ieee, false, false⟩
def e3m2 : Fmt := ⟨true, 3, 2, 3, .finite, false, false⟩
def e2m3 : Fmt := ⟨true, 2, 3, 1, .finite, false, false⟩
def e2m1 : Fmt := ⟨true, 2, 1, 1, .finite, false, false⟩
def e8m0 : Fmt := ⟨false, 8, 0, 127, .finite, false, true⟩

/-- The width of a format in bits. -/
def Fmt.width (f : Fmt) : Nat := f.sign.toNat + f.eb + f.mb
/-- The number of codes of the magnitude (exponent and mantissa fields). -/
def Fmt.mags (f : Fmt) : Nat := 2 ^ (f.eb + f.mb)
/-- The exponent of the smallest normal (R143); E8M0 has no subnormals. -/
def Fmt.emin (f : Fmt) : Int := if f.e8m0 then -127 else 1 - f.bias
/-- The largest finite magnitude's code (R130, R131, R134). -/
def Fmt.maxCode (f : Fmt) : Nat :=
  if f.e8m0 then 254
  else match f.policy with
    | .ieee => (2 ^ f.eb - 1) * 2 ^ f.mb - 1
    | .fn => f.mags - 2
    | _ => f.mags - 1
/-- The format has infinities. -/
def Fmt.hasInf (f : Fmt) : Bool := f.policy == .ieee && !f.e8m0
/-- The canonical NaN (R142); none where the format has none. -/
def Fmt.nan? (f : Fmt) : Option Nat :=
  if f.e8m0 then some 255
  else match f.policy with
    | .ieee => some ((2 ^ f.eb - 1) * 2 ^ f.mb + 2 ^ (f.mb - 1))
    | .fn => some (f.mags - 1)
    | .nz => some f.mags
    | .finite => none
/-- The code of a sign and a magnitude's code; a format without −0 loses the sign of zero (R141). -/
def Fmt.code (f : Fmt) (neg : Bool) (mag : Nat) : Nat :=
  if neg && f.sign && !(mag == 0 && f.policy == .nz) then f.mags + mag else mag
/-- The code of an infinity. -/
def Fmt.infCode (f : Fmt) (neg : Bool) : Nat := f.code neg ((2 ^ f.eb - 1) * 2 ^ f.mb)

/-- A descriptor is valid (R133). -/
def descValid (d : Word) : Bool :=
  let sg := (d.extractLsb' 0 1).toNat; let m := (d.extractLsb' 1 3).toNat; let e := (d.extractLsb' 4 4).toNat
  let p := (d.extractLsb' 16 2).toNat; let w := sg + e + m
  d.extractLsb' 18 14 == 0 && 2 ≤ w && w ≤ 8 && 1 ≤ e && (p != 0 || (2 ≤ e && 1 ≤ m)) && (p != 2 || sg == 1)

/-- The format of a descriptor (R133, R134). -/
def descFmt (d : Word) : Fmt where
  sign := d.getLsbD 0
  mb := (d.extractLsb' 1 3).toNat
  eb := (d.extractLsb' 4 4).toNat
  bias := (d.extractLsb' 8 8).toInt
  policy := match (d.extractLsb' 16 2).toNat with | 0 => .ieee | 1 => .fn | 2 => .nz | _ => .finite

/-- The value of a code (R130, R131, R134, R136). -/
def Fmt.decode (f : Fmt) (c : Nat) : XNum :=
  if f.e8m0 then (if c % 256 = 255 then .nan false else .fin false 1 ((c % 256 : Nat) - 127))
  else
    let mag := c % f.mags
    let neg := f.sign && (c / f.mags) % 2 = 1
    let e := mag / 2 ^ f.mb
    let m := mag % 2 ^ f.mb
    if f.policy = .ieee ∧ e = 2 ^ f.eb - 1 then
      (if m = 0 then .inf neg else .nan (f.binary && m < 2 ^ (f.mb - 1)))
    else if f.policy = .fn ∧ mag = f.mags - 1 then .nan false
    else if f.policy = .nz ∧ neg ∧ mag = 0 then .nan false
    else if e = 0 then .fin neg m (f.emin - f.mb)
    else .fin neg (2 ^ f.mb + m) ((e : Int) - f.bias - f.mb)

/-- Flags of `%fpflag` (R128). -/
abbrev Flags := BitVec 5
def INV : Flags := 1
def DZ : Flags := 2
def OVF : Flags := 4
def UNF : Flags := 8
def INX : Flags := 16

/-- Rounding modes (R139); `rs` carries its 16-bit number (R140). -/
inductive Rm where | rn | rna | rz | ru | rd | rs (rnd : Nat)
  deriving DecidableEq, Repr

/-- The mode of a code RM (R267); `rs` with its number. -/
def rmOf (rm : BitVec 3) (rnd : Nat) : Rm :=
  match rm.toNat with | 0 => .rn | 1 => .rna | 2 => .rz | 3 => .ru | 4 => .rd | _ => .rs rnd

/-- The number of stochastic rounding (R140). -/
def stochastic (seed : Word) (k : Nat) : Nat :=
  let h := seed ^^^ BitVec.ofNat 32 (k * 0x9E3779B9)
  let h := (h ^^^ (h >>> 16)) * 0x85EBCA6B#32
  let h := (h ^^^ (h >>> 13)) * 0xC2B2AE35#32
  ((h ^^^ (h >>> 16)).extractLsb' 0 16).toNat

/-- An exact value as it reaches rounding: magnitude between m·2^e and (m+1)·2^e, equal to the former unless `more`
(then m has at least 80 bits). -/
structure Exact where
  neg : Bool
  m : Nat
  e : Int
  more : Bool := false
  deriving DecidableEq, Repr

/-- 2^k for an exponent that is not negative, as a Nat. -/
def pow2 (k : Int) : Nat := 2 ^ k.toNat

/-- Round a magnitude up by a mode: `lo` is the code or integer below, `rem`/2^d the part cut off, `more` what lies
below even that (R139, R140). -/
def roundsUp (rm : Rm) (neg : Bool) (lo rem d : Nat) (more : Bool) : Bool :=
  let half := 2 ^ (d - 1)
  match rm with
  | .rn => d ≠ 0 && (half < rem || (rem = half && (more || lo % 2 = 1)))
  | .rna => d ≠ 0 && half ≤ rem
  | .rz => false
  | .ru => !neg && (rem ≠ 0 || more)
  | .rd => neg && (rem ≠ 0 || more)
  | .rs rnd => (rem ≠ 0 || more) && 65536 ≤ (rem * 65536) / 2 ^ d + rnd

/-- A result of overflow (R140, R141). -/
def Fmt.overflow (f : Fmt) (rm : Rm) (sat neg : Bool) : Nat :=
  let top := f.code neg f.maxCode
  if sat || !f.hasInf then top
  else match rm with
    | .rn | .rna => f.infCode neg
    | .rz | .rs _ => top
    | .ru => if neg then top else f.infCode neg
    | .rd => if neg then f.infCode neg else top

/-- A finite non-zero exact value rounded into a format, with its flags (R139 to R141, R143). -/
def Fmt.roundFinite (f : Fmt) (rm : Rm) (sat : Bool) (x : Exact) : Nat × Flags :=
  if x.neg && !f.sign then (0, UNF ||| INX)
  else
    let lead : Int := (Nat.log2 x.m : Int) + x.e
    if f.e8m0 && lead < -127 then (0, UNF ||| INX)
    else
      let top := max lead f.emin
      let q := top - f.mb
      let d := (q - x.e).toNat
      let m := x.m * pow2 (x.e - q)
      let n := m / 2 ^ d
      let rem := m % 2 ^ d
      let lo := if f.e8m0 then (lead + 127).toNat
        else if n < 2 ^ f.mb then n else (top + f.bias).toNat * 2 ^ f.mb + (n - 2 ^ f.mb)
      let inexact := rem ≠ 0 || x.more
      let hi := if roundsUp rm x.neg lo rem d x.more then lo + 1 else lo
      let beyond := match rm with
        | .rs _ => f.maxCode < lo || (lo = f.maxCode && inexact)
        | _ => f.maxCode < hi
      if beyond then (f.overflow rm sat x.neg, OVF ||| INX)
      else (f.code x.neg hi, (if inexact then INX else 0) ||| (if inexact && lead < f.emin then UNF else 0))

/-- An extended real rounded into a format (R139 to R143): what an arithmetic result or a conversion writes. -/
def Fmt.round (f : Fmt) (rm : Rm) (sat : Bool) (x : XNum) (more : Bool := false) : Nat × Flags :=
  match x with
  | .nan sig =>
    match f.nan? with
    | some c => (c, if sig then INV else 0)
    | none => (0, INV)
  | .inf neg =>
    if neg && !f.sign then (0, INV)
    else if f.hasInf then (f.infCode neg, 0) else (f.code neg f.maxCode, OVF)
  | .fin neg m e =>
    if m = 0 then (if f.e8m0 then (0, UNF ||| INX) else (f.code neg 0, 0))
    else f.roundFinite rm sat ⟨neg, m, e, more⟩

/-- A signed or unsigned integer range of w bits. -/
def intRange (sg : Bool) (w : Nat) : Int × Int :=
  if sg then (-(2 : Int) ^ (w - 1), 2 ^ (w - 1) - 1) else (0, 2 ^ w - 1)

/-- An exact value rounded to an integer by a mode, and whether it was inexact. -/
def roundInt (rm : Rm) (neg : Bool) (m : Nat) (e : Int) : Int × Bool :=
  let d := (-e).toNat
  let m' := m * pow2 e
  let n := m' / 2 ^ d
  let rem := m' % 2 ^ d
  let r := if roundsUp rm neg n rem d false then n + 1 else n
  (if neg then -(r : Int) else r, rem ≠ 0)

/-- An extended real into an integer of w bits (R141): saturates with INV; NaN gives 0. -/
def toInt (rm : Rm) (sg : Bool) (w : Nat) (x : XNum) : Int × Flags :=
  let (lo, hi) := intRange sg w
  match x with
  | .nan _ => (0, INV)
  | .inf neg => (if neg then lo else hi, INV)
  | .fin neg m e =>
    if neg && m ≠ 0 && !sg then (0, INV)
    else
      let (r, ix) := roundInt rm neg m e
      if r < lo then (lo, INV) else if hi < r then (hi, INV) else (r, if ix then INX else 0)

/-- An integer as an exact value. -/
def ofInt (z : Int) : XNum := .fin (z < 0) z.natAbs 0

/-- Signalling NaN. -/
def isSig : XNum → Bool | .nan s => s | _ => false
def isNan : XNum → Bool | .nan _ => true | _ => false
def isNeg : XNum → Bool | .nan _ => false | .inf n => n | .fin n _ _ => n
def isZero : XNum → Bool | .fin _ m _ => m = 0 | _ => false
def isInf : XNum → Bool | .inf _ => true | _ => false
def negate : XNum → XNum | .nan s => .nan s | .inf n => .inf !n | .fin n m e => .fin (!n) m e

/-- A signed integer at a power of two. -/
def scaled (neg : Bool) (m : Nat) (e e0 : Int) : Int :=
  let v : Int := (m * pow2 (e - e0) : Nat)
  if neg then -v else v

/-- The exact sum of two finite values; `zneg` is the sign of an exact zero of unlike signs. -/
def addFin (zneg : Bool) (n1 : Bool) (m1 : Nat) (e1 : Int) (n2 : Bool) (m2 : Nat) (e2 : Int) : XNum :=
  let e0 := min e1 e2
  let z := scaled n1 m1 e1 e0 + scaled n2 m2 e2 e0
  if z = 0 then .fin (if n1 = n2 then n1 else zneg) 0 0 else .fin (z < 0) z.natAbs e0

/-- An add with its flags (R142, R144): NaN operands, infinities of opposite sign. -/
def add (zneg : Bool) (a b : XNum) : XNum × Flags :=
  match a, b with
  | .nan s, b => (.nan false, if s || isSig b then INV else 0)
  | a, .nan s => (.nan false, if s || isSig a then INV else 0)
  | .inf n1, .inf n2 => if n1 = n2 then (.inf n1, 0) else (.nan false, INV)
  | .inf n, .fin .. => (.inf n, 0)
  | .fin .., .inf n => (.inf n, 0)
  | .fin n1 m1 e1, .fin n2 m2 e2 => (addFin zneg n1 m1 e1 n2 m2 e2, 0)

/-- A product with its flags. -/
def mul (a b : XNum) : XNum × Flags :=
  match a, b with
  | .nan s, b => (.nan false, if s || isSig b then INV else 0)
  | a, .nan s => (.nan false, if s || isSig a then INV else 0)
  | .inf n1, b => if isZero b then (.nan false, INV) else (.inf (n1 != isNeg b), 0)
  | a, .inf n2 => if isZero a then (.nan false, INV) else (.inf (isNeg a != n2), 0)
  | .fin n1 m1 e1, .fin n2 m2 e2 => (.fin (n1 != n2) (m1 * m2) (e1 + e2), 0)

/-- A product of a sum; of integers, which have no −0, a product of zero is +0 (R132, R147, R215). -/
def prod (ints : Bool) (a b : XNum) : XNum × Flags :=
  let p := mul a b
  (if ints && isZero p.1 then .fin false 0 0 else p.1, p.2)

/-- a · b + c formed exactly (R309): 0 · ∞ sets INV even beside a quiet NaN. -/
def fma (zneg : Bool) (a b c : XNum) : XNum × Flags :=
  let (p, f1) := mul a b
  let (x, f2) := add zneg p c
  (x, f1 ||| f2)

/-- A quotient: value, whether more bits follow, flags (R144). -/
def div (a b : XNum) : XNum × Bool × Flags :=
  match a, b with
  | .nan s, b => (.nan false, false, if s || isSig b then INV else 0)
  | a, .nan s => (.nan false, false, if s || isSig a then INV else 0)
  | .inf n1, b => if isInf b then (.nan false, false, INV) else (.inf (n1 != isNeg b), false, 0)
  | .fin n1 _ _, .inf n2 => (.fin (n1 != n2) 0 0, false, 0)
  | .fin n1 m1 e1, .fin n2 m2 e2 =>
    if m2 = 0 then (if m1 = 0 then (.nan false, false, INV) else (.inf (n1 != n2), false, DZ))
    else
      let k : Nat := 160
      let t := m1 * 2 ^ k
      (.fin (n1 != n2) (t / m2) (e1 - e2 - k), t % m2 ≠ 0, 0)

/-- The integer square root, bit by bit from bit k − 1 down. -/
def isqrt (n : Nat) : Nat → Nat → Nat
  | 0, r => r
  | k + 1, r => isqrt n k (if (r + 2 ^ k) * (r + 2 ^ k) ≤ n then r + 2 ^ k else r)

/-- A square root: value, whether more bits follow, flags (R144, R309). -/
def sqrt (a : XNum) : XNum × Bool × Flags :=
  match a with
  | .nan s => (.nan false, false, if s then INV else 0)
  | .inf n => if n then (.nan false, false, INV) else (.inf false, false, 0)
  | .fin n m e =>
    if m = 0 then (.fin n 0 0, false, 0)
    else if n then (.nan false, false, INV)
    else
      let k : Nat := 240 + (if (e + 240) % 2 = 0 then 0 else 1)
      let t := m * 2 ^ k
      let r := isqrt t (Nat.log2 t / 2 + 1) 0
      (.fin false r ((e - k) / 2), r * r ≠ t, 0)

/-- Order of two values that are not NaN; −0 equals +0. -/
def lt (a b : XNum) : Bool :=
  match a, b with
  | .nan _, _ => false
  | _, .nan _ => false
  | .inf n1, .inf n2 => n1 && !n2
  | .inf n1, .fin .. => n1
  | .fin .., .inf n2 => !n2
  | .fin n1 m1 e1, .fin n2 m2 e2 => let e0 := min e1 e2; scaled n1 m1 e1 e0 < scaled n2 m2 e2 e0

/-- Equality of two values that are not NaN; −0 equals +0. -/
def eq (a b : XNum) : Bool := !isNan a && !isNan b && !lt a b && !lt b a

/-- A comparison with its flags (R311). -/
def compare (op : FCmp) (a b : XNum) : Bool × Flags :=
  let un := isNan a || isNan b
  let sig := isSig a || isSig b
  let inv : Flags := match op with
    | .lt | .le | .gt | .ge => if un then INV else 0
    | _ => if sig then INV else 0
  let r := match op with
    | .eq => eq a b
    | .ne => un || !eq a b
    | .lt => lt a b
    | .le => !un && !lt b a
    | .gt => lt b a
    | .ge => !un && !lt a b
    | .un => un
  (r, inv)

/-- minimumNumber and maximumNumber (R310): −0 is less than +0; a NaN yields the other operand. -/
def minmax (isMax : Bool) (a b : XNum) : XNum × Flags :=
  let fl : Flags := if isSig a || isSig b then INV else 0
  let r := if isNan a then (if isNan b then .nan false else b) else if isNan b then a
    else if isZero a && isZero b then .fin (if isMax then isNeg a && isNeg b else isNeg a || isNeg b) 0 0
    else if lt a b then (if isMax then b else a) else (if isMax then a else b)
  (r, fl)

/-- The class bit of a value (R313). -/
def classBit (f : Fmt) (x : XNum) : Nat :=
  match x with
  | .nan s => if s then 8 else 9
  | .inf n => if n then 0 else 7
  | .fin n m e =>
    if m = 0 then (if n then 3 else 4)
    else if (Nat.log2 m : Int) + e < f.emin then (if n then 2 else 5) else (if n then 1 else 6)

/-- roundToIntegral (R314): no INX; a zero keeps the sign. -/
def roundIntegral (rm : Rm) (x : XNum) : XNum × Flags :=
  match x with
  | .nan s => (.nan false, if s then INV else 0)
  | .inf n => (.inf n, 0)
  | .fin n m e => if 0 ≤ e then (x, 0) else (.fin n (roundInt rm n m e).1.natAbs 0, 0)

/-- The exact sum of a list of terms and an incoming value (R147): NaN, infinities, and the sign of a zero sum. The
flag says whether an infinity met its opposite, in the order of the terms: after a NaN none does (log 80, DESIGN CHOICE). -/
def sum (c : XNum) (ts : List XNum) : XNum × Flags :=
  let all := c :: ts
  let allNegZero := all.all fun x => isZero x && isNeg x
  ts.foldl (fun (acc, fl) t =>
    let (x, f) := add false acc t
    (if isZero x then .fin allNegZero 0 0 else x, fl ||| f)) (if isZero c then .fin allNegZero 0 0 else c, 0)

/-- Floor of log2 of a finite non-zero magnitude. -/
def ilog2 (m : Nat) (e : Int) : Int := (Nat.log2 m : Int) + e

end Sys2Proof.Float
end

