-- ==== Sys2Proof/Syntax.lean ====
section
/-!
DEFINITION. The instruction of the model: one constructor per row of the table of operations and events (R262 to
R274 for the Ixrix forms; the rule named beside each device event). An Ixrix form carries its common part `Hd` and
its operands as encoded; a device event carries the data it brings from outside the machine or the choice of agent
it is a step of.
-/
namespace Sys2Proof

inductive Instr where
  /-- `NOP`, R301. -/
  | nop (h : Hd)
  /-- `NOP_96`, R301. -/
  | nop96 (h : Hd)
  /-- `NOP_128`, R301. -/
  | nop128 (h : Hd)
  /-- `NOP_ONE_PARCEL`, R263. -/
  | nopOneParcel (h : Hd)
  /-- `BRA`, R299. -/
  | bra (h : Hd) (off : BitVec 30)
  /-- `BRX`, R299. -/
  | brx (h : Hd) (a : BitVec 8)
  /-- `CALL`, R299. -/
  | call (h : Hd) (d : BitVec 8) (off : BitVec 30)
  /-- `CALLX`, R299. -/
  | callx (h : Hd) (d : BitVec 8) (a : BitVec 8)
  /-- `RET`, R299. -/
  | ret (h : Hd) (a : BitVec 8)
  /-- `EXIT`, R300. -/
  | exit (h : Hd)
  /-- `YIELD`, R301. -/
  | yield (h : Hd)
  /-- `IADD`, R287. -/
  | iadd (h : Hd) (sat : Bool) (ty : BitVec 6) (d : BitVec 8) (a : BitVec 8) (b : BitVec 8)
  /-- `IADD_IMM`, R287. -/
  | iaddImm (h : Hd) (sat : Bool) (ty : BitVec 6) (d : BitVec 8) (a : BitVec 8) (imm : Word)
  /-- `ISUB`, R287. -/
  | isub (h : Hd) (sat : Bool) (ty : BitVec 6) (d : BitVec 8) (a : BitVec 8) (b : BitVec 8)
  /-- `ISUB_IMM`, R287. -/
  | isubImm (h : Hd) (sat : Bool) (ty : BitVec 6) (d : BitVec 8) (a : BitVec 8) (imm : Word)
  /-- `IMUL`, R287. -/
  | imul (h : Hd) (ty : BitVec 6) (d : BitVec 8) (a : BitVec 8) (b : BitVec 8)
  /-- `IMUL_IMM`, R287. -/
  | imulImm (h : Hd) (ty : BitVec 6) (d : BitVec 8) (a : BitVec 8) (imm : Word)
  /-- `IMULH`, R287. -/
  | imulh (h : Hd) (ty : BitVec 6) (d : BitVec 8) (a : BitVec 8) (b : BitVec 8)
  /-- `IMULH_IMM`, R287. -/
  | imulhImm (h : Hd) (ty : BitVec 6) (d : BitVec 8) (a : BitVec 8) (imm : Word)
  /-- `IMAD`, R287. -/
  | imad (h : Hd) (ty : BitVec 6) (d : BitVec 8) (a : BitVec 8) (b : BitVec 8) (c : BitVec 8)
  /-- `IMAD_IMM`, R287. -/
  | imadImm (h : Hd) (ty : BitVec 6) (d : BitVec 8) (a : BitVec 8) (c : BitVec 8) (imm : Word)
  /-- `IMIN`, R287. -/
  | imin (h : Hd) (ty : BitVec 6) (d : BitVec 8) (a : BitVec 8) (b : BitVec 8)
  /-- `IMIN_IMM`, R287. -/
  | iminImm (h : Hd) (ty : BitVec 6) (d : BitVec 8) (a : BitVec 8) (imm : Word)
  /-- `IMAX`, R287. -/
  | imax (h : Hd) (ty : BitVec 6) (d : BitVec 8) (a : BitVec 8) (b : BitVec 8)
  /-- `IMAX_IMM`, R287. -/
  | imaxImm (h : Hd) (ty : BitVec 6) (d : BitVec 8) (a : BitVec 8) (imm : Word)
  /-- `IABS`, R287. -/
  | iabs (h : Hd) (ty : BitVec 6) (d : BitVec 8) (a : BitVec 8)
  /-- `INEG`, R287. -/
  | ineg (h : Hd) (ty : BitVec 6) (d : BitVec 8) (a : BitVec 8)
  /-- `IDIV`, R288. -/
  | idiv (h : Hd) (ty : BitVec 6) (d : BitVec 8) (a : BitVec 8) (b : BitVec 8)
  /-- `IDIV_IMM`, R288. -/
  | idivImm (h : Hd) (ty : BitVec 6) (d : BitVec 8) (a : BitVec 8) (imm : Word)
  /-- `IMOD`, R288. -/
  | imod (h : Hd) (ty : BitVec 6) (d : BitVec 8) (a : BitVec 8) (b : BitVec 8)
  /-- `IMOD_IMM`, R288. -/
  | imodImm (h : Hd) (ty : BitVec 6) (d : BitVec 8) (a : BitVec 8) (imm : Word)
  /-- `ICMP`, R289. -/
  | icmp (h : Hd) (cmp : Cmp) (ty : BitVec 6) (d : BitVec 3) (a : BitVec 8) (b : BitVec 8)
  /-- `ICMP_IMM`, R289. -/
  | icmpImm (h : Hd) (cmp : Cmp) (ty : BitVec 6) (d : BitVec 3) (a : BitVec 8) (imm : Word)
  /-- `AND`, R290. -/
  | and (h : Hd) (ty : BitVec 6) (d : BitVec 8) (a : BitVec 8) (b : BitVec 8)
  /-- `AND_IMM`, R290. -/
  | andImm (h : Hd) (ty : BitVec 6) (d : BitVec 8) (a : BitVec 8) (imm : Word)
  /-- `OR`, R290. -/
  | or (h : Hd) (ty : BitVec 6) (d : BitVec 8) (a : BitVec 8) (b : BitVec 8)
  /-- `OR_IMM`, R290. -/
  | orImm (h : Hd) (ty : BitVec 6) (d : BitVec 8) (a : BitVec 8) (imm : Word)
  /-- `XOR`, R290. -/
  | xor (h : Hd) (ty : BitVec 6) (d : BitVec 8) (a : BitVec 8) (b : BitVec 8)
  /-- `XOR_IMM`, R290. -/
  | xorImm (h : Hd) (ty : BitVec 6) (d : BitVec 8) (a : BitVec 8) (imm : Word)
  /-- `NOT`, R290. -/
  | not (h : Hd) (ty : BitVec 6) (d : BitVec 8) (a : BitVec 8)
  /-- `ANDN`, R290. -/
  | andn (h : Hd) (ty : BitVec 6) (d : BitVec 8) (a : BitVec 8) (b : BitVec 8)
  /-- `ANDN_IMM`, R290. -/
  | andnImm (h : Hd) (ty : BitVec 6) (d : BitVec 8) (a : BitVec 8) (imm : Word)
  /-- `SHL`, R290. -/
  | shl (h : Hd) (ty : BitVec 6) (d : BitVec 8) (a : BitVec 8) (b : BitVec 8)
  /-- `SHL_IMM`, R290. -/
  | shlImm (h : Hd) (ty : BitVec 6) (d : BitVec 8) (a : BitVec 8) (imm : Word)
  /-- `SHR`, R290. -/
  | shr (h : Hd) (ty : BitVec 6) (d : BitVec 8) (a : BitVec 8) (b : BitVec 8)
  /-- `SHR_IMM`, R290. -/
  | shrImm (h : Hd) (ty : BitVec 6) (d : BitVec 8) (a : BitVec 8) (imm : Word)
  /-- `SAR`, R290. -/
  | sar (h : Hd) (ty : BitVec 6) (d : BitVec 8) (a : BitVec 8) (b : BitVec 8)
  /-- `SAR_IMM`, R290. -/
  | sarImm (h : Hd) (ty : BitVec 6) (d : BitVec 8) (a : BitVec 8) (imm : Word)
  /-- `ROT`, R290. -/
  | rot (h : Hd) (ty : BitVec 6) (d : BitVec 8) (a : BitVec 8) (b : BitVec 8)
  /-- `ROT_IMM`, R290. -/
  | rotImm (h : Hd) (ty : BitVec 6) (d : BitVec 8) (a : BitVec 8) (imm : Word)
  /-- `POPC`, R290. -/
  | popc (h : Hd) (ty : BitVec 6) (d : BitVec 8) (a : BitVec 8)
  /-- `CLZ`, R290. -/
  | clz (h : Hd) (ty : BitVec 6) (d : BitVec 8) (a : BitVec 8)
  /-- `CTZ`, R290. -/
  | ctz (h : Hd) (ty : BitVec 6) (d : BitVec 8) (a : BitVec 8)
  /-- `BREV`, R290. -/
  | brev (h : Hd) (ty : BitVec 6) (d : BitVec 8) (a : BitVec 8)
  /-- `BFX`, R291. -/
  | bfx (h : Hd) (ty : BitVec 6) (d : BitVec 8) (a : BitVec 8) (b : BitVec 8)
  /-- `BFX_IMM`, R291. -/
  | bfxImm (h : Hd) (ty : BitVec 6) (d : BitVec 8) (a : BitVec 8) (imm : Word)
  /-- `BFI`, R291. -/
  | bfi (h : Hd) (ty : BitVec 6) (d : BitVec 8) (a : BitVec 8) (b : BitVec 8) (c : BitVec 8)
  /-- `BFI_IMM`, R291. -/
  | bfiImm (h : Hd) (ty : BitVec 6) (d : BitVec 8) (a : BitVec 8) (c : BitVec 8) (imm : Word)
  /-- `BPERM`, R292. -/
  | bperm (h : Hd) (ty : BitVec 6) (d : BitVec 8) (a : BitVec 8) (b : BitVec 8) (c : BitVec 8)
  /-- `BPERM_IMM`, R292. -/
  | bpermImm (h : Hd) (ty : BitVec 6) (d : BitVec 8) (a : BitVec 8) (c : BitVec 8) (imm : Word)
  /-- `MOV`, R293. -/
  | mov (h : Hd) (ty : BitVec 6) (d : BitVec 8) (a : BitVec 8)
  /-- `MOVI`, R293. -/
  | movi (h : Hd) (ty : BitVec 6) (d : BitVec 8) (imm : Word)
  /-- `SEL`, R294. -/
  | sel (h : Hd) (ty : BitVec 6) (d : BitVec 8) (a : BitVec 8) (b : BitVec 8) (c : BitVec 3)
  /-- `SEL_IMM`, R294. -/
  | selImm (h : Hd) (ty : BitVec 6) (d : BitVec 8) (a : BitVec 8) (c : BitVec 3) (imm : Word)
  /-- `LEA`, R295. -/
  | lea (h : Hd) (ty : BitVec 6) (d : BitVec 8) (a : BitVec 8) (b : BitVec 8) (sh : BitVec 3)
  /-- `LEA_IMM`, R295. -/
  | leaImm (h : Hd) (ty : BitVec 6) (d : BitVec 8) (a : BitVec 8) (sh : BitVec 3) (imm : Word)
  /-- `PLOP`, R296. -/
  | plop (h : Hd) (op : PredOp) (ia : Bool) (ib : Bool) (d : BitVec 3) (a : BitVec 3) (b : BitVec 3)
  /-- `PMOV_TO_REGISTER`, R297. -/
  | pmovToRegister (h : Hd) (d : BitVec 8)
  /-- `PMOV_TO_PREDICATES`, R297. -/
  | pmovToPredicates (h : Hd) (a : BitVec 8)
  /-- `SQSYNC`, R303. -/
  | sqsync (h : Hd) (b : BitVec 8)
  /-- `SQSYNC_IMM`, R303. -/
  | sqsyncImm (h : Hd) (imm : Word)
  /-- `VOTE`, R304. -/
  | vote (h : Hd) (op : VoteOp) (ia : Bool) (d : BitVec 8) (a : BitVec 3) (b : BitVec 8)
  /-- `VOTE_IMM`, R304. -/
  | voteImm (h : Hd) (op : VoteOp) (ia : Bool) (d : BitVec 8) (a : BitVec 3) (imm : Word)
  /-- `SHFL`, R304. -/
  | shfl (h : Hd) (mode : ShflMode) (ty : BitVec 6) (d : BitVec 8) (a : BitVec 8) (b : BitVec 8) (c : BitVec 8)
  /-- `SHFL_IMM`, R304. -/
  | shflImm (h : Hd) (mode : ShflMode) (ty : BitVec 6) (d : BitVec 8) (a : BitVec 8) (c : BitVec 8) (imm : Word)
  /-- `MATCH`, R304. -/
  | sqMatch (h : Hd) (op : MatchOp) (ty : BitVec 6) (d : BitVec 8) (a : BitVec 8) (b : BitVec 8)
  /-- `MATCH_IMM`, R304. -/
  | sqMatchImm (h : Hd) (op : MatchOp) (ty : BitVec 6) (d : BitVec 8) (a : BitVec 8) (imm : Word)
  /-- `REDUX`, R304. -/
  | redux (h : Hd) (op : RedOp) (mode : ScanMode) (ty : BitVec 6) (d : BitVec 8) (a : BitVec 8) (b : BitVec 8)
  /-- `REDUX_IMM`, R304. -/
  | reduxImm (h : Hd) (op : RedOp) (mode : ScanMode) (ty : BitVec 6) (d : BitVec 8) (a : BitVec 8) (imm : Word)
  /-- `CONVOY`, R304. -/
  | convoy (h : Hd) (d : BitVec 8) (b : BitVec 8)
  /-- `CONVOY_IMM`, R304. -/
  | convoyImm (h : Hd) (d : BitVec 8) (imm : Word)
  /-- `FADD`, R309. -/
  | fadd (h : Hd) (ft : BitVec 3) (rm : BitVec 3) (d : BitVec 8) (a : BitVec 8) (b : BitVec 8)
  /-- `FSUB`, R309. -/
  | fsub (h : Hd) (ft : BitVec 3) (rm : BitVec 3) (d : BitVec 8) (a : BitVec 8) (b : BitVec 8)
  /-- `FMUL`, R309. -/
  | fmul (h : Hd) (ft : BitVec 3) (rm : BitVec 3) (d : BitVec 8) (a : BitVec 8) (b : BitVec 8)
  /-- `FFMA`, R309. -/
  | ffma (h : Hd) (ft : BitVec 3) (rm : BitVec 3) (d : BitVec 8) (a : BitVec 8) (b : BitVec 8) (c : BitVec 8)
  /-- `FMIN`, R310. -/
  | fmin (h : Hd) (ft : BitVec 3) (rm : BitVec 3) (d : BitVec 8) (a : BitVec 8) (b : BitVec 8)
  /-- `FMAX`, R310. -/
  | fmax (h : Hd) (ft : BitVec 3) (rm : BitVec 3) (d : BitVec 8) (a : BitVec 8) (b : BitVec 8)
  /-- `FCMP`, R311. -/
  | fcmp (h : Hd) (cmp : FCmp) (ft : BitVec 3) (rm : BitVec 3) (d : BitVec 3) (a : BitVec 8) (b : BitVec 8)
  /-- `FRCP`, R312. -/
  | frcp (h : Hd) (ft : BitVec 3) (rm : BitVec 3) (d : BitVec 8) (a : BitVec 8)
  /-- `FRSQ`, R312. -/
  | frsq (h : Hd) (ft : BitVec 3) (rm : BitVec 3) (d : BitVec 8) (a : BitVec 8)
  /-- `FSQRT`, R309. -/
  | fsqrt (h : Hd) (ft : BitVec 3) (rm : BitVec 3) (d : BitVec 8) (a : BitVec 8)
  /-- `FDIV`, R309. -/
  | fdiv (h : Hd) (ft : BitVec 3) (rm : BitVec 3) (d : BitVec 8) (a : BitVec 8) (b : BitVec 8)
  /-- `FEXP2`, R312. -/
  | fexp2 (h : Hd) (ft : BitVec 3) (rm : BitVec 3) (d : BitVec 8) (a : BitVec 8)
  /-- `FLOG2`, R312. -/
  | flog2 (h : Hd) (ft : BitVec 3) (rm : BitVec 3) (d : BitVec 8) (a : BitVec 8)
  /-- `FSIN`, R312. -/
  | fsin (h : Hd) (ft : BitVec 3) (rm : BitVec 3) (d : BitVec 8) (a : BitVec 8)
  /-- `FCOS`, R312. -/
  | fcos (h : Hd) (ft : BitVec 3) (rm : BitVec 3) (d : BitVec 8) (a : BitVec 8)
  /-- `FCLASS`, R313. -/
  | fclass (h : Hd) (ft : BitVec 3) (rm : BitVec 3) (d : BitVec 8) (a : BitVec 8)
  /-- `FROUND`, R314. -/
  | fround (h : Hd) (ft : BitVec 3) (rm : BitVec 3) (d : BitVec 8) (a : BitVec 8)
  /-- `FLDEXP`, R315. -/
  | fldexp (h : Hd) (ft : BitVec 3) (rm : BitVec 3) (d : BitVec 8) (a : BitVec 8) (b : BitVec 8)
  /-- `FCVT`, R317. -/
  | fcvt (h : Hd) (d : BitVec 8) (a : BitVec 8) (c : BitVec 8) (dty : BitVec 6) (sty : BitVec 6) (rm : BitVec 3) (sat : Bool)
  /-- `ICVT`, R318. -/
  | icvt (h : Hd) (d : BitVec 8) (a : BitVec 8) (c : BitVec 8) (dty : BitVec 6) (sty : BitVec 6) (rm : BitVec 3) (sat : Bool)
  /-- `I2F`, R318. -/
  | i2f (h : Hd) (d : BitVec 8) (a : BitVec 8) (c : BitVec 8) (dty : BitVec 6) (sty : BitVec 6) (rm : BitVec 3) (sat : Bool)
  /-- `F2I`, R317. -/
  | f2i (h : Hd) (d : BitVec 8) (a : BitVec 8) (c : BitVec 8) (dty : BitVec 6) (sty : BitVec 6) (rm : BitVec 3) (sat : Bool)
  /-- `DOT2`, R322. -/
  | dot2 (h : Hd) (bf : Bool) (ft : BitVec 3) (rm : BitVec 3) (d : BitVec 8) (a : BitVec 8) (b : BitVec 8) (c : BitVec 8)
  /-- `DOT4`, R322. -/
  | dot4 (h : Hd) (ef : Dot4Fmt) (ft : BitVec 3) (rm : BitVec 3) (d : BitVec 8) (a : BitVec 8) (b : BitVec 8) (c : BitVec 8)
  /-- `FMTSET`, R323. -/
  | fmtset (h : Hd) (d : BitVec 3) (a : BitVec 8)
  /-- `FMTSET_IMM`, R323. -/
  | fmtsetImm (h : Hd) (d : BitVec 3) (imm : Word)
  /-- `FMTGET`, R323. -/
  | fmtget (h : Hd) (d : BitVec 8) (a : BitVec 3)
  /-- `TAG`, R324. -/
  | tag (h : Hd) (d : BitVec 8) (a : BitVec 8) (b : BitVec 8)
  /-- `TAG_IMM`, R324. -/
  | tagImm (h : Hd) (d : BitVec 8) (a : BitVec 8) (imm : Word)
  /-- `TAGGET`, R324. -/
  | tagget (h : Hd) (d : BitVec 8) (a : BitVec 8)
  /-- `BSCALE`, R325. -/
  | bscale (h : Hd) (ef : BitVec 5) (ty : BitVec 6) (d : BitVec 8) (a : BitVec 8)
  /-- `PACKN`, R320. -/
  | packn (h : Hd) (d : BitVec 8) (a : BitVec 8) (c : BitVec 8) (dty : BitVec 6) (sty : BitVec 6) (rm : BitVec 3) (sat : Bool)
  /-- `UNPACKN`, R321. -/
  | unpackn (h : Hd) (d : BitVec 8) (a : BitVec 8) (c : BitVec 8) (dty : BitVec 6) (sty : BitVec 6) (rm : BitVec 3) (sat : Bool)
  /-- `LD`, R329. -/
  | ld (h : Hd) (ty : BitVec 6) (d : BitVec 8) (ad : MemAddr) (ord : BitVec 3) (scp : BitVec 3)
  /-- `ST`, R329. -/
  | st (h : Hd) (ty : BitVec 6) (ad : MemAddr) (c : BitVec 8) (ord : BitVec 3) (scp : BitVec 3)
  /-- `ATOM`, R333. -/
  | atom (h : Hd) (op : AtomOp) (ty : BitVec 6) (d : BitVec 8) (ad : MemAddr) (c : BitVec 8) (ord : BitVec 3) (scp : BitVec 3)
  /-- `CAS`, R333. -/
  | cas (h : Hd) (ty : BitVec 6) (d : BitVec 8) (ad : MemAddr) (c : BitVec 8) (ord : BitVec 3) (scp : BitVec 3) (y : BitVec 8)
  /-- `RED`, R333. -/
  | red (h : Hd) (op : AtomOp) (ty : BitVec 6) (ad : MemAddr) (c : BitVec 8) (ord : BitVec 3) (scp : BitVec 3)
  /-- `FENCE`, R334. -/
  | fence (h : Hd) (ord : BitVec 3) (scp : BitVec 3)
  /-- `BRLOAD`, R335. -/
  | brload (h : Hd) (d : BitVec 4) (ad : MemAddr) (ord : BitVec 3) (scp : BitVec 3)
  /-- `BRSET`, R336. -/
  | brset (h : Hd) (d : BitVec 4) (a : BitVec 8)
  /-- `BRSET_TO_REGISTERS`, R336. -/
  | brsetToRegisters (h : Hd) (d : BitVec 8) (a : BitVec 4)
  /-- `PREFETCH`, R338. -/
  | prefetch (h : Hd) (ad : MemAddr) (ord : BitVec 3) (scp : BitVec 3)
  /-- `CCTL`, R339. -/
  | cctl (h : Hd) (ad : MemAddr) (ord : BitVec 3) (scp : BitVec 3)
  /-- `PUBLISH`, R186. -/
  | publish (h : Hd) (ad : MemAddr) (c : BitVec 8) (ord : BitVec 3) (scp : BitVec 3)
  /-- `PUBLISH_M`, R187. -/
  | publishM (h : Hd) (d : BitVec 8) (ad : MemAddr) (c : BitVec 8) (ord : BitVec 3) (scp : BitVec 3)
  /-- `ADOPT`, R188. -/
  | adopt (h : Hd) (ad : MemAddr) (c : BitVec 8) (ord : BitVec 3) (scp : BitVec 3)
  /-- `RETRACT`, R190. -/
  | retract (h : Hd) (ad : MemAddr) (c : BitVec 8) (ord : BitVec 3) (scp : BitVec 3)
  /-- `BARINIT`, R199. -/
  | barinit (h : Hd) (d : BitVec 4) (b : BitVec 8)
  /-- `BARINIT_IMM`, R199. -/
  | barinitImm (h : Hd) (d : BitVec 4) (imm : Word)
  /-- `BARARRIVE`, R198. -/
  | bararrive (h : Hd) (d : BitVec 8) (a : BitVec 4)
  /-- `BARWAIT`, R197. -/
  | barwait (h : Hd) (a : BitVec 4) (b : BitVec 8)
  /-- `BARSYNC`, R197. -/
  | barsync (h : Hd) (a : BitVec 4)
  /-- `BARINVAL`, R199. -/
  | barinval (h : Hd) (a : BitVec 4)
  /-- `BARQUERY`, R197. -/
  | barquery (h : Hd) (d : BitVec 8) (a : BitVec 4)
  /-- `TEAMSYNC`, R197. -/
  | teamsync (h : Hd)
  /-- `COPY`, R204. -/
  | copy (h : Hd) (k : CopyArgs) (bar : CopyBar)
  /-- `COPY2D`, R204. -/
  | copy2d (h : Hd) (k : CopyArgs) (bar : CopyBar)
  /-- `COPYG`, R204. -/
  | copyg (h : Hd) (k : CopyArgs) (bar : CopyBar)
  /-- `COPYREM`, R210. -/
  | copyrem (h : Hd) (k : CopyArgs) (scp : BitVec 3) (cRec : BitVec 4) (cOff : BitVec 6)
  /-- `TLD`, R349. -/
  | tld (h : Hd) (ty : BitVec 6) (d : BitVec 6) (ad : MemAddr) (ord : BitVec 3) (scp : BitVec 3)
  /-- `TST`, R349. -/
  | tst (h : Hd) (ty : BitVec 6) (ad : MemAddr) (c : BitVec 6) (ord : BitVec 3) (scp : BitVec 3)
  /-- `TZERO`, R351. -/
  | tzero (h : Hd) (ty : BitVec 6) (d : BitVec 6)
  /-- `TMOV`, R351. -/
  | tmov (h : Hd) (d : BitVec 6) (a : BitVec 6)
  /-- `TCVT`, R354. -/
  | tcvt (h : Hd) (rm : BitVec 3) (df : BitVec 5) (d : BitVec 6) (a : BitVec 6) (sf : BitVec 5) (seg : BitVec 2) (c : BitVec 8)
  /-- `TTRANS`, R351. -/
  | ttrans (h : Hd) (d : BitVec 6) (a : BitVec 6)
  /-- `TADD`, R352. -/
  | tadd (h : Hd) (ty : BitVec 6) (d : BitVec 6) (a : BitVec 6) (b : BitVec 6)
  /-- `TSCALE`, R351. -/
  | tscale (h : Hd) (d : BitVec 6) (a : BitVec 8)
  /-- `TGETV`, R355. -/
  | tgetv (h : Hd) (ty : BitVec 6) (d : BitVec 8) (a : BitVec 6) (b : BitVec 8)
  /-- `TSETV`, R355. -/
  | tsetv (h : Hd) (ty : BitVec 6) (d : BitVec 6) (a : BitVec 8) (b : BitVec 8)
  /-- `MLOADW`, R220. -/
  | mloadw (h : Hd) (ad : MemAddr) (slot : BitVec 6) (ing : Bool) (wf : BitVec 5)
  /-- `MSWAP`, R222. -/
  | mswap (h : Hd)
  /-- `MMA`, R223. -/
  | mma (h : Hd) (wf : BitVec 5) (d : BitVec 6) (a : BitVec 6) (c : BitVec 6) (af : BitVec 5) (acc : BitVec 2) (p : Bool)
  /-- `MLOCATE`, R230. -/
  | mlocate (h : Hd) (d : BitVec 8)
  /-- `MCORRECT`, R231. -/
  | mcorrect (h : Hd) (d : BitVec 8)
  /-- `MRETRY`, R232. -/
  | mretry (h : Hd) (d : BitVec 8)
  /-- `MDISCARD`, R233. -/
  | mdiscard (h : Hd)
  /-- `MSTAT`, R234. -/
  | mstat (h : Hd) (d : BitVec 8)
  /-- `SPAWN`, R357. -/
  | spawn (h : Hd) (d : BitVec 4) (a : BitVec 8)
  /-- `NOTIFY`, R358. -/
  | notify (h : Hd) (a : BitVec 8) (b : BitVec 8)
  /-- `TRAP`, R362. -/
  | trap (h : Hd) (code : BitVec 16)
  /-- `BRK`, R362. -/
  | brk (h : Hd) (code : BitVec 16)
  /-- `TRAPINFO`, R248. -/
  | trapinfo (h : Hd) (d : BitVec 8) (a : BitVec 8) (b : BitVec 8)
  /-- `TRAPINFO_IMM`, R248. -/
  | trapinfoImm (h : Hd) (d : BitVec 8) (a : BitVec 8) (imm : Word)
  /-- `TRAPCLR`, R250. -/
  | trapclr (h : Hd) (a : BitVec 8)
  /-- `TRAPRET_RESUME`, R251. -/
  | trapretResume (h : Hd)
  /-- `TRAPRET_KILL`, R253. -/
  | trapretKill (h : Hd)
  /-- `TRAPRET_KILLSIG`, R253. -/
  | trapretKillsig (h : Hd)
  /-- `SREAD`, R360. -/
  | sread (h : Hd) (d : BitVec 8) (num : BitVec 8)
  /-- `SWRITE`, R360. -/
  | swrite (h : Hd) (num : BitVec 8) (b : BitVec 8)
  /-- `CLOCK`, R361. -/
  | clock (h : Hd) (d : BitVec 8)
  /-- `SLEEP`, R361. -/
  | sleep (h : Hd) (b : BitVec 8)
  /-- `SLEEP_IMM`, R361. -/
  | sleepImm (h : Hd) (imm : Word)
  /-- `CLOCK_THROTTLE_STEP`, R7. -/
  | clockThrottleStep (up : Bool)
  /-- `FABID_WRITE`, R17. -/
  | fabidWrite (w : World) (v : Dword)
  /-- `PWRCAP_WRITE`, R16. -/
  | pwrcapWrite (w : World) (v : Dword)
  /-- `PORTCTL_WRITE`, R18. -/
  | portctlWrite (w : World) (v : Dword)
  /-- `RETRAIN`, R20. -/
  | retrain (w : World)
  /-- `DRAINDL_WRITE`, R98. -/
  | draindlWrite (w : World) (v : Dword)
  /-- `ASYTOL_WRITE`, R226. -/
  | asytolWrite (w : World) (col : Bool) (v : Dword)
  /-- `ASYINJ_WRITE`, R237. -/
  | asyinjWrite (w : World) (n : Nat) (v : Dword)
  /-- `FLTCFG_WRITE`, R254. -/
  | fltcfgWrite (w : World) (v : Dword)
  /-- `REGISTER_WRITE`, R16. -/
  | registerWrite (w : World) (off : Nat) (v : Dword)
  /-- `FLIT_RECEIVE`, R20. -/
  | flitReceive (f : Flit) (errs : List (Nat × Byte))
  /-- `REPLAY_REQUEST`, R20. -/
  | replayRequest (seq : BitVec 12)
  /-- `RETRAIN_COMPLETE`, R20. -/
  | retrainComplete (lanes : BitVec 4)
  /-- `ETHERNET_PACKET_RECEIVE`, R23. -/
  | ethernetPacketReceive (m : FabMsg) (cz : Bool)
  /-- `FLUSH_MARKER_RECEIVE`, R26. -/
  | flushMarkerReceive (epoch : Nat) (path : Nat) (used : Nat)
  /-- `EPOCH_ACK_RECEIVE`, R26. -/
  | epochAckReceive (epoch : Nat)
  /-- `FABRIC_REQUEST`, R33. -/
  | fabricRequest (m : FabMsg)
  /-- `HOST_LINK_READ`, R34. -/
  | hostLinkRead (addr : HostAddr) (len : Nat)
  /-- `HOST_LINK_WRITE`, R29. -/
  | hostLinkWrite (addr : Nat) (data : List Byte) (ide : Bool)
  /-- `HOME_SLICE_WRITE`, R45. -/
  | homeSliceWrite (ln : Nat) (res : FabricRes)
  /-- `ASSIGN`, R35. -/
  | assign (w : World)
  /-- `HOST_MEASUREMENT_EXTEND`, R46. -/
  | hostMeasurementExtend (digest : List Byte)
  /-- `NEGOTIATE_ALGORITHMS`, R48. -/
  | negotiateAlgorithms (offered : Bool)
  /-- `GET_MEASUREMENTS`, R48. -/
  | getMeasurements (index : Nat)
  /-- `FINISH`, R48. -/
  | finish (ok : Bool)
  /-- `INGOT_INSTALL`, R51. -/
  | ingotInstall (req : List Byte)
  /-- `INGOT_SEAL`, R52. -/
  | ingotSeal (req : List Byte)
  /-- `INGOT_RELEASE`, R53. -/
  | ingotRelease (req : List Byte)
  /-- `QUEUE_KEY`, R72. -/
  | queueKey (req : List Byte)
  /-- `POD_PREEMPT`, R112. -/
  | podPreempt (req : List Byte)
  /-- `POD_COMMAND_RECEIVE`, R112. -/
  | podCommandReceive (deadline : Nat) (space : Nat) (keep : List (Nat × Nat))
  /-- `POD_REPORT`, R112. -/
  | podReport (dev : Nat) (ok : Bool)
  /-- `PREPARE`, R56. -/
  | prepare (peer : List (List Byte))
  /-- `COMMIT`, R57. -/
  | commit (ok : Bool)
  /-- `ABORTED`, R57. -/
  | aborted (ok : Bool)
  /-- `DESTINATION_REBOOT_DETECTED`, R57. -/
  | destinationRebootDetected (bootId : List Byte)
  /-- `RESTORE_CHUNK`, R55. -/
  | restoreChunk (chunk : Option (List Byte))
  /-- `NOTIFY_RECORD`, R62. -/
  | notifyRecord (off : Nat) (data : List Byte)
  /-- `BIN_TEAM_LAUNCH`, R88. -/
  | binTeamLaunch (stage : Nat)
  /-- `BIN_AGE_EXPIRY`, R88. -/
  | binAgeExpiry (stage : Nat)
  /-- `PAGE_REQUEST_REPLY`, R158. -/
  | pageRequestReply (ok : Bool)
  /-- `MEMORY_REPLY`, R124. -/
  | memoryReply (lanes : Word) (hit : Bool) (res : FabricRes)
  /-- `COPY_TRANSFER`, R206. -/
  | copyTransfer (n : Nat) (res : FabricRes)
  /-- `MLOADW_FILL`, R220. -/
  | mloadwFill (res : FabricRes)
  /-- `SQUAD_STOPPED`, R243. -/
  | squadStopped (sq : Nat)
  /-- `SLEEP_EXPIRE`, R361. -/
  | sleepExpire (tid : Nat)
  /-- `SPAWN_SLOT_RESERVE`, R357. -/
  | spawnSlotReserve (tid : Nat)
  /-- `PORT_TRAINING_COMPLETE`, R18. -/
  | portTrainingComplete (lanes : BitVec 4)
  /-- `TDISP_INTERFACE_LOCK`, R28. -/
  | tdispInterfaceLock (w : World)
  /-- `VENDOR_DEFINED_REQUEST`, R49. -/
  | vendorDefinedRequest (req : List Byte)
  /-- `PREPARE_SEND`, R57. -/
  | prepareSend (peer : List (List Byte)) (bootId : List Byte)
  /-- `UNASSIGNED_OPCODE`, R264. -/
  | unassignedOpcode (k : DecodeTrap)
  /-- `COLD_RESET`, R13. -/
  | coldReset
  /-- `WARM_RESET`, R13. -/
  | warmReset
  /-- `FUNCTION_LEVEL_RESET`, R13. -/
  | functionLevelReset
  /-- `POWER_LOSS`, R12. -/
  | powerLoss
  /-- `THERMAL_TRIP`, R9. -/
  | thermalTrip
  /-- `CORE_FENCE`, R6. -/
  | coreFence
  /-- `D3HOT_ENTRY`, R11. -/
  | d3hotEntry
  /-- `D0_RETURN`, R11. -/
  | d0Return
  /-- `D3COLD_ENTRY`, R11. -/
  | d3coldEntry
  /-- `REPLAY_REQUEST_REPEAT`, R20. -/
  | replayRequestRepeat
  /-- `ACK_TIMEOUT_RESEND`, R20. -/
  | ackTimeoutResend
  /-- `RETRAIN_AFTER_REPLAYS`, R20. -/
  | retrainAfterReplays
  /-- `RETRAIN_DEADLINE`, R20. -/
  | retrainDeadline
  /-- `FENCE_COMPLETE`, R25. -/
  | fenceComplete
  /-- `CONNECTION_TIMEOUT`, R27. -/
  | connectionTimeout
  /-- `HBM_UNCORRECTABLE_ERROR`, R44. -/
  | hbmUncorrectableError
  /-- `LINK_REKEY`, R39. -/
  | linkRekey
  /-- `ASSIGN_COMPLETE`, R35. -/
  | assignComplete
  /-- `WORLD_CREATE`, R36. -/
  | worldCreate
  /-- `WORLD_DESTROY`, R36. -/
  | worldDestroy
  /-- `PORT_WORLD_RETURN`, R36. -/
  | portWorldReturn
  /-- `GET_VERSION`, R48. -/
  | getVersion
  /-- `GET_CAPABILITIES`, R48. -/
  | getCapabilities
  /-- `GET_DIGESTS`, R48. -/
  | getDigests
  /-- `GET_CERTIFICATE`, R48. -/
  | getCertificate
  /-- `CHALLENGE`, R48. -/
  | challenge
  /-- `KEY_EXCHANGE`, R48. -/
  | keyExchange
  /-- `KEY_UPDATE`, R48. -/
  | keyUpdate
  /-- `HEARTBEAT`, R48. -/
  | heartbeat
  /-- `END_SESSION`, R48. -/
  | endSession
  /-- `POD_RESPONSE_DEADLINE`, R112. -/
  | podResponseDeadline
  /-- `QUEUE_CREATE`, R59. -/
  | queueCreate
  /-- `QUEUE_DESTROY`, R64. -/
  | queueDestroy
  /-- `QUEUE_DESTROY_COMPLETE`, R64. -/
  | queueDestroyComplete
  /-- `QUEUE_RESTART`, R64. -/
  | queueRestart
  /-- `STATUS_RECORD_WRITE`, R63. -/
  | statusRecordWrite
  /-- `QUEUE_MAP`, R65. -/
  | queueMap
  /-- `PACKET_ACCEPT`, R73. -/
  | packetAccept
  /-- `NOP_PACKET`, R70. -/
  | nopPacket
  /-- `LAUNCH`, R77. -/
  | launch
  /-- `WAIT`, R70. -/
  | wait
  /-- `WAIT_EVALUATE`, R71. -/
  | waitEvaluate
  /-- `SIGNAL`, R70. -/
  | signal
  /-- `LAUNCH_COMPLETE`, R70. -/
  | launchComplete
  /-- `PLACEMENT_PASS`, R84. -/
  | placementPass
  /-- `BLOCKED_ITEM_TIMEOUT`, R85. -/
  | blockedItemTimeout
  /-- `STAGE_ROOM_CLAIM`, R91. -/
  | stageRoomClaim
  /-- `TEAM_RETIRE`, R92. -/
  | teamRetire
  /-- `CONVOY_FORMATION`, R94. -/
  | convoyFormation
  /-- `FETCH_BLOCK`, R117. -/
  | fetchBlock
  /-- `CTX_PREEMPT`, R101. -/
  | ctxPreempt
  /-- `CTX_FREEZE_NOW`, R102. -/
  | ctxFreezeNow
  /-- `CTX_RESUME`, R110. -/
  | ctxResume
  /-- `CTX_DISCARD_IMAGE`, R111. -/
  | ctxDiscardImage
  /-- `DRAIN_DEADLINE`, R101. -/
  | drainDeadline
  /-- `TEAM_CAPTURE`, R102. -/
  | teamCapture
  /-- `IMAGE_CHUNK_WRITE`, R107. -/
  | imageChunkWrite
  /-- `AUTO_RESUME`, R111. -/
  | autoResume
  /-- `CONTEXT_RESET`, R114. -/
  | contextReset
  /-- `PT_SET_ROOT`, R157. -/
  | ptSetRoot
  /-- `PT_INVALIDATE_ASID`, R157. -/
  | ptInvalidateAsid
  /-- `PT_INVALIDATE_RANGE`, R157. -/
  | ptInvalidateRange
  /-- `PT_INVALIDATE_COMPLETE`, R157. -/
  | ptInvalidateComplete
  /-- `COPY_COMPLETE`, R209. -/
  | copyComplete
  /-- `MMA_START`, R224. -/
  | mmaStart
  /-- `MMA_DRAIN`, R225. -/
  | mmaDrain
  /-- `MSWAP_EXECUTE`, R222. -/
  | mswapExecute
  /-- `HANDLER_ENTRY`, R246. -/
  | handlerEntry
  /-- `DBG_ATTACH`, R259. -/
  | dbgAttach
  /-- `DBG_DETACH`, R259. -/
  | dbgDetach
  /-- `DBG_STOP`, R259. -/
  | dbgStop
  /-- `DBG_RESUME`, R259. -/
  | dbgResume
  /-- `DBG_STEP`, R259. -/
  | dbgStep
  /-- `DBG_READ`, R259. -/
  | dbgRead
  /-- `DBG_WRITE`, R258. -/
  | dbgWrite
  /-- `DBG_WATCH`, R259. -/
  | dbgWatch
  /-- `DBG_HALT_REQUEST`, R259. -/
  | dbgHaltRequest
  /-- `DBG_STOP_MASK`, R259. -/
  | dbgStopMask
  /-- `LONG_LATENCY_RESULT`, R124. -/
  | longLatencyResult
  deriving DecidableEq, Repr

/-- The common part of an Ixrix form; none for a device event. -/
def Instr.hd : Instr → Option Hd
  | .nop h => some h
  | .nop96 h => some h
  | .nop128 h => some h
  | .nopOneParcel h => some h
  | .bra h _ => some h
  | .brx h _ => some h
  | .call h _ _ => some h
  | .callx h _ _ => some h
  | .ret h _ => some h
  | .exit h => some h
  | .yield h => some h
  | .iadd h _ _ _ _ _ => some h
  | .iaddImm h _ _ _ _ _ => some h
  | .isub h _ _ _ _ _ => some h
  | .isubImm h _ _ _ _ _ => some h
  | .imul h _ _ _ _ => some h
  | .imulImm h _ _ _ _ => some h
  | .imulh h _ _ _ _ => some h
  | .imulhImm h _ _ _ _ => some h
  | .imad h _ _ _ _ _ => some h
  | .imadImm h _ _ _ _ _ => some h
  | .imin h _ _ _ _ => some h
  | .iminImm h _ _ _ _ => some h
  | .imax h _ _ _ _ => some h
  | .imaxImm h _ _ _ _ => some h
  | .iabs h _ _ _ => some h
  | .ineg h _ _ _ => some h
  | .idiv h _ _ _ _ => some h
  | .idivImm h _ _ _ _ => some h
  | .imod h _ _ _ _ => some h
  | .imodImm h _ _ _ _ => some h
  | .icmp h _ _ _ _ _ => some h
  | .icmpImm h _ _ _ _ _ => some h
  | .and h _ _ _ _ => some h
  | .andImm h _ _ _ _ => some h
  | .or h _ _ _ _ => some h
  | .orImm h _ _ _ _ => some h
  | .xor h _ _ _ _ => some h
  | .xorImm h _ _ _ _ => some h
  | .not h _ _ _ => some h
  | .andn h _ _ _ _ => some h
  | .andnImm h _ _ _ _ => some h
  | .shl h _ _ _ _ => some h
  | .shlImm h _ _ _ _ => some h
  | .shr h _ _ _ _ => some h
  | .shrImm h _ _ _ _ => some h
  | .sar h _ _ _ _ => some h
  | .sarImm h _ _ _ _ => some h
  | .rot h _ _ _ _ => some h
  | .rotImm h _ _ _ _ => some h
  | .popc h _ _ _ => some h
  | .clz h _ _ _ => some h
  | .ctz h _ _ _ => some h
  | .brev h _ _ _ => some h
  | .bfx h _ _ _ _ => some h
  | .bfxImm h _ _ _ _ => some h
  | .bfi h _ _ _ _ _ => some h
  | .bfiImm h _ _ _ _ _ => some h
  | .bperm h _ _ _ _ _ => some h
  | .bpermImm h _ _ _ _ _ => some h
  | .mov h _ _ _ => some h
  | .movi h _ _ _ => some h
  | .sel h _ _ _ _ _ => some h
  | .selImm h _ _ _ _ _ => some h
  | .lea h _ _ _ _ _ => some h
  | .leaImm h _ _ _ _ _ => some h
  | .plop h _ _ _ _ _ _ => some h
  | .pmovToRegister h _ => some h
  | .pmovToPredicates h _ => some h
  | .sqsync h _ => some h
  | .sqsyncImm h _ => some h
  | .vote h _ _ _ _ _ => some h
  | .voteImm h _ _ _ _ _ => some h
  | .shfl h _ _ _ _ _ _ => some h
  | .shflImm h _ _ _ _ _ _ => some h
  | .sqMatch h _ _ _ _ _ => some h
  | .sqMatchImm h _ _ _ _ _ => some h
  | .redux h _ _ _ _ _ _ => some h
  | .reduxImm h _ _ _ _ _ _ => some h
  | .convoy h _ _ => some h
  | .convoyImm h _ _ => some h
  | .fadd h _ _ _ _ _ => some h
  | .fsub h _ _ _ _ _ => some h
  | .fmul h _ _ _ _ _ => some h
  | .ffma h _ _ _ _ _ _ => some h
  | .fmin h _ _ _ _ _ => some h
  | .fmax h _ _ _ _ _ => some h
  | .fcmp h _ _ _ _ _ _ => some h
  | .frcp h _ _ _ _ => some h
  | .frsq h _ _ _ _ => some h
  | .fsqrt h _ _ _ _ => some h
  | .fdiv h _ _ _ _ _ => some h
  | .fexp2 h _ _ _ _ => some h
  | .flog2 h _ _ _ _ => some h
  | .fsin h _ _ _ _ => some h
  | .fcos h _ _ _ _ => some h
  | .fclass h _ _ _ _ => some h
  | .fround h _ _ _ _ => some h
  | .fldexp h _ _ _ _ _ => some h
  | .fcvt h _ _ _ _ _ _ _ => some h
  | .icvt h _ _ _ _ _ _ _ => some h
  | .i2f h _ _ _ _ _ _ _ => some h
  | .f2i h _ _ _ _ _ _ _ => some h
  | .dot2 h _ _ _ _ _ _ _ => some h
  | .dot4 h _ _ _ _ _ _ _ => some h
  | .fmtset h _ _ => some h
  | .fmtsetImm h _ _ => some h
  | .fmtget h _ _ => some h
  | .tag h _ _ _ => some h
  | .tagImm h _ _ _ => some h
  | .tagget h _ _ => some h
  | .bscale h _ _ _ _ => some h
  | .packn h _ _ _ _ _ _ _ => some h
  | .unpackn h _ _ _ _ _ _ _ => some h
  | .ld h _ _ _ _ _ => some h
  | .st h _ _ _ _ _ => some h
  | .atom h _ _ _ _ _ _ _ => some h
  | .cas h _ _ _ _ _ _ _ => some h
  | .red h _ _ _ _ _ _ => some h
  | .fence h _ _ => some h
  | .brload h _ _ _ _ => some h
  | .brset h _ _ => some h
  | .brsetToRegisters h _ _ => some h
  | .prefetch h _ _ _ => some h
  | .cctl h _ _ _ => some h
  | .publish h _ _ _ _ => some h
  | .publishM h _ _ _ _ _ => some h
  | .adopt h _ _ _ _ => some h
  | .retract h _ _ _ _ => some h
  | .barinit h _ _ => some h
  | .barinitImm h _ _ => some h
  | .bararrive h _ _ => some h
  | .barwait h _ _ => some h
  | .barsync h _ => some h
  | .barinval h _ => some h
  | .barquery h _ _ => some h
  | .teamsync h => some h
  | .copy h _ _ => some h
  | .copy2d h _ _ => some h
  | .copyg h _ _ => some h
  | .copyrem h _ _ _ _ => some h
  | .tld h _ _ _ _ _ => some h
  | .tst h _ _ _ _ _ => some h
  | .tzero h _ _ => some h
  | .tmov h _ _ => some h
  | .tcvt h _ _ _ _ _ _ _ => some h
  | .ttrans h _ _ => some h
  | .tadd h _ _ _ _ => some h
  | .tscale h _ _ => some h
  | .tgetv h _ _ _ _ => some h
  | .tsetv h _ _ _ _ => some h
  | .mloadw h _ _ _ _ => some h
  | .mswap h => some h
  | .mma h _ _ _ _ _ _ _ => some h
  | .mlocate h _ => some h
  | .mcorrect h _ => some h
  | .mretry h _ => some h
  | .mdiscard h => some h
  | .mstat h _ => some h
  | .spawn h _ _ => some h
  | .notify h _ _ => some h
  | .trap h _ => some h
  | .brk h _ => some h
  | .trapinfo h _ _ _ => some h
  | .trapinfoImm h _ _ _ => some h
  | .trapclr h _ => some h
  | .trapretResume h => some h
  | .trapretKill h => some h
  | .trapretKillsig h => some h
  | .sread h _ _ => some h
  | .swrite h _ _ => some h
  | .clock h _ => some h
  | .sleep h _ => some h
  | .sleepImm h _ => some h
  | .clockThrottleStep _ => none
  | .fabidWrite _ _ => none
  | .pwrcapWrite _ _ => none
  | .portctlWrite _ _ => none
  | .retrain _ => none
  | .draindlWrite _ _ => none
  | .asytolWrite _ _ _ => none
  | .asyinjWrite _ _ _ => none
  | .fltcfgWrite _ _ => none
  | .registerWrite _ _ _ => none
  | .flitReceive _ _ => none
  | .replayRequest _ => none
  | .retrainComplete _ => none
  | .ethernetPacketReceive _ _ => none
  | .flushMarkerReceive _ _ _ => none
  | .epochAckReceive _ => none
  | .fabricRequest _ => none
  | .hostLinkRead _ _ => none
  | .hostLinkWrite _ _ _ => none
  | .homeSliceWrite _ _ => none
  | .assign _ => none
  | .hostMeasurementExtend _ => none
  | .negotiateAlgorithms _ => none
  | .getMeasurements _ => none
  | .finish _ => none
  | .ingotInstall _ => none
  | .ingotSeal _ => none
  | .ingotRelease _ => none
  | .queueKey _ => none
  | .podPreempt _ => none
  | .podCommandReceive _ _ _ => none
  | .podReport _ _ => none
  | .prepare _ => none
  | .commit _ => none
  | .aborted _ => none
  | .destinationRebootDetected _ => none
  | .restoreChunk _ => none
  | .notifyRecord _ _ => none
  | .binTeamLaunch _ => none
  | .binAgeExpiry _ => none
  | .pageRequestReply _ => none
  | .memoryReply _ _ _ => none
  | .copyTransfer _ _ => none
  | .mloadwFill _ => none
  | .squadStopped _ => none
  | .sleepExpire _ => none
  | .spawnSlotReserve _ => none
  | .portTrainingComplete _ => none
  | .tdispInterfaceLock _ => none
  | .vendorDefinedRequest _ => none
  | .prepareSend _ _ => none
  | .unassignedOpcode _ => none
  | .coldReset => none
  | .warmReset => none
  | .functionLevelReset => none
  | .powerLoss => none
  | .thermalTrip => none
  | .coreFence => none
  | .d3hotEntry => none
  | .d0Return => none
  | .d3coldEntry => none
  | .replayRequestRepeat => none
  | .ackTimeoutResend => none
  | .retrainAfterReplays => none
  | .retrainDeadline => none
  | .fenceComplete => none
  | .connectionTimeout => none
  | .hbmUncorrectableError => none
  | .linkRekey => none
  | .assignComplete => none
  | .worldCreate => none
  | .worldDestroy => none
  | .portWorldReturn => none
  | .getVersion => none
  | .getCapabilities => none
  | .getDigests => none
  | .getCertificate => none
  | .challenge => none
  | .keyExchange => none
  | .keyUpdate => none
  | .heartbeat => none
  | .endSession => none
  | .podResponseDeadline => none
  | .queueCreate => none
  | .queueDestroy => none
  | .queueDestroyComplete => none
  | .queueRestart => none
  | .statusRecordWrite => none
  | .queueMap => none
  | .packetAccept => none
  | .nopPacket => none
  | .launch => none
  | .wait => none
  | .waitEvaluate => none
  | .signal => none
  | .launchComplete => none
  | .placementPass => none
  | .blockedItemTimeout => none
  | .stageRoomClaim => none
  | .teamRetire => none
  | .convoyFormation => none
  | .fetchBlock => none
  | .ctxPreempt => none
  | .ctxFreezeNow => none
  | .ctxResume => none
  | .ctxDiscardImage => none
  | .drainDeadline => none
  | .teamCapture => none
  | .imageChunkWrite => none
  | .autoResume => none
  | .contextReset => none
  | .ptSetRoot => none
  | .ptInvalidateAsid => none
  | .ptInvalidateRange => none
  | .ptInvalidateComplete => none
  | .copyComplete => none
  | .mmaStart => none
  | .mmaDrain => none
  | .mswapExecute => none
  | .handlerEntry => none
  | .dbgAttach => none
  | .dbgDetach => none
  | .dbgStop => none
  | .dbgResume => none
  | .dbgStep => none
  | .dbgRead => none
  | .dbgWrite => none
  | .dbgWatch => none
  | .dbgHaltRequest => none
  | .dbgStopMask => none
  | .longLatencyResult => none

/-- The length of an Ixrix form in parcels (R262, R263); 0 for a device event. -/
def Instr.parcels : Instr → Nat
  | .nop _ => 2
  | .nop96 _ => 3
  | .nop128 _ => 4
  | .nopOneParcel _ => 1
  | .bra _ _ => 3
  | .brx _ _ => 2
  | .call _ _ _ => 3
  | .callx _ _ _ => 2
  | .ret _ _ => 2
  | .exit _ => 2
  | .yield _ => 2
  | .iadd _ _ _ _ _ _ => 2
  | .iaddImm _ _ _ _ _ _ => 3
  | .isub _ _ _ _ _ _ => 2
  | .isubImm _ _ _ _ _ _ => 3
  | .imul _ _ _ _ _ => 2
  | .imulImm _ _ _ _ _ => 3
  | .imulh _ _ _ _ _ => 2
  | .imulhImm _ _ _ _ _ => 3
  | .imad _ _ _ _ _ _ => 2
  | .imadImm _ _ _ _ _ _ => 3
  | .imin _ _ _ _ _ => 2
  | .iminImm _ _ _ _ _ => 3
  | .imax _ _ _ _ _ => 2
  | .imaxImm _ _ _ _ _ => 3
  | .iabs _ _ _ _ => 2
  | .ineg _ _ _ _ => 2
  | .idiv _ _ _ _ _ => 2
  | .idivImm _ _ _ _ _ => 3
  | .imod _ _ _ _ _ => 2
  | .imodImm _ _ _ _ _ => 3
  | .icmp _ _ _ _ _ _ => 2
  | .icmpImm _ _ _ _ _ _ => 3
  | .and _ _ _ _ _ => 2
  | .andImm _ _ _ _ _ => 3
  | .or _ _ _ _ _ => 2
  | .orImm _ _ _ _ _ => 3
  | .xor _ _ _ _ _ => 2
  | .xorImm _ _ _ _ _ => 3
  | .not _ _ _ _ => 2
  | .andn _ _ _ _ _ => 2
  | .andnImm _ _ _ _ _ => 3
  | .shl _ _ _ _ _ => 2
  | .shlImm _ _ _ _ _ => 3
  | .shr _ _ _ _ _ => 2
  | .shrImm _ _ _ _ _ => 3
  | .sar _ _ _ _ _ => 2
  | .sarImm _ _ _ _ _ => 3
  | .rot _ _ _ _ _ => 2
  | .rotImm _ _ _ _ _ => 3
  | .popc _ _ _ _ => 2
  | .clz _ _ _ _ => 2
  | .ctz _ _ _ _ => 2
  | .brev _ _ _ _ => 2
  | .bfx _ _ _ _ _ => 2
  | .bfxImm _ _ _ _ _ => 3
  | .bfi _ _ _ _ _ _ => 2
  | .bfiImm _ _ _ _ _ _ => 3
  | .bperm _ _ _ _ _ _ => 2
  | .bpermImm _ _ _ _ _ _ => 3
  | .mov _ _ _ _ => 2
  | .movi _ _ _ _ => 3
  | .sel _ _ _ _ _ _ => 2
  | .selImm _ _ _ _ _ _ => 3
  | .lea _ _ _ _ _ _ => 2
  | .leaImm _ _ _ _ _ _ => 3
  | .plop _ _ _ _ _ _ _ => 2
  | .pmovToRegister _ _ => 2
  | .pmovToPredicates _ _ => 2
  | .sqsync _ _ => 2
  | .sqsyncImm _ _ => 3
  | .vote _ _ _ _ _ _ => 2
  | .voteImm _ _ _ _ _ _ => 3
  | .shfl _ _ _ _ _ _ _ => 2
  | .shflImm _ _ _ _ _ _ _ => 3
  | .sqMatch _ _ _ _ _ _ => 2
  | .sqMatchImm _ _ _ _ _ _ => 3
  | .redux _ _ _ _ _ _ _ => 2
  | .reduxImm _ _ _ _ _ _ _ => 3
  | .convoy _ _ _ => 2
  | .convoyImm _ _ _ => 3
  | .fadd _ _ _ _ _ _ => 2
  | .fsub _ _ _ _ _ _ => 2
  | .fmul _ _ _ _ _ _ => 2
  | .ffma _ _ _ _ _ _ _ => 2
  | .fmin _ _ _ _ _ _ => 2
  | .fmax _ _ _ _ _ _ => 2
  | .fcmp _ _ _ _ _ _ _ => 2
  | .frcp _ _ _ _ _ => 2
  | .frsq _ _ _ _ _ => 2
  | .fsqrt _ _ _ _ _ => 2
  | .fdiv _ _ _ _ _ _ => 2
  | .fexp2 _ _ _ _ _ => 2
  | .flog2 _ _ _ _ _ => 2
  | .fsin _ _ _ _ _ => 2
  | .fcos _ _ _ _ _ => 2
  | .fclass _ _ _ _ _ => 2
  | .fround _ _ _ _ _ => 2
  | .fldexp _ _ _ _ _ _ => 2
  | .fcvt _ _ _ _ _ _ _ _ => 3
  | .icvt _ _ _ _ _ _ _ _ => 3
  | .i2f _ _ _ _ _ _ _ _ => 3
  | .f2i _ _ _ _ _ _ _ _ => 3
  | .dot2 _ _ _ _ _ _ _ _ => 2
  | .dot4 _ _ _ _ _ _ _ _ => 2
  | .fmtset _ _ _ => 2
  | .fmtsetImm _ _ _ => 3
  | .fmtget _ _ _ => 2
  | .tag _ _ _ _ => 2
  | .tagImm _ _ _ _ => 3
  | .tagget _ _ _ => 2
  | .bscale _ _ _ _ _ => 2
  | .packn _ _ _ _ _ _ _ _ => 3
  | .unpackn _ _ _ _ _ _ _ _ => 3
  | .ld _ _ _ _ _ _ => 3
  | .st _ _ _ _ _ _ => 3
  | .atom _ _ _ _ _ _ _ _ => 3
  | .cas _ _ _ _ _ _ _ _ => 4
  | .red _ _ _ _ _ _ _ => 3
  | .fence _ _ _ => 3
  | .brload _ _ _ _ _ => 3
  | .brset _ _ _ => 2
  | .brsetToRegisters _ _ _ => 2
  | .prefetch _ _ _ _ => 3
  | .cctl _ _ _ _ => 3
  | .publish _ _ _ _ _ => 3
  | .publishM _ _ _ _ _ _ => 3
  | .adopt _ _ _ _ _ => 3
  | .retract _ _ _ _ _ => 3
  | .barinit _ _ _ => 2
  | .barinitImm _ _ _ => 3
  | .bararrive _ _ _ => 2
  | .barwait _ _ _ => 2
  | .barsync _ _ => 2
  | .barinval _ _ => 2
  | .barquery _ _ _ => 2
  | .teamsync _ => 2
  | .copy _ _ _ => 4
  | .copy2d _ _ _ => 4
  | .copyg _ _ _ => 4
  | .copyrem _ _ _ _ _ => 4
  | .tld _ _ _ _ _ _ => 3
  | .tst _ _ _ _ _ _ => 3
  | .tzero _ _ _ => 2
  | .tmov _ _ _ => 2
  | .tcvt _ _ _ _ _ _ _ _ => 2
  | .ttrans _ _ _ => 2
  | .tadd _ _ _ _ _ => 2
  | .tscale _ _ _ => 2
  | .tgetv _ _ _ _ _ => 2
  | .tsetv _ _ _ _ _ => 2
  | .mloadw _ _ _ _ _ => 3
  | .mswap _ => 2
  | .mma _ _ _ _ _ _ _ _ => 2
  | .mlocate _ _ => 2
  | .mcorrect _ _ => 2
  | .mretry _ _ => 2
  | .mdiscard _ => 2
  | .mstat _ _ => 2
  | .spawn _ _ _ => 2
  | .notify _ _ _ => 2
  | .trap _ _ => 2
  | .brk _ _ => 2
  | .trapinfo _ _ _ _ => 2
  | .trapinfoImm _ _ _ _ => 3
  | .trapclr _ _ => 2
  | .trapretResume _ => 2
  | .trapretKill _ => 2
  | .trapretKillsig _ => 2
  | .sread _ _ _ => 2
  | .swrite _ _ _ => 2
  | .clock _ _ => 2
  | .sleep _ _ => 2
  | .sleepImm _ _ => 3
  | .clockThrottleStep _ => 0
  | .fabidWrite _ _ => 0
  | .pwrcapWrite _ _ => 0
  | .portctlWrite _ _ => 0
  | .retrain _ => 0
  | .draindlWrite _ _ => 0
  | .asytolWrite _ _ _ => 0
  | .asyinjWrite _ _ _ => 0
  | .fltcfgWrite _ _ => 0
  | .registerWrite _ _ _ => 0
  | .flitReceive _ _ => 0
  | .replayRequest _ => 0
  | .retrainComplete _ => 0
  | .ethernetPacketReceive _ _ => 0
  | .flushMarkerReceive _ _ _ => 0
  | .epochAckReceive _ => 0
  | .fabricRequest _ => 0
  | .hostLinkRead _ _ => 0
  | .hostLinkWrite _ _ _ => 0
  | .homeSliceWrite _ _ => 0
  | .assign _ => 0
  | .hostMeasurementExtend _ => 0
  | .negotiateAlgorithms _ => 0
  | .getMeasurements _ => 0
  | .finish _ => 0
  | .ingotInstall _ => 0
  | .ingotSeal _ => 0
  | .ingotRelease _ => 0
  | .queueKey _ => 0
  | .podPreempt _ => 0
  | .podCommandReceive _ _ _ => 0
  | .podReport _ _ => 0
  | .prepare _ => 0
  | .commit _ => 0
  | .aborted _ => 0
  | .destinationRebootDetected _ => 0
  | .restoreChunk _ => 0
  | .notifyRecord _ _ => 0
  | .binTeamLaunch _ => 0
  | .binAgeExpiry _ => 0
  | .pageRequestReply _ => 0
  | .memoryReply _ _ _ => 0
  | .copyTransfer _ _ => 0
  | .mloadwFill _ => 0
  | .squadStopped _ => 0
  | .sleepExpire _ => 0
  | .spawnSlotReserve _ => 0
  | .portTrainingComplete _ => 0
  | .tdispInterfaceLock _ => 0
  | .vendorDefinedRequest _ => 0
  | .prepareSend _ _ => 0
  | .unassignedOpcode _ => 0
  | .coldReset => 0
  | .warmReset => 0
  | .functionLevelReset => 0
  | .powerLoss => 0
  | .thermalTrip => 0
  | .coreFence => 0
  | .d3hotEntry => 0
  | .d0Return => 0
  | .d3coldEntry => 0
  | .replayRequestRepeat => 0
  | .ackTimeoutResend => 0
  | .retrainAfterReplays => 0
  | .retrainDeadline => 0
  | .fenceComplete => 0
  | .connectionTimeout => 0
  | .hbmUncorrectableError => 0
  | .linkRekey => 0
  | .assignComplete => 0
  | .worldCreate => 0
  | .worldDestroy => 0
  | .portWorldReturn => 0
  | .getVersion => 0
  | .getCapabilities => 0
  | .getDigests => 0
  | .getCertificate => 0
  | .challenge => 0
  | .keyExchange => 0
  | .keyUpdate => 0
  | .heartbeat => 0
  | .endSession => 0
  | .podResponseDeadline => 0
  | .queueCreate => 0
  | .queueDestroy => 0
  | .queueDestroyComplete => 0
  | .queueRestart => 0
  | .statusRecordWrite => 0
  | .queueMap => 0
  | .packetAccept => 0
  | .nopPacket => 0
  | .launch => 0
  | .wait => 0
  | .waitEvaluate => 0
  | .signal => 0
  | .launchComplete => 0
  | .placementPass => 0
  | .blockedItemTimeout => 0
  | .stageRoomClaim => 0
  | .teamRetire => 0
  | .convoyFormation => 0
  | .fetchBlock => 0
  | .ctxPreempt => 0
  | .ctxFreezeNow => 0
  | .ctxResume => 0
  | .ctxDiscardImage => 0
  | .drainDeadline => 0
  | .teamCapture => 0
  | .imageChunkWrite => 0
  | .autoResume => 0
  | .contextReset => 0
  | .ptSetRoot => 0
  | .ptInvalidateAsid => 0
  | .ptInvalidateRange => 0
  | .ptInvalidateComplete => 0
  | .copyComplete => 0
  | .mmaStart => 0
  | .mmaDrain => 0
  | .mswapExecute => 0
  | .handlerEntry => 0
  | .dbgAttach => 0
  | .dbgDetach => 0
  | .dbgStop => 0
  | .dbgResume => 0
  | .dbgStep => 0
  | .dbgRead => 0
  | .dbgWrite => 0
  | .dbgWatch => 0
  | .dbgHaltRequest => 0
  | .dbgStopMask => 0
  | .longLatencyResult => 0

/-- The long-latency class (R272). -/
def Instr.longLatency : Instr → Bool
  | .idiv ..
  | .idivImm ..
  | .imod ..
  | .imodImm ..
  | .frcp ..
  | .frsq ..
  | .fsqrt ..
  | .fdiv ..
  | .fexp2 ..
  | .flog2 ..
  | .fsin ..
  | .fcos ..
  | .ld ..
  | .st ..
  | .atom ..
  | .cas ..
  | .red ..
  | .brload ..
  | .copy ..
  | .copy2d ..
  | .copyg ..
  | .copyrem ..
  | .tld ..
  | .tst ..
  | .mloadw ..
  | .mma .. => true
  | _ => false

end Sys2Proof
end

