-- ==== Sys2Proof/Machine/Fields.lean ====
section
/-!
DEFINITION. The field checks of decoding that depend on the instruction's bits alone (R264, R265): the operands each
form names (`Instr.use`), and the causes its fields raise (`Instr.defects`).
-/
namespace Sys2Proof

/-- A vector operand: first register, number of registers, alignment its number needs (R121, R265). -/
structure VOp where
  r : BitVec 8
  n : Nat
  al : Nat
  deriving DecidableEq, Repr

/-- The operands a form names: registers, predicates and tiles read and written, records, descriptors, barriers. -/
structure Use where
  rd : List VOp := []
  wr : List VOp := []
  prd : List (BitVec 3) := []
  pwr : List (BitVec 3) := []
  trd : List (BitVec 6 × Nat) := []
  twr : List (BitVec 6 × Nat) := []
  brd : List (BitVec 4) := []
  bwr : List (BitVec 4) := []
  frd : List (BitVec 3) := []
  fwr : List (BitVec 3) := []
  bar : List (BitVec 4) := []
  deriving DecidableEq, Repr

/-- The size of type code TY in bytes (R267). -/
def tyBytes (ty : BitVec 6) : Nat :=
  let t := ty.toNat
  if t = 6 ∨ (24 ≤ t ∧ t ≤ 26) then 8
  else if t = 4 ∨ t = 5 ∨ (30 ≤ t ∧ t ≤ 32) then 2
  else if (27 ≤ t ∧ t ≤ 29) ∨ (34 ≤ t ∧ t ≤ 37) then 1
  else if t = 33 then 16
  else 4

/-- The tag that a load or a conversion writes for TY (R267); 0 is raw. -/
def tyTag (ty : BitVec 6) : Tag := if ty.toNat ≤ 23 then ty.setWidth 5 else 0

/-- An operand of type TY (R121, R265, R328). -/
def tyOp (r : BitVec 8) (ty : BitVec 6) : VOp :=
  if tyBytes ty = 8 then ⟨r, 2, 2⟩ else if tyBytes ty = 16 then ⟨r, 4, 4⟩ else ⟨r, 1, 1⟩

/-- An operand of float type FT (R307). -/
def ftOp (r : BitVec 8) (ft : BitVec 3) : VOp := if ft = 3 then ⟨r, 2, 2⟩ else ⟨r, 1, 1⟩

/-- The seed register, read under `.rs` alone (R319, R354). -/
def seedOp (rm : BitVec 3) (c : BitVec 8) : List VOp := if rm = 5 then [⟨c, 1, 1⟩] else []

/-- The index register of a memory operand; 255 names none (R327). -/
def idxOp (k : BitVec 8) : List VOp := if k = 255 then [] else [⟨k, 1, 1⟩]

/-- The elements of a packed type of fixed width (R135); 0 for the programmable ones. -/
def fixedElems (ty : BitVec 6) : Nat :=
  match ty.toNat with
  | 7 => 4 | 8 => 4 | 9 => 8 | 10 => 2 | 11 => 2 | 12 => 4 | 13 => 4 | 14 => 8 | 15 => 4 | _ => 0

/-- The register group of `PACKN` or `UNPACKN` (R320, R321) for a fixed packed type; the group of a programmable type
is known at issue only. -/
def groupOp (r : BitVec 8) (ty packed : BitVec 6) : List VOp :=
  let k := fixedElems packed
  if k = 0 then [] else if ty = 6 then [⟨r, 2 * k, 2⟩] else [⟨r, k, 1⟩]

/-- The register of a special register of 32 or 64 bits (R359). -/
def srOp (r : BitVec 8) (num : BitVec 8) : VOp :=
  if 0x34 ≤ num.toNat ∧ num.toNat ≤ 0x37 then ⟨r, 2, 2⟩ else ⟨r, 1, 1⟩

/-- Tiles named under TY: an even pair for `.f32` (R348, R351, R352). -/
def tileTy (t : BitVec 6) (ty : BitVec 6) : List (BitVec 6 × Nat) := [(t, if ty = 3 then 2 else 1)]

/-- Tiles named under a format code of `TCVT` (R353). -/
def tileFmt (t : BitVec 6) (f : BitVec 5) : List (BitVec 6 × Nat) := [(t, if f = 10 then 2 else 1)]

/-- Tiles named as an accumulator (R217). -/
def tileAcc (t : BitVec 6) (acc : BitVec 2) : List (BitVec 6 × Nat) := [(t, if acc = 2 then 2 else 1)]

/-- The format descriptor that a type code names (R133, R137): codes 16 to 23. -/
def fmTy (ty : BitVec 6) : List (BitVec 3) := if 16 ≤ ty.toNat ∧ ty.toNat ≤ 23 then [ty.setWidth 3] else []
/-- The format descriptor that a format code of a tile names (R215): codes 16 to 23. -/
def fmCode (f : BitVec 5) : List (BitVec 3) := if 16 ≤ f.toNat ∧ f.toNat ≤ 23 then [f.setWidth 3] else []

/-- The operands of each form (R262 to R274 and the instruction chapters). -/
def Instr.use : Instr → Use
  | .brx _ a => { rd := [⟨a, 2, 2⟩] }
  | .call _ d _ => { wr := [⟨d, 2, 2⟩] }
  | .callx _ d a => { rd := [⟨a, 2, 2⟩], wr := [⟨d, 2, 2⟩] }
  | .ret _ a => { rd := [⟨a, 2, 2⟩] }
  | .iadd _ _ ty d a b => { rd := [tyOp a ty] ++ [tyOp b ty], wr := [tyOp d ty] }
  | .iaddImm _ _ ty d a _ => { rd := [tyOp a ty], wr := [tyOp d ty] }
  | .isub _ _ ty d a b => { rd := [tyOp a ty] ++ [tyOp b ty], wr := [tyOp d ty] }
  | .isubImm _ _ ty d a _ => { rd := [tyOp a ty], wr := [tyOp d ty] }
  | .imul _ ty d a b => { rd := [tyOp a ty] ++ [tyOp b ty], wr := [tyOp d ty] }
  | .imulImm _ ty d a _ => { rd := [tyOp a ty], wr := [tyOp d ty] }
  | .imulh _ ty d a b => { rd := [tyOp a ty] ++ [tyOp b ty], wr := [tyOp d ty] }
  | .imulhImm _ ty d a _ => { rd := [tyOp a ty], wr := [tyOp d ty] }
  | .imad _ ty d a b c => { rd := [tyOp a ty] ++ [tyOp b ty] ++ [tyOp c ty], wr := [tyOp d ty] }
  | .imadImm _ ty d a c _ => { rd := [tyOp a ty] ++ [tyOp c ty], wr := [tyOp d ty] }
  | .imin _ ty d a b => { rd := [tyOp a ty] ++ [tyOp b ty], wr := [tyOp d ty] }
  | .iminImm _ ty d a _ => { rd := [tyOp a ty], wr := [tyOp d ty] }
  | .imax _ ty d a b => { rd := [tyOp a ty] ++ [tyOp b ty], wr := [tyOp d ty] }
  | .imaxImm _ ty d a _ => { rd := [tyOp a ty], wr := [tyOp d ty] }
  | .iabs _ ty d a => { rd := [tyOp a ty], wr := [tyOp d ty] }
  | .ineg _ ty d a => { rd := [tyOp a ty], wr := [tyOp d ty] }
  | .idiv _ ty d a b => { rd := [tyOp a ty] ++ [tyOp b ty], wr := [tyOp d ty] }
  | .idivImm _ ty d a _ => { rd := [tyOp a ty], wr := [tyOp d ty] }
  | .imod _ ty d a b => { rd := [tyOp a ty] ++ [tyOp b ty], wr := [tyOp d ty] }
  | .imodImm _ ty d a _ => { rd := [tyOp a ty], wr := [tyOp d ty] }
  | .icmp _ _ ty d a b => { rd := [tyOp a ty] ++ [tyOp b ty], pwr := [d] }
  | .icmpImm _ _ ty d a _ => { rd := [tyOp a ty], pwr := [d] }
  | .and _ ty d a b => { rd := [tyOp a ty] ++ [tyOp b ty], wr := [tyOp d ty] }
  | .andImm _ ty d a _ => { rd := [tyOp a ty], wr := [tyOp d ty] }
  | .or _ ty d a b => { rd := [tyOp a ty] ++ [tyOp b ty], wr := [tyOp d ty] }
  | .orImm _ ty d a _ => { rd := [tyOp a ty], wr := [tyOp d ty] }
  | .xor _ ty d a b => { rd := [tyOp a ty] ++ [tyOp b ty], wr := [tyOp d ty] }
  | .xorImm _ ty d a _ => { rd := [tyOp a ty], wr := [tyOp d ty] }
  | .not _ ty d a => { rd := [tyOp a ty], wr := [tyOp d ty] }
  | .andn _ ty d a b => { rd := [tyOp a ty] ++ [tyOp b ty], wr := [tyOp d ty] }
  | .andnImm _ ty d a _ => { rd := [tyOp a ty], wr := [tyOp d ty] }
  | .shl _ ty d a b => { rd := [tyOp a ty] ++ [⟨b, 1, 1⟩], wr := [tyOp d ty] }
  | .shlImm _ ty d a _ => { rd := [tyOp a ty], wr := [tyOp d ty] }
  | .shr _ ty d a b => { rd := [tyOp a ty] ++ [⟨b, 1, 1⟩], wr := [tyOp d ty] }
  | .shrImm _ ty d a _ => { rd := [tyOp a ty], wr := [tyOp d ty] }
  | .sar _ ty d a b => { rd := [tyOp a ty] ++ [⟨b, 1, 1⟩], wr := [tyOp d ty] }
  | .sarImm _ ty d a _ => { rd := [tyOp a ty], wr := [tyOp d ty] }
  | .rot _ ty d a b => { rd := [tyOp a ty] ++ [⟨b, 1, 1⟩], wr := [tyOp d ty] }
  | .rotImm _ ty d a _ => { rd := [tyOp a ty], wr := [tyOp d ty] }
  | .popc _ ty d a => { rd := [tyOp a ty], wr := [⟨d, 1, 1⟩] }
  | .clz _ ty d a => { rd := [tyOp a ty], wr := [⟨d, 1, 1⟩] }
  | .ctz _ ty d a => { rd := [tyOp a ty], wr := [⟨d, 1, 1⟩] }
  | .brev _ ty d a => { rd := [tyOp a ty], wr := [tyOp d ty] }
  | .bfx _ ty d a b => { rd := [tyOp a ty] ++ [⟨b, 1, 1⟩], wr := [tyOp d ty] }
  | .bfxImm _ ty d a _ => { rd := [tyOp a ty], wr := [tyOp d ty] }
  | .bfi _ ty d a b c => { rd := [tyOp a ty] ++ [⟨b, 1, 1⟩] ++ [tyOp c ty], wr := [tyOp d ty] }
  | .bfiImm _ ty d a c _ => { rd := [tyOp a ty] ++ [tyOp c ty], wr := [tyOp d ty] }
  | .bperm _ _ d a b c => { rd := [⟨a, 1, 1⟩] ++ [⟨b, 1, 1⟩] ++ [⟨c, 1, 1⟩], wr := [⟨d, 1, 1⟩] }
  | .bpermImm _ _ d a c _ => { rd := [⟨a, 1, 1⟩] ++ [⟨c, 1, 1⟩], wr := [⟨d, 1, 1⟩] }
  | .mov _ ty d a => { rd := [tyOp a ty], wr := [tyOp d ty] }
  | .movi _ ty d _ => { wr := [tyOp d ty] }
  | .sel _ ty d a b c => { rd := [tyOp a ty] ++ [tyOp b ty], wr := [tyOp d ty], prd := [c] }
  | .selImm _ ty d a c _ => { rd := [tyOp a ty], wr := [tyOp d ty], prd := [c] }
  | .lea _ _ d a b _ => { rd := [⟨a, 2, 2⟩] ++ [⟨b, 1, 1⟩], wr := [⟨d, 2, 2⟩] }
  | .leaImm _ _ d a _ _ => { rd := [⟨a, 2, 2⟩], wr := [⟨d, 2, 2⟩] }
  | .plop _ _ _ _ d a b => { prd := [a, b], pwr := [d] }
  | .pmovToRegister _ d => { wr := [⟨d, 1, 1⟩], prd := [1, 2, 3, 4, 5, 6, 7] }
  | .pmovToPredicates _ a => { rd := [⟨a, 1, 1⟩], pwr := [1, 2, 3, 4, 5, 6, 7] }
  | .sqsync _ b => { rd := [⟨b, 1, 1⟩] }
  | .vote _ op _ d a b => { rd := [⟨b, 1, 1⟩], wr := (if op = .ballot then [⟨d, 1, 1⟩] else []), prd := [a], pwr := if op = .ballot then [] else [d.setWidth 3] }
  | .voteImm _ op _ d a _ => { wr := (if op = .ballot then [⟨d, 1, 1⟩] else []), prd := [a], pwr := if op = .ballot then [] else [d.setWidth 3] }
  | .shfl _ _ ty d a b c => { rd := [tyOp a ty] ++ [⟨b, 1, 1⟩] ++ [⟨c, 1, 1⟩], wr := [tyOp d ty] }
  | .shflImm _ _ ty d a c _ => { rd := [tyOp a ty] ++ [⟨c, 1, 1⟩], wr := [tyOp d ty] }
  | .sqMatch _ _ ty d a b => { rd := [tyOp a ty] ++ [⟨b, 1, 1⟩], wr := [tyOp d ty] }
  | .sqMatchImm _ _ ty d a _ => { rd := [tyOp a ty], wr := [tyOp d ty] }
  | .redux _ _ _ ty d a b => { rd := [tyOp a ty] ++ [⟨b, 1, 1⟩], wr := [tyOp d ty] }
  | .reduxImm _ _ _ ty d a _ => { rd := [tyOp a ty], wr := [tyOp d ty] }
  | .convoy _ d b => { rd := [⟨b, 1, 1⟩], wr := [⟨d, 1, 1⟩] }
  | .convoyImm _ d _ => { wr := [⟨d, 1, 1⟩] }
  | .fadd _ ft _ d a b => { rd := [ftOp a ft] ++ [ftOp b ft], wr := [ftOp d ft] }
  | .fsub _ ft _ d a b => { rd := [ftOp a ft] ++ [ftOp b ft], wr := [ftOp d ft] }
  | .fmul _ ft _ d a b => { rd := [ftOp a ft] ++ [ftOp b ft], wr := [ftOp d ft] }
  | .ffma _ ft _ d a b c => { rd := [ftOp a ft] ++ [ftOp b ft] ++ [ftOp c ft], wr := [ftOp d ft] }
  | .fmin _ ft _ d a b => { rd := [ftOp a ft] ++ [ftOp b ft], wr := [ftOp d ft] }
  | .fmax _ ft _ d a b => { rd := [ftOp a ft] ++ [ftOp b ft], wr := [ftOp d ft] }
  | .fcmp _ _ ft _ d a b => { rd := [ftOp a ft] ++ [ftOp b ft], pwr := [d] }
  | .frcp _ ft _ d a => { rd := [ftOp a ft], wr := [ftOp d ft] }
  | .frsq _ ft _ d a => { rd := [ftOp a ft], wr := [ftOp d ft] }
  | .fsqrt _ ft _ d a => { rd := [ftOp a ft], wr := [ftOp d ft] }
  | .fdiv _ ft _ d a b => { rd := [ftOp a ft] ++ [ftOp b ft], wr := [ftOp d ft] }
  | .fexp2 _ ft _ d a => { rd := [ftOp a ft], wr := [ftOp d ft] }
  | .flog2 _ ft _ d a => { rd := [ftOp a ft], wr := [ftOp d ft] }
  | .fsin _ ft _ d a => { rd := [ftOp a ft], wr := [ftOp d ft] }
  | .fcos _ ft _ d a => { rd := [ftOp a ft], wr := [ftOp d ft] }
  | .fclass _ ft _ d a => { rd := [ftOp a ft], wr := [⟨d, 1, 1⟩] }
  | .fround _ ft _ d a => { rd := [ftOp a ft], wr := [ftOp d ft] }
  | .fldexp _ ft _ d a b => { rd := [ftOp a ft] ++ [⟨b, 1, 1⟩], wr := [ftOp d ft] }
  | .fcvt _ d a c dty sty rm _ => { rd := [tyOp a sty] ++ seedOp rm c, wr := [tyOp d dty] }
  | .icvt _ d a c dty sty rm _ => { rd := [tyOp a sty] ++ seedOp rm c, wr := [tyOp d dty] }
  | .i2f _ d a c dty sty rm _ => { rd := [tyOp a sty] ++ seedOp rm c, wr := [tyOp d dty] }
  | .f2i _ d a c dty sty rm _ => { rd := [tyOp a sty] ++ seedOp rm c, wr := [tyOp d dty] }
  | .dot2 _ _ _ _ d a b c => { rd := [⟨a, 1, 1⟩] ++ [⟨b, 1, 1⟩] ++ [⟨c, 1, 1⟩], wr := [⟨d, 1, 1⟩] }
  | .dot4 _ _ _ _ d a b c => { rd := [⟨a, 1, 1⟩] ++ [⟨b, 1, 1⟩] ++ [⟨c, 1, 1⟩], wr := [⟨d, 1, 1⟩] }
  | .fmtset _ d a => { rd := [⟨a, 1, 1⟩], fwr := [d] }
  | .fmtsetImm _ d _ => { fwr := [d] }
  | .fmtget _ d a => { wr := [⟨d, 1, 1⟩], frd := [a] }
  | .tag _ d a b => { rd := [⟨a, 1, 1⟩] ++ [⟨b, 1, 1⟩], wr := [⟨d, 1, 1⟩] }
  | .tagImm _ d a _ => { rd := [⟨a, 1, 1⟩], wr := [⟨d, 1, 1⟩] }
  | .tagget _ d a => { rd := [⟨a, 1, 1⟩], wr := [⟨d, 1, 1⟩] }
  | .bscale _ ef _ d a => { rd := [⟨a, 1, 1⟩], wr := [⟨d, 1, 1⟩], frd := fmCode ef }
  | .packn _ d a c dty sty rm _ => { rd := groupOp a sty dty ++ seedOp rm c, wr := [⟨d, 1, 1⟩], frd := fmTy dty ++ fmTy sty }
  | .unpackn _ d a c dty sty rm _ => { rd := [⟨a, 1, 1⟩] ++ seedOp rm c, wr := groupOp d dty sty, frd := fmTy dty ++ fmTy sty }
  | .ld _ ty d ad _ _ => { rd := idxOp ad.idx, wr := [tyOp d ty], brd := [ad.brec] }
  | .st _ ty ad c _ _ => { rd := [tyOp c ty] ++ idxOp ad.idx, brd := [ad.brec] }
  | .atom _ _ ty d ad c _ _ => { rd := [tyOp c ty] ++ idxOp ad.idx, wr := [tyOp d ty], brd := [ad.brec] }
  | .cas _ ty d ad c _ _ y => { rd := [tyOp c ty] ++ idxOp ad.idx ++ [tyOp y ty], wr := [tyOp d ty], brd := [ad.brec] }
  | .red _ _ ty ad c _ _ => { rd := [tyOp c ty] ++ idxOp ad.idx, brd := [ad.brec] }
  | .brload _ d ad _ _ => { rd := idxOp ad.idx, brd := [ad.brec], bwr := [d] }
  | .brset _ d a => { rd := [⟨a, 8, 4⟩], bwr := [d] }
  | .brsetToRegisters _ d a => { wr := [⟨d, 8, 4⟩], brd := [a] }
  | .prefetch _ ad _ _ => { rd := idxOp ad.idx, brd := [ad.brec] }
  | .cctl _ ad _ _ => { rd := idxOp ad.idx, brd := [ad.brec] }
  | .publish _ ad c _ _ => { rd := [⟨c, 1, 1⟩] ++ idxOp ad.idx, brd := [ad.brec] }
  | .publishM _ d ad c _ _ => { rd := [⟨c, 1, 1⟩] ++ idxOp ad.idx, wr := [⟨d, 12, 2⟩], brd := [ad.brec] }
  | .adopt _ ad c _ _ => { rd := [⟨c, 1, 1⟩] ++ idxOp ad.idx, brd := [ad.brec] }
  | .retract _ ad c _ _ => { rd := [⟨c, 1, 1⟩] ++ idxOp ad.idx, brd := [ad.brec] }
  | .barinit _ d b => { rd := [⟨b, 1, 1⟩], bar := [d] }
  | .barinitImm _ d _ => { bar := [d] }
  | .bararrive _ d a => { wr := [⟨d, 1, 1⟩], bar := [a] }
  | .barwait _ a b => { rd := [⟨b, 1, 1⟩], bar := [a] }
  | .barsync _ a => { bar := [a] }
  | .barinval _ a => { bar := [a] }
  | .barquery _ d a => { wr := [⟨d, 1, 1⟩], bar := [a] }
  | .teamsync _ => { bar := [0] }
  | .copy _ k bar => { rd := idxOp k.vK ++ idxOp k.vJ ++ [⟨k.len, 1, 1⟩], wr := [⟨k.vS, 1, 1⟩], brd := [k.dRec, k.sRec], bar := (if bar.arr then [bar.nb] else []) }
  | .copy2d _ k bar => { rd := idxOp k.vK ++ idxOp k.vJ ++ [⟨k.len, 4, 1⟩], wr := [⟨k.vS, 1, 1⟩], brd := [k.dRec, k.sRec], bar := (if bar.arr then [bar.nb] else []) }
  | .copyg _ k bar => { rd := idxOp k.vK ++ idxOp k.vJ ++ [⟨k.len, 3, 1⟩], wr := [⟨k.vS, 1, 1⟩], brd := [k.dRec, k.sRec], bar := (if bar.arr then [bar.nb] else []) }
  | .copyrem _ k _ cRec _ => { rd := idxOp k.vK ++ idxOp k.vJ ++ [⟨k.len, 1, 1⟩], wr := [⟨k.vS, 1, 1⟩], brd := [k.dRec, k.sRec, cRec] }
  | .tld _ ty d ad _ _ => { rd := idxOp ad.idx, twr := tileTy d ty, brd := [ad.brec] }
  | .tst _ ty ad c _ _ => { rd := idxOp ad.idx, trd := tileTy c ty, brd := [ad.brec] }
  | .tzero _ ty d => { twr := tileTy d ty }
  | .tmov _ d a => { trd := [(a, 1)], twr := [(d, 1)] }
  | .tcvt _ rm df d a sf _ c => { rd := seedOp rm c, trd := tileFmt a sf, twr := tileFmt d df, frd := fmCode sf ++ fmCode df }
  | .ttrans _ d a => { trd := [(a, 1)], twr := [(d, 1)] }
  | .tadd _ ty d a b => { trd := tileTy a ty ++ tileTy b ty, twr := tileTy d ty }
  | .tscale _ d a => { rd := [⟨a, 1, 1⟩], twr := [(d, 1)] }
  | .tgetv _ _ d a b => { rd := [⟨b, 1, 1⟩], wr := [⟨d, 1, 1⟩], trd := [(a, 1)] }
  | .tsetv _ _ d a b => { rd := [⟨a, 1, 1⟩] ++ [⟨b, 1, 1⟩], twr := [(d, 1)] }
  | .mloadw _ ad _ _ wf => { rd := idxOp ad.idx, brd := [ad.brec], frd := fmCode wf }
  | .mma _ wf d a c af acc _ => { trd := [(a, 1)] ++ tileAcc c acc, twr := tileAcc d acc, frd := fmCode wf ++ fmCode af }
  | .mlocate _ d => { wr := [⟨d, 9, 1⟩] }
  | .mcorrect _ d => { wr := [⟨d, 1, 1⟩] }
  | .mretry _ d => { wr := [⟨d, 1, 1⟩] }
  | .mstat _ d => { wr := [⟨d, 4, 2⟩] }
  | .notify _ a b => { rd := [⟨a, 1, 1⟩] ++ [⟨b, 2, 2⟩] }
  | .trapinfo _ d a b => { rd := [⟨a, 1, 1⟩] ++ [⟨b, 1, 1⟩], wr := [⟨d, 1, 1⟩] }
  | .trapinfoImm _ d a _ => { rd := [⟨a, 1, 1⟩], wr := [⟨d, 1, 1⟩] }
  | .trapclr _ a => { rd := [⟨a, 1, 1⟩] }
  | .sread _ d num => { wr := [srOp d num] }
  | .swrite _ num b => { rd := [srOp b num] }
  | .clock _ d => { wr := [⟨d, 2, 2⟩] }
  | .sleep _ b => { rd := [⟨b, 1, 1⟩] }
  | _ => {}

/-- A register number that its operand's width does not allow (R121, R265, and the group rules of R204, R229, R320,
R336). -/
def VOp.misaligned (o : VOp) : Bool := decide (1 < o.n) && (o.r.toNat % o.al != 0 || decide (255 < o.r.toNat + o.n))

/-- A tile pair at an odd number (R346). -/
def tileOdd (t : BitVec 6 × Nat) : Bool := t.2 = 2 && t.1.getLsbD 0

/-- The type codes of 32-bit and 64-bit integers (R283). -/
def intTy (ty : BitVec 6) : Bool := ty.toNat ∈ [1, 2, 25, 26]
/-- `.b32` and `.b64`. -/
def bitTy (ty : BitVec 6) : Bool := ty.toNat ∈ [0, 24]
/-- The integer types of conversions (R317, R318). -/
def cvInt (ty : BitVec 6) : Bool := ty.toNat ∈ [1, 2, 25, 26, 28, 29, 31, 32]
/-- The scalar float types of conversions (R317). -/
def cvFloat (ty : BitVec 6) : Bool := (3 ≤ ty.toNat && ty.toNat ≤ 6) || (34 ≤ ty.toNat && ty.toNat ≤ 37)
/-- The binary float types f32, f16, bf16 and f64. -/
def binFloat (ty : BitVec 6) : Bool := 3 ≤ ty.toNat && ty.toNat ≤ 6
/-- Packed types of float elements (R320, R321). -/
def packFloat (ty : BitVec 6) : Bool := 10 ≤ ty.toNat && ty.toNat ≤ 23
/-- Packed types of integer elements. -/
def packInt (ty : BitVec 6) : Bool := ty.toNat ∈ [7, 8, 9]

/-- Mantissa bits of a float type of fixed format; none for the programmable ones (R130, R319). -/
def mantBits (ty : BitVec 6) : Option Nat :=
  match ty.toNat with
  | 3 => some 23 | 4 => some 10 | 5 => some 7 | 6 => some 52 | 10 => some 10 | 11 => some 7 | 12 => some 3
  | 13 => some 2 | 14 => some 1 | 15 => some 0 | 34 => some 3 | 35 => some 2 | 36 => some 1 | 37 => some 0
  | _ => none

/-- `.rs` is accepted where the conversion narrows (R319); a programmable destination is judged at issue. -/
def narrows (dty sty : BitVec 6) : Bool :=
  match mantBits dty, mantBits sty with
  | some d, some s => d < s
  | _, _ => true

/-- The tile types of `TLD` and `TST` (R348). -/
def tileTyOk (ty : BitVec 6) : Bool :=
  ty.toNat ∈ [0, 3, 4, 5, 7, 8, 9, 12, 13, 14, 16, 17, 18, 19, 20, 21, 22, 23, 28, 29, 34, 35, 36]

/-- The word types of `TGETV` and `TSETV` (R355). -/
def tileWordTy (ty : BitVec 6) : Bool := ty.toNat ≤ 3 || (7 ≤ ty.toNat && ty.toNat ≤ 23)

/-- A format code of R353. -/
def tcvtCode (f : BitVec 5) : Bool := f.toNat ≤ 10 || (16 ≤ f.toNat && f.toNat ≤ 23)
/-- The wide formats of R353. -/
def tcvtWide (f : BitVec 5) : Bool := 8 ≤ f.toNat && f.toNat ≤ 10
/-- The segment limit of a narrow format of fixed width (R353); a programmable one is judged at issue. -/
def segOk (f : BitVec 5) (seg : BitVec 2) : Bool :=
  tcvtWide f || f = 4 || f = 7 || 16 ≤ f.toNat || seg.toNat ≤ 1

/-- A format code of R215. -/
def mxCode (f : BitVec 5) : Bool := f.toNat ≤ 9 || (16 ≤ f.toNat && f.toNat ≤ 23)

/-- The special registers of R359. -/
def srKnown (num : BitVec 8) : Bool :=
  let n := num.toNat
  n ≤ 0x11 || n = 0x20 || n = 0x21 || (0x30 ≤ n && n ≤ 0x37)

/-- Scopes `.sq` to `.sy` (R166). -/
def scopeOk (s : BitVec 3) : Bool := s.toNat ≤ 5
/-- Order of a load or store: one of the row's codes, and 4 or 8 bytes when not plain (R167). -/
def ordOk (ord : BitVec 3) (codes : List Nat) (ty : BitVec 6) : Bool :=
  ord.toNat ∈ codes && (ord = 0 || tyBytes ty = 4 || tyBytes ty = 8)

/-- The types each operation of `ATOM` and `RED` accepts (R332). -/
def atomTy (op : AtomOp) (ty : BitVec 6) : Bool :=
  match op with
  | .add => ty.toNat ∈ [1, 2, 25, 26, 3, 10, 11, 6]
  | .min | .max => intTy ty
  | .and | .or | .xor | .exch => bitTy ty
  | .incw | .decw => ty = 2

/-- The fields of a conversion (R316 to R321): source and destination types, rounding, saturation, seed. -/
def cvOk (pair rmOk satOk : Bool) (dty sty : BitVec 6) (rm : BitVec 3) (sat : Bool) (c : BitVec 8) : Bool :=
  pair && rmOk && (satOk || !sat) && (rm = 5 || c = 0) && (rm ≠ 5 || narrows dty sty)

/-- The types, roundings, orders, scopes and codes of a form are ones it accepts (R265, R267 and the instruction
chapters). -/
def Instr.codesOk : Instr → Bool
  | .iadd _ _ ty _ _ _
  | .iaddImm _ _ ty _ _ _
  | .isub _ _ ty _ _ _
  | .isubImm _ _ ty _ _ _
  | .imul _ ty _ _ _
  | .imulImm _ ty _ _ _
  | .imulh _ ty _ _ _
  | .imulhImm _ ty _ _ _
  | .imad _ ty _ _ _ _
  | .imadImm _ ty _ _ _ _
  | .imin _ ty _ _ _
  | .iminImm _ ty _ _ _
  | .imax _ ty _ _ _
  | .imaxImm _ ty _ _ _
  | .idiv _ ty _ _ _
  | .idivImm _ ty _ _ _
  | .imod _ ty _ _ _
  | .imodImm _ ty _ _ _
  | .icmp _ _ ty _ _ _
  | .icmpImm _ _ ty _ _ _
  | .iabs _ ty _ _
  | .ineg _ ty _ _ => intTy ty
  | .and _ ty _ _ _
  | .andImm _ ty _ _ _
  | .or _ ty _ _ _
  | .orImm _ ty _ _ _
  | .xor _ ty _ _ _
  | .xorImm _ ty _ _ _
  | .andn _ ty _ _ _
  | .andnImm _ ty _ _ _
  | .shl _ ty _ _ _
  | .shlImm _ ty _ _ _
  | .shr _ ty _ _ _
  | .shrImm _ ty _ _ _
  | .sar _ ty _ _ _
  | .sarImm _ ty _ _ _
  | .rot _ ty _ _ _
  | .rotImm _ ty _ _ _
  | .bfi _ ty _ _ _ _
  | .bfiImm _ ty _ _ _ _
  | .sel _ ty _ _ _ _
  | .selImm _ ty _ _ _ _
  | .shfl _ _ ty _ _ _ _
  | .shflImm _ _ ty _ _ _ _
  | .sqMatch _ _ ty _ _ _
  | .sqMatchImm _ _ ty _ _ _
  | .not _ ty _ _
  | .popc _ ty _ _
  | .clz _ ty _ _
  | .ctz _ ty _ _
  | .brev _ ty _ _
  | .mov _ ty _ _ => bitTy ty
  | .bfx _ ty _ _ _
  | .bfxImm _ ty _ _ _ => ty.toNat ∈ [0, 1, 24, 25]
  | .bperm _ ty _ _ _ _
  | .bpermImm _ ty _ _ _ _ => ty = 0
  | .movi _ ty _ _ => ty.toNat ∈ [0, 1, 2, 3, 24, 25, 26]
  | .lea _ ty _ _ _ _
  | .leaImm _ ty _ _ _ _ => ty = 1 || ty = 2
  | .vote _ op _ d _ _
  | .voteImm _ op _ d _ _ => op = .ballot || d.toNat < 8
  | .redux _ op _ ty _ _ _
  | .reduxImm _ op _ ty _ _ _ => if op = .sum || op = .low || op = .high then intTy ty else bitTy ty
  | .fadd _ ft rm _ _ _
  | .fsub _ ft rm _ _ _
  | .fmul _ ft rm _ _ _
  | .ffma _ ft rm _ _ _ _ => ft.toNat ≤ 5 && rm.toNat ≤ 4
  | .fmin _ ft rm _ _ _
  | .fmax _ ft rm _ _ _ => ft.toNat ≤ 5 && rm = 0
  | .fcmp _ _ ft rm _ _ _
  | .fclass _ ft rm _ _
  | .fldexp _ ft rm _ _ _ => ft.toNat ≤ 3 && rm = 0
  | .frcp _ ft rm _ _
  | .frsq _ ft rm _ _
  | .fexp2 _ ft rm _ _
  | .flog2 _ ft rm _ _
  | .fsin _ ft rm _ _
  | .fcos _ ft rm _ _ => ft.toNat ∈ [0, 1, 3] && rm = 0
  | .fsqrt _ ft rm _ _
  | .fdiv _ ft rm _ _ _
  | .fround _ ft rm _ _ => ft.toNat ≤ 3 && rm.toNat ≤ 4
  | .dot2 _ _ ft rm _ _ _ _
  | .dot4 _ _ ft rm _ _ _ _ => ft.toNat ≤ 2 && rm.toNat ≤ 4
  | .fcvt _ _ _ c dty sty rm sat => 
    cvOk ((cvFloat sty && cvFloat dty) || ((sty = 10 || sty = 11) && (dty = 10 || dty = 11)) || (binFloat sty && cvInt dty))
      (rm.toNat ≤ 5) (!cvInt dty) dty sty rm sat c
  | .f2i _ _ _ c dty sty rm sat => cvOk (binFloat sty && cvInt dty) (rm.toNat ≤ 4) false dty sty rm sat c
  | .i2f _ _ _ c dty sty rm sat => cvOk (cvInt sty && cvFloat dty) (rm.toNat ≤ 4) true dty sty rm sat c
  | .icvt _ _ _ c dty sty rm sat => cvOk (cvInt sty && cvInt dty) (rm = 0) true dty sty rm sat c
  | .packn _ _ _ c dty sty rm sat => 
    if sty = 1 || sty = 2 then cvOk (packInt dty) (rm = 0) true dty sty rm sat c
    else cvOk (binFloat sty && packFloat dty) (rm.toNat ≤ 5) true dty sty rm sat c
  | .unpackn _ _ _ c dty sty rm sat => 
    if packInt sty then cvOk (dty = 1 || dty = 2) (rm = 0) false dty sty rm sat c
    else cvOk (packFloat sty && binFloat dty) (rm.toNat ≤ 4) true dty sty rm sat c
  | .tagImm _ _ _ imm => imm.toNat ≤ 23
  | .bscale _ _ ty _ _ => ty = 3
  | .ld _ ty _ _ ord scp => ty.toNat ≤ 37 && scopeOk scp && ordOk ord [0, 1, 2, 5] ty
  | .st _ ty _ _ ord scp => ty.toNat ≤ 37 && scopeOk scp && ordOk ord [0, 1, 3, 5] ty
  | .atom _ op ty _ _ _ ord scp => atomTy op ty && scopeOk scp && ord.toNat ∈ [1, 2, 3, 4, 5]
  | .cas _ ty _ _ _ ord scp _ => bitTy ty && scopeOk scp && ord.toNat ∈ [1, 2, 3, 4, 5]
  | .red _ op ty _ _ ord scp => atomTy op ty && scopeOk scp && (ord = 1 || ord = 3)
  | .fence _ ord scp => scopeOk scp && ord.toNat ∈ [2, 3, 4, 5]
  | .brload _ _ _ ord scp
  | .prefetch _ _ ord scp => scopeOk scp && ord = 0
  | .cctl _ _ ord scp
  | .publish _ _ _ ord scp
  | .publishM _ _ _ _ ord scp
  | .adopt _ _ _ ord scp
  | .retract _ _ _ ord scp => scp.toNat ≤ 3 && ord = 0
  | .copy _ _ bar
  | .copy2d _ _ bar => bar.arr || bar.nb = 0
  | .copyg _ k bar => (bar.arr || bar.nb = 0) && k.vJ = 255
  | .copyrem _ _ scp _ _ => 3 ≤ scp.toNat && scp.toNat ≤ 5
  | .tld _ ty _ _ ord scp
  | .tst _ ty _ _ ord scp => tileTyOk ty && ord = 0 && scopeOk scp
  | .tzero _ ty _ => tileTyOk ty && ty.toNat ≤ 23
  | .tadd _ ty _ _ _ => 3 ≤ ty.toNat && ty.toNat ≤ 5
  | .tcvt _ rm df _ _ sf seg c => 
    tcvtCode sf && tcvtCode df && (tcvtWide sf || tcvtWide df) && (!(tcvtWide sf && tcvtWide df) || seg = 0)
      && segOk sf seg && segOk df seg && (rm ≠ 5 || !tcvtWide df) && (rm = 5 || c = 0)
  | .tgetv _ ty _ _ _
  | .tsetv _ ty _ _ _ => tileWordTy ty
  | .mloadw _ _ slot ing wf => mxCode wf && (ing || slot = 0)
  | .mma _ wf _ _ _ af acc _ => mxCode wf && mxCode af && acc ≠ 3
  | .sread _ _ num
  | .swrite _ num _ => srKnown num
  | _ => true

/-- The common part is free of reserved values: no unused field set, PN only with a predicate, LA only in the
long-latency class (R264, R265, R272). -/
def Instr.headOk (i : Instr) : Bool :=
  match i.hd with
  | none => true
  | some h => !h.rsv && (h.pg ≠ 0 || !h.pn) && (h.la = 0 || i.longLatency)

/-- The causes that decoding records from the instruction's bits alone (R264, R265). -/
def Instr.defects (i : Instr) : List Cause :=
  (if i.headOk && i.codesOk then [] else [.reservedField]) ++
  (if (i.use.rd ++ i.use.wr).any VOp.misaligned || (i.use.trd ++ i.use.twr).any tileOdd then [.operandAlign] else [])

end Sys2Proof
end

