-- ==== Sys2Proof/Machine/State.lean ====
section
/-!
DEFINITION. The state of the device as plain data, and its reset value. Collections indexed by a number are sparse
maps in canonical form. Every field has the value at reset beside it; those the specification does not give are named
in the assumption log.
-/
namespace Sys2Proof.Machine

/-- Why a step can stop the machine. Safe: the part cannot act at all there. -/
inductive Fault where
  /-- Raised by `step` when the package has no power (R12): no block holds state or acts. Safe. -/
  | noPower
  deriving DecidableEq, Repr

/-- Why the model gives no next state. -/
inductive Refusal where
  /-- Raised by an arm of `exec` for a row of the table without a meaning. Safe: it stops. -/
  | notModelled (mnemonic : String)
  deriving DecidableEq, Repr

/-- A vector register: value and tag (R120, R137). -/
abbrev VReg := Word × Tag

/-- What a thread waits for outside formation (R94, R96, R197, R303, R357, R361). A wait in a squad instruction
keeps the operands read at the arrival. -/
inductive Wait where
  | none
  /-- `BARWAIT`, `BARSYNC` or `TEAMSYNC` on a barrier, until PHASE differs from the token. -/
  | barrier (n : Nat) (token : Bool) (sync : Bool)
  /-- A squad instruction, its length, its mask, and opa, its tag, opc and the predicate operand at arrival. -/
  | squad (i : Instr) (mask : Word) (a : Dword) (tags : Tag × Tag) (c : Word) (pa : Bool)
  /-- `SLEEP`, with the cycles left. -/
  | sleep (left : Nat)
  /-- A `SPAWN` lane without a free bin slot, with the number of its instruction (R357). -/
  | bin (stage op : Nat)
  /-- Parked on a page fault of its fetch, with the page request sent (R117, R158). -/
  | fetch (block req : Nat)
  deriving DecidableEq, Repr

/-- An entry of a loop buffer: block address, ASID, physical line address, value (R118, R182). -/
structure Loop where
  va : Nat
  asid : Nat
  line : Nat
  bytes : List Byte
  deriving DecidableEq, Repr

/-- A lookahead window: the operation that opened it, its LA, instructions issued since (R123, R126). -/
structure Window where
  op : Nat
  la : Nat
  since : Nat
  deriving DecidableEq, Repr

/-- A release that has not performed (R25, R26, R163): its number, scope and context; what it still waits for: keys of
earlier stores of its core, ports whose fence-complete has not returned (with the number of the fence flit),
destinations whose epoch acknowledgement is missing; how far it has come (0 stores, 1 fence flits sent, 2 flush markers sent); whether a path was lost (R27). -/
structure Release where
  id : Nat := 0
  scope : Nat := 0
  ctx : Nat := 0
  stores : List Nat := []
  ports : List (Nat × Nat) := []
  dests : List (Nat × Nat) := []
  stage : Nat := 0
  lost : Bool := false
  deriving DecidableEq, Repr

/-- A thread (R81, R120, R126). `regs` lists the registers that are not 0 with tag raw; bit 0 of `preds` is always
set. -/
structure Thread where
  pc : Dword := 0
  regs : Map VReg := []
  preds : BitVec 8 := 1
  flags : BitVec 5 := 0
  exited : Bool := false
  wait : Wait := .none
  loops : List Loop := []
  windows : List Window := []
  lastForm : Nat := 0
  haltPc : Dword := 0
  skid : Nat := 0
  /-- The stage and the bin slot that a `SPAWN` lane holds while its record is not written (R357). -/
  slot : Option (Nat × Nat) := none
  /-- The release of the `FENCE`, `NOTIFY` or `PUBLISH` the thread stands at. -/
  rel : Option Release := none
  deriving DecidableEq, Repr

/-- A span of code of a lane of `PUBLISH`, as its issue found it (R185, R186): its pieces in memory, and the failure that stops it. -/
structure CodeSpan where
  ln : Nat
  start : Dword := 0
  len : Nat := 0
  keys : List (Nat × Nat) := []
  fail : Option (Cause × Word) := none
  deriving DecidableEq, Repr

/-- An instruction that a convoy of a squad has issued and that waits for its release (R126, R334, R344; log 38, DEDUCED): its convoy,
active lanes and address, and the regions of a `PUBLISH` as read at issue (R327). -/
structure Amid where
  i : Instr
  lanes : List Nat
  act : List Nat
  pc : Dword
  spans : List CodeSpan := []
  deriving DecidableEq, Repr

/-- How a squad runs (R243): running; stopping, with the issues it may still make; stopped. -/
inductive Run where
  | running
  | halting (left : Nat)
  | stopped
  deriving DecidableEq, Repr

/-- A parked page fault of a squad (R158): the lanes of the faulting instruction and the page requests sent. -/
structure Park where
  lanes : List Nat
  reqs : List Nat
  /-- The lanes whose page is absent: the request, the lane and its address (R241). -/
  faults : List (Nat × Nat × Dword) := []
  /-- Captured by a freeze (R103): its requests are abandoned, and its instruction issues again when the squad goes on. -/
  captured : Bool := false
  deriving DecidableEq, Repr

/-- A squad: convoy and latched block (R94, R117), trap record (R241), run state. -/
structure Squad where
  convoy : List Nat := []
  /-- The convoy issues from the loop buffer of its one thread (R118). -/
  lone : Bool := false
  latch : Option Loop := none
  formIdx : Nat := 0
  sinceForm : Nat := 0
  causes : Word := 0
  fpc : Dword := 0
  faddr : Dword := 0
  detail : Word := 0
  code : Word := 0
  haltCyc : Dword := 0
  /-- The quadrant whose slot it takes (R84). -/
  quad : Nat := 0
  run : Run := .running
  park : Option Park := none
  /-- The lanes whose faulting instruction issues again, alone (R158). -/
  replay : List Nat := []
  amids : List Amid := []
  deriving DecidableEq, Repr

/-- A tile (R120, R345): data bytes that are not 0, scale bytes that are not 127, tag. -/
structure Tile where
  data : Map Byte := []
  scales : Map Byte := []
  tag : Tag := 0
  deriving DecidableEq, Repr

/-- A named barrier (R195). -/
structure Barrier where
  valid : Bool := true
  phase : Bool := false
  pending : Nat := 0
  expected : Nat := 0
  arrived : Nat := 0
  deriving DecidableEq, Repr

/-- What a team does (R243 to R253): running (its squads may be halting), in its handler with the handling thread
and its `%hpc`, killed and not yet retired. -/
inductive Phase where
  | running
  | handler (sq ln : Nat) (hpc : Dword)
  | killed
  deriving DecidableEq, Repr

/-- A resident team (R81 to R83, R120). `recs` lists the buffer records that are not null, `fms` the descriptors
that are not 0, `slice` the scratchpad bytes that are not 0 by physical offset (log 62, DESIGN CHOICE). -/
structure Team where
  launch : Nat := 0
  stage : Nat := 0
  en : Nat := 0
  enx : Nat := 0
  eny : Nat := 0
  enz : Nat := 0
  tm : Nat := 0
  nrec : Nat := 0
  core : Nat := 0
  /-- The key of the ensemble it belongs to, and whether it uses reserved room (R91). -/
  ens : Nat := 0
  reserved : Bool := false
  fpctl : BitVec 3 := 0
  recs : Map (BitVec 256) := []
  fms : Map Word := []
  tiles : Map Tile := []
  bars : List Barrier := []
  slice : Map Byte := []
  squads : List Squad := []
  threads : List Thread := []
  phase : Phase := .running
  /-- A trap, a debugger or a freeze has asked the team to halt (R102, R243, R259). -/
  halting : Bool := false
  /-- Restored on a core, where no thread of it issues before reserved room is claimed again (R110). -/
  waking : Bool := false
  /-- Held stopped by a debugger (R260). -/
  held : Bool := false
  /-- The squad a debugger lets issue one instruction (R259). -/
  stepping : Option Nat := none
  /-- The wait or fault of the handling thread, held while it runs the handler (R246): halt PC, wait, and whether
  a parked fault of its squad is its own. -/
  heldWait : Wait := .none
  heldPark : Option Park := none
  deriving DecidableEq, Repr

/-- The place of an access: memory by its key (see `memKey`), a scratchpad slice by physical offset, or out of
bounds under OOBZ. -/
inductive Place where
  | glob (key : Nat)
  | slice (team : Nat) (off : Nat) (swz : Nat)
  | oob
  deriving DecidableEq, Repr

/-- One lane of an operation in flight: address and place, data (stores: bytes; atomics: opb, opc), whether its
access has performed (with the old value of an atomic) and whether its reply has landed. -/
structure LaneAcc where
  ln : Nat
  /-- The address of the unit. -/
  va : Dword
  /-- The address of its lane, for the trap record (R241). -/
  base : Dword := va
  place : Place
  data : List Byte := []
  opb : Dword := 0
  opc : Dword := 0
  noL1 : Bool := false
  performed : Bool := false
  old : Dword := 0
  failed : Bool := false
  /-- Why it failed, of an operation that acts once: its causes are one event, taken when it completes (R152, R241). -/
  why : Option (Cause × Word) := none
  replied : Bool := false
  deriving DecidableEq, Repr

/-- What an operation in flight does when its replies land (R124, R329, R333, R335, R349). -/
inductive FlightOp where
  | load (ty : BitVec 6) (d : BitVec 8)
  | store (ty : BitVec 6)
  | atomic (op : AtomOp) (ty : BitVec 6) (d : Option (BitVec 8))
  | cas (ty : BitVec 6) (d : BitVec 8)
  | brload (d : BitVec 4)
  | tld (ty : BitVec 6) (t : BitVec 6)
  | tst (ty : BitVec 6) (t : BitVec 6)
  /-- A long-latency result: destination, width in registers, tag; per lane the value, and flags. -/
  | result (d : BitVec 8) (n : Nat) (tag : Tag)
  deriving DecidableEq, Repr

/-- An operation in flight (R124). -/
structure Flight where
  team : Nat
  sq : Nat
  core : Nat
  pc : Dword
  op : FlightOp
  ord : BitVec 3 := 0
  scp : BitVec 3 := 1
  lanes : List LaneAcc
  /-- The release it performs before it writes; `none` once performed. -/
  rel : Option Release := none
  /-- `%fpctl` at issue (R129, R144). -/
  fpctl : BitVec 3 := 0
  /-- Issued by the handling thread inside its handler (R249). -/
  hnd : Bool := false
  deriving DecidableEq, Repr

/-- One side of a copy (R204): a place it reads or writes, by record base and space. -/
structure Side where
  /-- `none` is global memory; a team key is its slice. -/
  team : Option Nat
  start : Nat
  deriving DecidableEq, Repr

/-- The shape of a copy (R204). -/
inductive CopyKind where
  | linear
  | rows (row rows srcPitch dstPitch : Nat)
  | gather (elem count idx stride imm extent base : Nat)
  | put (scope : BitVec 3) (counter : Nat)
  deriving DecidableEq, Repr

/-- A copy in a core's issue journal (R203 to R211): its operands as read at issue; the copies `.ord` makes it wait for;
the indices of a gather; the units of 16 bytes read and written or failed (`handled`); where source and destination overlap,
every source unit as read at the start with its failure code (R206); the units written, the failure at the lowest unit, the
lowest unit whose failure stops it; the release of a `COPYREM`, and whether its counter add has been made. -/
structure Copy where
  team : Nat
  tid : Nat
  core : Nat
  pc : Dword
  asid : Nat := 0
  world : World := 0
  ctx : Nat := 0
  vS : BitVec 8
  kind : CopyKind
  src : Side
  dst : Side
  units : Nat
  bar : Option Nat
  after : List Nat := []
  started : Bool := false
  indices : List Nat := []
  snap : List (List Byte × Nat) := []
  handled : List Nat := []
  /-- The 4-byte parts that a unit in progress has moved (R206). -/
  part : Map Nat := []
  written : Nat := 0
  err : Nat := 0
  errUnit : Nat := 0
  stopAt : Option Nat := none
  rel : Option Release := none
  counted : Bool := false
  deriving DecidableEq, Repr

/-- The source of a weight plane (R213). -/
inductive PlaneSrc where
  | empty
  | memory
  | ingot (slot : Nat) (va : Dword) (asid : Nat) (pc : Dword) (sq : Nat)
  deriving DecidableEq, Repr

/-- A weight plane (R213): image bytes that are not 0, format code (31 when empty), captured descriptor, source. The
checksum column is a function of these (R220). -/
structure Plane where
  image : Map Byte := []
  fmt : BitVec 5 := 31
  desc : Word := 0
  src : PlaneSrc := .empty
  deriving DecidableEq, Repr

/-- An accepted engine operation (R222, R223). -/
inductive EngineOp where
  | mswap (sq : Nat)
  | mma (sq : Nat) (pc : Dword) (td ta tc : BitVec 6) (af wf : BitVec 5) (acc : BitVec 2) (p : Bool) (desc : Word)
    (hnd : Bool)
  deriving DecidableEq, Repr

/-- An operation of the engine that has started (R224): its activation tile, its accumulator's tiles and the plane as they stood
then. -/
structure Started where
  op : EngineOp
  ta : Tile
  tc : Tile
  tc1 : Tile
  plane : Plane
  deriving DecidableEq, Repr

/-- A suspect result (R228): the operation, the rounded elements, the mismatch sets, lost operands (R236). -/
structure Suspect where
  op : EngineOp
  out : Map Word
  rows : BitVec 16
  cols : BitVec 256
  lost : Bool := false
  deriving DecidableEq, Repr

/-- A plane fill accepted and not yet ended (R220): squad, PC, ingot slot, addresses of the image's pages in order,
format and captured descriptor; `after` lists the stores its core had accepted before it, which it follows (R176). -/
structure Fill where
  sq : Nat
  pc : Dword
  ing : Option Nat
  va : Dword
  keys : List Nat
  fmt : BitVec 5
  desc : Word
  hnd : Bool := false
  after : List Nat := []
  deriving DecidableEq, Repr

/-- The matrix engine of a core (R213, R214). -/
structure Engine where
  owner : Option Nat := none
  active : Plane := {}
  shadow : Plane := {}
  queue : List EngineOp := []
  started : Option Started := none
  fill : Option Fill := none
  suspect : Option Suspect := none
  deriving DecidableEq, Repr

/-- A line held by a cache (R163, R164, R182): its tag (ASID and virtual line for instruction lines), key, bytes. -/
structure CLine where
  asid : Nat := 0
  va : Nat := 0
  key : Nat
  bytes : List Byte
  /-- The world whose access has filled a line of the remote partition (R33). -/
  world : World := 0
  deriving DecidableEq, Repr

/-- A TLB entry (R155): ASID, virtual page, log2 of its size, leaf. -/
structure Tlb where
  asid : Nat
  page : Nat
  log : Nat
  leaf : Dword
  deriving DecidableEq, Repr

/-- A page request sent to the migration service and its reply (R158, R365): none, resolved or unresolvable. -/
structure PageReq where
  asid : Nat
  va : Dword
  kind : Nat
  reply : Option Bool := none
  /-- 0 for a thread, else the agent that sent it (R365). -/
  agent : Nat := 0
  deriving DecidableEq, Repr

/-- A core (R115): caches and engine. -/
structure Core where
  l1d : List CLine := []
  l1i : List CLine := []
  tlb : List Tlb := []
  engine : Engine := {}
  /-- Fenced by the management firmware (R6). -/
  fenced : Bool := false
  deriving DecidableEq, Repr

/-- An uncorrectable ECC error of on-die storage (R122, R213): the next read of it raises `INTEGRITY` (log 58, DESIGN CHOICE). -/
inductive EccSite where
  | vreg (team tid reg : Nat)
  | pred (team tid : Nat)
  | brec (team n : Nat)
  | fm (team n : Nat)
  /-- A word of 64 bits of a tile: words 0 to 1,023 are data, words 1,024 to 1,087 scales. -/
  | tile (team t word : Nat)
  /-- A block of a thread's loop buffer, by its address: parity. -/
  | loop (team tid va : Nat)
  | plane (core : Nat) (shadow : Bool)
  | suspect (core : Nat)
  | slice (team word : Nat)
  deriving DecidableEq, Repr

/-- A request of an agent off the cores for bytes of another device, and its answer (R15, R34, R70; log 56, DESIGN CHOICE). -/
structure AgentReq where
  agent : Nat
  key : Nat
  op : FabOp
  /-- Which of the agent's accesses it serves, and the world it is made in. -/
  unit : Nat := 0
  world : World := 0
  /-- The ASID and address of a line that a core asks for ahead (R157, R338). -/
  page : Option (Nat × Nat) := none
  res : Option FabricRes := none
  deriving DecidableEq, Repr

/-- The metadata of a line (R41): marks and check values; at reset the check values of zeros (R42). -/
structure LineMeta where
  retracted : Bool := false
  ingot : Bool := false
  poison : Bool := false
  checkHi : BitVec 24 := 0x35749C
  checkLo : BitVec 24 := 0x35749C
  deriving DecidableEq, Repr

/-- An event descriptor (R80). -/
structure EventDesc where
  addr : Dword := 0
  scope : Nat := 0
  intr : Bool := false
  vector : Nat := 0
  deriving DecidableEq, Repr

/-- A stage descriptor (R79). -/
structure StageDesc where
  entry : Dword := 0
  binBase : Dword := 0
  binLog : Nat := 0
  recSize : Nat := 0
  coalesce : Nat := 0
  age : Nat := 0
  spawns : Bool := false
  ev : EventDesc := {}
  deriving DecidableEq, Repr

/-- The dispatcher's copy of a launch record (R77 to R79). -/
structure LaunchRec where
  flat : Bool := false
  teamSq : Nat := 1
  enTeams : Nat := 1
  regs : Nat := 1
  tiles : Nat := 0
  scratch : Nat := 0
  nbar : Nat := 1
  wmark : Nat := 0
  producers : Word := 0
  handler : Dword := 0
  gridx : Nat := 1
  gridy : Nat := 1
  gridz : Nat := 1
  argSize : Nat := 0
  teamEv : EventDesc := {}
  ensEv : EventDesc := {}
  stages : List StageDesc := []
  deriving DecidableEq, Repr

/-- A bin slot that is reserved and not freed (R87, R88): waiting for its record, written, voided, or holding a record
inserted and not delivered, with the dispatcher ticks since its insertion. -/
inductive Slot where
  | reserved
  | written
  | voided
  | inserted (age : Nat)
  deriving DecidableEq, Repr

/-- A stage of a launch (R87 to R92): its bin (slot numbers count from 0 without bound: the insertion point, the next to
reserve, the slots not freed), teams started and resident, completion. -/
structure Stage where
  ins : Nat := 0
  tail : Nat := 0
  slots : Map Slot := []
  order : Nat := 0
  resident : Nat := 0
  done : Bool := false
  /-- The age limit of its bin has expired (R88). -/
  due : Bool := false
  /-- The core that holds the stage's reserved room, and whether a team uses it (R91). -/
  room : Option Nat := none
  roomUsed : Bool := false
  deriving DecidableEq, Repr

/-- An ensemble with the teams still to retire (R92). -/
structure Ens where
  stage : Nat
  en : Nat
  left : Nat
  deriving DecidableEq, Repr

/-- A launch (R70, R77 to R93, R187). `table` is the measured-region table. -/
structure Launch where
  queue : Nat := 0
  pkt : Nat := 0
  fn : Nat := 0
  asid : Nat := 0
  world : World := 0
  prio : Nat := 0
  disp : Nat := 0
  lrec : Dword := 0
  args : Dword := 0
  doneAddr : Dword := 0
  doneAdd : Dword := 0
  doneScope : Nat := 0
  intr : Bool := false
  vector : Nat := 0
  hdr : LaunchRec := {}
  nextEn : Nat := 0
  retired : Nat := 0
  stages : List Stage := []
  enss : Map Ens := []
  deepest : Bool := false
  rooms : Bool := false
  /-- Events of retirements still to be performed, in order (R93). -/
  events : List (EventDesc × Nat × Nat × Nat) := []
  identity : List Byte := List.replicate 48 0
  table : List (Nat × Nat) := []
  deriving DecidableEq, Repr

/-- A packet accepted and not yet started (R68 to R70), with its index. -/
inductive PktBody where
  | nop
  | launch (lrec args doneAddr doneAdd : Dword) (scope : Nat) (intr : Bool) (vector : Nat)
  | wait (addr value : Dword) (scope : Nat)
  | signal (addr value : Dword) (add : Bool) (scope : Nat) (intr : Bool) (vector : Nat)
  deriving DecidableEq, Repr

/-- A packet with its index, sequence number and BARRIER flag (R68, R69, R73); `ready` is the sprue's last evaluation of a `WAIT` (R71), if
any, and `polled` the ticks since. -/
structure Packet where
  idx : Nat
  seq : Nat := 0
  barrier : Bool
  body : PktBody
  ready : Option Bool := none
  polled : Nat := 0
  deriving DecidableEq, Repr

/-- A queue (R58 to R74); `state` is the code of R64. `running` lists started packets not complete. -/
structure Queue where
  fn : Nat := 0
  asid : Nat := 0
  world : World := 0
  auth : Bool := false
  errvec : Nat := 0
  state : Nat := 0
  wridx : Nat := 0
  rdidx : Nat := 0
  doneidx : Nat := 0
  ringBase : Dword := 0
  logSize : Nat := 0
  statusAddr : Dword := 0
  geom : Bool := false
  prio : Nat := 0
  drops : Nat := 0
  erridx : Nat := 0
  errseq : Nat := 0
  expseq : Nat := 0
  key : Option (List Byte) := none
  exhausted : Bool := false
  slot : Option Nat := none
  active : Nat := 0
  notified : Nat := 0
  held : Option Packet := none
  running : List Nat := []
  statusDue : Option Nat := none
  /-- ERRVEC is raised once the status record is written (R64). -/
  errDue : Bool := false
  destroy : Bool := false
  deriving DecidableEq, Repr

/-- The phase of a context (R97 to R114, R57). -/
inductive CtxPhase where | running | draining | drained | freezing | frozen | inDoubt | migrated
  deriving DecidableEq, Repr

/-- What an image holds of a team (R104 to R106, R235): the team, its engine, its unfinished copies. -/
structure Saved where
  key : Nat
  team : Team
  engine : Option Engine
  copies : List (Nat × Copy)
  placed : Bool := false
  deriving DecidableEq, Repr

/-- An entry of the security engine's image table (R54, R55, R107): key handle, SERIAL, chunks as sealed, next chunk
expected by a restore, destination (log 49, DEDUCED). -/
structure Image where
  key : Nat
  serial : Nat
  chunks : List (List Byte) := []
  last : Bool := false
  next : Nat := 0
  staged : Bool := false
  /-- 0 freeze reserve, 1 pod pool, 2 a descriptor's buffer. -/
  place : Nat := 0
  addr : Dword := 0
  size : Nat := 0
  host : Bool := false
  /-- Bytes of payload (log 14, DESIGN CHOICE). -/
  len : Nat := 0
  room : Nat := 0
  /-- Its entry in the pod pool's directory, once it has one (R113). -/
  dir : Option Nat := none
  deriving DecidableEq, Repr

/-- A watch range (R259). -/
structure Watch where
  lo : Nat := 0
  len : Nat := 0
  kind : BitVec 3 := 0
  deriving DecidableEq, Repr

/-- How a pre-emption, a freeze or a forced reset ends (R99, R113): the RESULT, the STAT of its command, and the image that it had. -/
structure Ending where
  result : Nat
  stat : Nat
  image : Option Image := none
  deriving DecidableEq, Repr

/-- A context (R97). -/
structure Ctx where
  phase : CtxPhase := .running
  /-- Ticks of the drain deadline, and elapsed (R101). -/
  deadline : Nat := 0
  elapsed : Nat := 0
  /-- `CTXARG` of the command that drains or freezes it. -/
  desc : Dword := 0
  /-- The function whose `CTXCMD` is busy for it; launches whose blocked ensemble chose it as victim (R100, R111). -/
  cmd : Option Nat := none
  victimOf : List Nat := []
  pod : Bool := false
  saved : List Saved := []
  image : Option Image := none
  resuming : Bool := false
  /-- The RESULT of a forced reset that is due (R114). -/
  resetDue : Option Nat := none
  /-- Its end, until that is written (R99). -/
  ending : Option Ending := none
  /-- The image whose chunks are still to be overwritten with zeros (R114). -/
  wipe : Option Image := none
  /-- Its four watch ranges (R260). -/
  watches : List Watch := [{}, {}, {}, {}]
  /-- Frozen by the firmware for D3hot (R11). -/
  d3 : Bool := false
  /-- The image has been restored; its teams are being placed (R110). -/
  restored : Bool := false
  /-- Restored here from another device, which waits for COMMIT (R56). -/
  migrating : Bool := false
  /-- Boot identifier the destination attested at PREPARE (R57). -/
  destBoot : Option (List Byte) := none
  deriving DecidableEq, Repr

/-- A debugger session of a context (R256, R259). -/
structure Session where
  fn : Nat
  world : World
  stopMask : Word
  deriving DecidableEq, Repr

/-- The RESULT of a debugger command that has acted, until it is written (R257): its world, address and value. -/
structure DbgDue where
  world : World
  va : Nat
  result : Nat
  deriving DecidableEq, Repr

/-- The registers and standing of a function (R28, R31, R58, R98, R157, R254, R256). -/
structure Fn where
  world : World := 0
  locked : Bool := false
  serving : Bool := true
  qcmd : Dword := 0
  ctxcmd : Dword := 0
  ctxarg : Dword := 0
  ptcmd : Dword := 0
  ptarg : Dword := 0
  fltbase : Dword := 0
  fltcfg : Dword := 0x0000600000000000
  fltidx : Dword := 0
  dbgcmd : Dword := 0
  dbgarg : Dword := 0
  dbgDue : Option DbgDue := none
  deriving DecidableEq, Repr

/-- A port (R18 to R20). -/
structure Port where
  world : World := 1
  mode : Nat := 0
  state : Nat := 0
  width : Nat := 0
  fecfix : Nat := 0
  replays : Nat := 0
  checks : Nat := 0
  sendSeq : Nat := 0
  /-- The flits not acknowledged, oldest first, with the operation each carries; the first 1,024 have been sent. -/
  replay : List (Flit × Nat) := []
  /-- The operations sent and not acknowledged by their home (R25, R27). -/
  opens : List Nat := []
  /-- The fences outstanding, oldest first, each with the operations it counts that are not acknowledged (R25). -/
  fences : List (Nat × List Nat) := []
  /-- A Decam switch is at the other end (R25; log 20, DESIGN CHOICE). -/
  switched : Bool := false
  expect : Nat := 0
  /-- A missing flit: requests sent for it and ticks since the last one (R20). -/
  missing : Option (Nat × Nat) := none
  oldest : Nat := 0
  training : Option Nat := none
  /-- The next hop the port reaches, and the lane settings learned (R13, R20). -/
  hop : Nat := 0
  lanes : Nat := 0
  /-- The stores, atomics and copies of each context sent since its previous domain release (R25). -/
  sent : Map (List Nat) := []
  returnWorld : Bool := false
  deriving DecidableEq, Repr

/-- How a device is reached (R20, R22; log 20, DESIGN CHOICE): over Ethernet, the next hop, and the paths there. -/
structure Route where
  eth : Bool := false
  hop : Nat := 0
  paths : Nat := 64
  deriving DecidableEq, Repr

/-- A flush marker in flight (R26): its epoch, its number there, the path it goes down, and how many paths were used. -/
structure Mark where
  epoch : Nat
  num : Nat
  path : Nat
  used : Nat
  deriving DecidableEq, Repr

/-- A transport connection to a destination (R22, R26, R27): operations not acknowledged, packets sprayed since the last system
release, the epoch, the markers in flight, and the age of the failure timeout. -/
structure Conn where
  unacked : List Nat := []
  sprayed : Nat := 0
  epoch : Nat := 0
  marks : List Mark := []
  age : Nat := 0
  deriving DecidableEq, Repr

/-- Markers of one epoch gathered from a source (R26). -/
structure Gather where
  src : Nat
  epoch : Nat
  need : Nat
  have_ : List Nat
  acked : Bool := false
  deriving DecidableEq, Repr

/-- A world-map entry (R32): GEN, STATE, INGOT, WORLD. -/
structure Region where
  gen : Nat := 0
  state : Nat := 0
  ingot : Bool := false
  world : World := 0
  deriving DecidableEq, Repr

/-- An assign command in progress (R35). -/
structure Assign where
  region : Nat
  world : World
  deriving DecidableEq, Repr

/-- A range of lines sealed to a slot (R52). -/
structure Bind where
  start : Nat
  lines : Nat
  first : Nat
  deriving DecidableEq, Repr

/-- An installed key slot (R51, R52). -/
structure KeySlot where
  key : List Byte
  world : World
  marks : List (List Byte)
  digest : List Byte
  binds : List Bind := []
  deriving DecidableEq, Repr

/-- The SPDM connection of a function (R48): how far negotiation has come, the session and its state. -/
structure Spdm where
  version : Bool := false
  caps : Bool := false
  algs : Bool := false
  /-- The session: none, in handshake, established; number of key updates. -/
  session : Option Bool := none
  updates : Nat := 0
  deriving DecidableEq, Repr

/-- A pod command in progress, on the receiving device or on a member (R112). -/
structure Pod where
  deadline : Nat
  space : Nat
  keep : List (Nat × Nat)
  elapsed : Nat := 0
  members : List Nat := []
  reports : List (Nat × Bool) := []
  receiver : Bool := false
  /-- The contexts that this device pre-empts for it, and whether one of them ended in forced reset. -/
  ctxs : List Nat := []
  failed : Bool := false
  begun : Bool := false
  deriving DecidableEq, Repr

/-- A request that a port has delivered and its home slice has not served (R20, R33), with the mark of a failed check (R21). -/
structure InReq where
  port : Nat
  msg : FabMsg
  bad : Bool := false
  deriving DecidableEq, Repr

/-- What PREPARE brings of a context (R56): its world, the image's key, SERIAL and chunks, the policies its planes name by slot and
digest, and the state that the image holds. -/
structure Inbound where
  ctx : Nat
  world : World
  key : Nat
  serial : Nat
  chunks : List (List Byte)
  policies : List (Nat × List Byte)
  launches : List (Nat × Launch)
  saved : List Saved
  watches : List Watch := [{}, {}, {}, {}]
  deriving DecidableEq, Repr

/-- An item that became blocked as the first of its dispatcher (R85): the tick it blocked at, and whether its 10,000 ticks have passed. -/
structure Blocked where
  item : Nat
  since : Nat
  stop : Bool := false
  deriving DecidableEq, Repr

/-- A dispatcher (R76, R84, R85): cluster of its previous placement, and the items that are blocked. -/
structure Disp where
  last : Option Nat := none
  blocked : List Blocked := []
  deriving DecidableEq, Repr

/-- A fault-log record that waits for its page (R255, R365). -/
structure LogDue where
  fn : Nat
  bytes : List Byte
  deriving DecidableEq, Repr

/-- What the device sends across its boundary (R20, R25, R26, R34, R48, R49, R70, R80, R158). -/
inductive Out where
  | msi (fn vector : Nat)
  | completerAbort
  | aer
  | hostData (bytes : List Byte) (poisoned : Bool)
  | flit (port : Nat) (f : Flit)
  | replayRequest (port seq : Nat)
  | packet (port : Nat) (p : EthPacket)
  | marker (dest : Nat) (m : Mark)
  | epochAck (dest epoch : Nat)
  | spdm (fn : Nat) (code : Nat) (status : Nat) (body : List Byte)
  | pageRequest (asid : Nat) (va : Dword) (kind : Nat)
  | podRelay (dev deadline space : Nat) (keep : List (Nat × Nat))
  | report (ok : Bool)
  | prepare (ctx serial chunks : Nat) (key tag : List Byte) (world : World) (policies : List (Nat × List Byte))
  | handover (ctx : Nat) (commit : Bool) (serial : Nat) (tag : List Byte) (dev : Nat) (signature : List Byte)
  deriving DecidableEq, Repr

/-- The power states of R11 and R12. -/
inductive Power where | d0 | d3hot | d3cold | off
  deriving DecidableEq, Repr

/-- A turn of the agenda (log 1, DESIGN CHOICE): a step of the table with the number it concerns; the issue of a squad's next
instruction, or its formation; time (cycles of each compute die's clock, 100 MHz ticks: log 2, DESIGN CHOICE); an error of on-die storage (R122); a write
to memory by a control-core hart, or by the host or another device to its own memory (log 5, DESIGN CHOICE); the move of a page by the migration
service (R191; log 5, DESIGN CHOICE); a failure of IDE at the next transfer of a host line (R29); the failure timeout that the firmware sets (R27); a path
to a destination that fails (R26); bits that cross a direction of a die-to-stack link (R39; log 76, DESIGN CHOICE); what another device sends of a
context that it hands over (R56). -/
inductive Turn where
  | event (i : Instr) (who : Nat)
  | issue (team sq : Nat)
  | regroup (team sq : Nat)
  | time (cycles : List Nat) (ticks : Nat)
  | upset (e : EccSite)
  | outside (w : World) (key : Nat) (bytes : List Byte)
  | move (w : World) (src dst : Nat)
  | ide (key : Nat)
  | lossTimeout (ticks : Nat)
  | pathFail (dest path : Nat)
  | cross (dir bits : Nat)
  | arrive (x : Inbound)
  deriving DecidableEq, Repr

/-- Random bits drawn at boot, by handle (log 8, DESIGN CHOICE): boot identifier, SERIAL start, the twelve link secrets, ingot
wrapping key, root keys of worlds 0 and 1 (log 9, DESIGN CHOICE). -/
structure Boot where
  bootId : Nat := 0
  serial : Nat := 1
  links : Nat := 2
  wrap : Nat := 14
  deriving DecidableEq, Repr

/-- The state of the device. -/
structure State where
  -- package (R5 to R18)
  power : Power := .d0
  /-- The host has asked for D3hot, and the entry waits (R11). -/
  d3wait : Bool := false
  stepping : BitVec 8 := 0
  fuseVersion : Nat := 0
  fuseDebug : Nat := 0
  fuseSecret : Nat := 0
  clocks : List Nat := [700, 700, 700, 700]
  cycles : List Dword := [0, 0, 0, 0]
  ticks : Nat := 0
  fabid : Dword := 0
  pwrcap : Nat := 4000
  draindl : Nat := 1200
  podpool : Dword := 0
  podsize : Dword := 0
  asytolr : List Nat := [256, 256, 256]
  asytolc : List Nat := [16, 16, 16]
  asyinj : List Dword := [0, 0, 0, 0]
  mgmtBase : Nat := 0
  mgmtSize : Nat := 0x100000000
  failTimeout : Nat := 200000000
  ports : Map Port := []
  conns : Map Conn := []
  gathers : List Gather := []
  /-- The IV counters of the pair with each device: sent, received (R40). -/
  pairKeys : Map (Nat × Nat) := []
  /-- The first handle of the pair keys agreed before `FABID.VALID` was set (R40; log 8, DESIGN CHOICE). -/
  pairBase : Nat := 0
  inreqs : List InReq := []
  agentRel : Map Release := []
  routes : Map Route := []
  /-- Requests of agents off the cores to other devices, and their answers (R15, R70). -/
  areqs : Map AgentReq := []
  /-- What the last answer for a line of another device that arrived at a port says (R21, R34, R40). -/
  heard : Map FabricRes := []
  /-- Host lines whose next transfer over the host link fails IDE (R29; log 58, DESIGN CHOICE). -/
  ideBad : List Nat := []
  -- functions, worlds and keys (R28 to R57)
  fns : Map Fn := [(0, { world := 1 })]
  /-- The queue numbers and the ASIDs that the firmware allots to a function (R58): first and number of each; the ranges of an
  unlisted function are those of log 7. -/
  allot : Map ((Nat × Nat) × (Nat × Nat)) := []
  worlds : Map (Nat × Nat) := [(0, (15, 0)), (1, (16, 0))]
  /-- Realms being destroyed whose ports have not drained (R36). -/
  dying : List Nat := []
  wmap : Map Region := []
  assigns : List Assign := []
  linkKeys : Map (Nat × Nat) := []
  /-- The bits that have crossed each direction of a die-to-stack link under its present key (R39). -/
  crossed : Map Nat := []
  meas : Map (List Byte) := []
  boot : Boot := {}
  serials : Nat := 0
  slots : Map KeySlot := []
  spdm : Map Spdm := []
  entropy : Nat := 17
  -- memory (R5, R15, R41, R155 to R164)
  mem : List Host.Cell := []
  lines : Map LineMeta := []
  roots : Map Dword := []
  cores : Map Core := []
  clusterTlb : Map (List Tlb) := []
  remote : List CLine := []
  presence : Map Word := []
  reqs : Map PageReq := []
  logsDue : List LogDue := []
  invalidating : List (Nat × Nat × List Nat) := []
  -- queues, launches, contexts (R58 to R114)
  queues : Map Queue := []
  rotation : Map Nat := []
  disps : List Disp := [{}, {}]
  ties : Map Bool := []
  launches : Map Launch := []
  ctxs : Map Ctx := []
  inbound : List Inbound := []
  pod : Option Pod := none
  /-- The pod pool (R113): the contexts of its directory entries, and the offset of the next image. -/
  poolDir : Map Nat := []
  poolNext : Nat := 4096
  reserveUsed : Nat := 0
  sessions : Map Session := []
  -- teams and what they have in flight (R81, R115 to R126)
  teams : Map Team := []
  flights : Map Flight := []
  copies : Map Copy := []
  ecc : List EccSite := []
  -- the model's own (log 1, log 8, log 16, log 19, DESIGN CHOICE)
  agenda : List Turn := []
  team : Nat := 0
  sq : Nat := 0
  who : Nat := 0
  rr : Nat := 0
  fresh : Nat := 1
  free : Nat := 0
  out : List Out := []
  deriving DecidableEq, Repr

/-- The machine right after reset (log 9, DESIGN CHOICE). -/
def State.reset : State := {}

end Sys2Proof.Machine
end

