-- ==== Sys2Proof/Machine/Regs.lean ====
section
/-!
DEFINITION. Reading and writing what a thread, a squad and a team hold: vector registers with their tags (R120, R121),
predicates, tiles, and the parts of the state by their keys.
-/
namespace Sys2Proof

/-- The bit of a cause (R240): its place in the table. -/
def Cause.bit : Cause → Nat
  | .undefinedOpcode => 0 | .reservedField => 1 | .misland => 2 | .fetchBoundary => 3 | .operandAlign => 4
  | .tagMismatch => 5 | .bounds => 6 | .align => 7 | .world => 8 | .permission => 9 | .pageUnresolved => 10
  | .ingotAccess => 11 | .ingotPolicy => 12 | .retractedCode => 13 | .producerOnly => 14 | .barrierBusy => 15
  | .barrierMisuse => 16 | .assay => 17 | .integrity => 18 | .poison => 19 | .fpInvalid => 20 | .fpDivzero => 21
  | .fpOverflow => 22 | .spawnFault => 23 | .sqsyncMisuse => 24 | .software => 25 | .breakpoint => 26 | .watch => 27
  | .haltRequest => 28

/-- The bit of a cause as a bitmap. -/
def Cause.mask (c : Cause) : Word := 1#32 <<< c.bit

namespace Machine

/-- A vector register with its tag; `v255` reads 0, raw (R120). -/
def Thread.reg (t : Thread) (r : BitVec 8) : VReg := if r = 255 then (0, 0) else t.regs.look (0, 0) r.toNat

/-- Write a vector register with its tag; a write to `v255` is discarded (R120). -/
def Thread.setReg (t : Thread) (r : BitVec 8) (v : Word) (tag : Tag) : Thread :=
  if r = 255 then t else { t with regs := t.regs.store (0, 0) r.toNat (v, tag) }

/-- The 32 bits of a register. -/
def Thread.r32 (t : Thread) (r : BitVec 8) : Word := (t.reg r).1

/-- The 64 bits of a pair: the even register holds bits [31:0] (R121). -/
def Thread.r64 (t : Thread) (r : BitVec 8) : Dword := (t.reg (r + 1)).1 ++ (t.reg r).1

/-- Write a pair, with one tag in both registers (R121). -/
def Thread.set64 (t : Thread) (r : BitVec 8) (v : Dword) (tag : Tag) : Thread :=
  (t.setReg r (v.setWidth 32) tag).setReg (r + 1) ((v >>> 32).setWidth 32) tag

/-- The bits of an operand of 32 or 64 bits. -/
def Thread.bits (t : Thread) (wide : Bool) (r : BitVec 8) : Nat := if wide then (t.r64 r).toNat else (t.r32 r).toNat

/-- Write an operand of 32 or 64 bits. -/
def Thread.setBits (t : Thread) (wide : Bool) (r : BitVec 8) (v : Nat) (tag : Tag) : Thread :=
  if wide then t.set64 r (BitVec.ofNat 64 v) tag else t.setReg r (BitVec.ofNat 32 v) tag

/-- The registers from one up. -/
def Thread.group (t : Thread) (r : BitVec 8) (n : Nat) : List Word :=
  (List.range n).map fun k => t.r32 (r + BitVec.ofNat 8 k)

/-- Write the registers from one up, raw. -/
def Thread.setGroup (t : Thread) (r : BitVec 8) : List Word → Thread
  | [] => t
  | v :: vs => (t.setReg r v 0).setGroup (r + 1) vs

/-- A predicate; `p0` reads true (R120). -/
def Thread.pred (t : Thread) (p : BitVec 3) : Bool := p == 0 || t.preds.getLsbD p.toNat

/-- Write a predicate; a write to `p0` is discarded (R120). -/
def Thread.setPred (t : Thread) (p : BitVec 3) (v : Bool) : Thread :=
  if p = 0 then t
  else { t with preds := if v then t.preds ||| (1#8 <<< p.toNat) else t.preds &&& ~~~(1#8 <<< p.toNat) }

/-- The guard of an instruction (R266). -/
def Thread.guard (t : Thread) (h : Hd) : Bool := t.pred h.pg != h.pn

/-- A squad of a team. -/
def Team.squad (t : Team) (q : Nat) : Squad := t.squads.getD q {}
/-- Replace a squad of a team. -/
def Team.setSquad (t : Team) (q : Nat) (x : Squad) : Team := { t with squads := t.squads.set q x }
/-- A thread of a team, by `%tid`. -/
def Team.thread (t : Team) (tid : Nat) : Thread := t.threads.getD tid {}
/-- Replace a thread of a team. -/
def Team.setThread (t : Team) (tid : Nat) (x : Thread) : Team := { t with threads := t.threads.set tid x }
/-- The lane of a squad: its `%tid` (R82). -/
def tidOf (q ln : Nat) : Nat := 32 * q + ln
/-- A lane of a squad. -/
def Team.lane (t : Team) (q ln : Nat) : Thread := t.thread (tidOf q ln)
/-- Change the threads of a squad by lane. -/
def Team.mapLanes (t : Team) (q : Nat) (lanes : List Nat) (f : Nat → Thread → Thread) : Team :=
  lanes.foldl (fun t ln => t.setThread (tidOf q ln) (f ln (t.lane q ln))) t
/-- The lanes of a squad that have not exited (R94). -/
def Team.live (t : Team) (q : Nat) : List Nat := (List.range 32).filter fun ln => !(t.lane q ln).exited
/-- Every thread of the team has ended (R92). -/
def Team.ended (t : Team) : Bool := t.threads.all (·.exited)
/-- A tile of a team. -/
def Team.tile (t : Team) (k : Nat) : Tile := t.tiles.look {} k
/-- Replace a tile. -/
def Team.setTile (t : Team) (k : Nat) (x : Tile) : Team := { t with tiles := t.tiles.store {} k x }
/-- A buffer record of a team (R120, R150). -/
def Team.brec (t : Team) (n : BitVec 4) : BitVec 256 := t.recs.look 0 n.toNat
/-- Replace a buffer record. -/
def Team.setBrec (t : Team) (n : BitVec 4) (r : BitVec 256) : Team := { t with recs := t.recs.store 0 n.toNat r }
/-- A format descriptor of a team (R129, R133). -/
def Team.fm (t : Team) (k : Nat) : Word := t.fms.look 0 k
/-- A barrier of a team. -/
def Team.bar (t : Team) (n : Nat) : Barrier := t.bars.getD n { valid := false }
/-- Replace a barrier. -/
def Team.setBar (t : Team) (n : Nat) (b : Barrier) : Team := { t with bars := t.bars.set n b }

/-- The handling thread of a team in its handler (R246). -/
def Team.handling (t : Team) : Option (Nat × Nat) :=
  match t.phase with | .handler q ln _ => some (q, ln) | _ => none

/-- A byte of a tile; unlisted bytes are 0 (R120). -/
def Tile.byte (t : Tile) (k : Nat) : Byte := t.data.look 0 k
/-- A scale byte of a tile; unlisted bytes are the unit scale (R217). -/
def Tile.scale (t : Tile) (k : Nat) : Byte := t.scales.look 127 k
/-- Write bytes of a tile. -/
def Tile.store (t : Tile) (k : Nat) (bs : List Byte) : Tile := { t with data := t.data.storeBytes 0 k bs }

/-- A team by its key. -/
def State.tm (s : State) (key : Nat) : Team := s.teams.look {} key
/-- Replace a team. -/
def State.setTm (s : State) (key : Nat) (t : Team) : State := { s with teams := s.teams.put key t }
/-- Change a team. -/
def State.onTm (s : State) (key : Nat) (f : Team → Team) : State := { s with teams := s.teams.update key f }
/-- A core by its number. -/
def State.core (s : State) (c : Nat) : Core := s.cores.look {} c
/-- Replace a core. -/
def State.setCore (s : State) (c : Nat) (x : Core) : State := { s with cores := s.cores.store {} c x }
/-- A launch by its key. -/
def State.launch (s : State) (k : Nat) : Launch := s.launches.look {} k
/-- Replace a launch. -/
def State.setLaunch (s : State) (k : Nat) (l : Launch) : State := { s with launches := s.launches.put k l }
/-- The context number of a launch (R97). -/
def Launch.ctx (l : Launch) : Nat := l.fn * 65536 + l.asid
/-- The launch of a team. -/
def State.launchOf (s : State) (t : Team) : Launch := s.launch t.launch
/-- A context (R97): one that has never been named runs. -/
def State.ctx (s : State) (c : Nat) : Ctx := s.ctxs.look {} c
/-- Replace a context. -/
def State.setCtx (s : State) (c : Nat) (x : Ctx) : State := { s with ctxs := s.ctxs.store {} c x }
/-- A function's registers; a function that has not been named has the reset values, and the open world (log 9, DESIGN CHOICE). -/
def State.fn (s : State) (f : Nat) : Fn := s.fns.look {} f
/-- Replace a function. -/
def State.setFn (s : State) (f : Nat) (x : Fn) : State := { s with fns := s.fns.put f x }
/-- A queue by number, if it exists. -/
def State.queue? (s : State) (q : Nat) : Option Queue := s.queues.find q
/-- Replace a queue. -/
def State.setQueue (s : State) (q : Nat) (x : Queue) : State := { s with queues := s.queues.put q x }
/-- A port. -/
def State.port (s : State) (p : Nat) : Port := s.ports.look {} p
/-- Replace a port. -/
def State.setPort (s : State) (p : Nat) (x : Port) : State := { s with ports := s.ports.store {} p x }
/-- A fresh key. -/
def State.take (s : State) : Nat × State := (s.fresh, { s with fresh := s.fresh + 1 })
/-- Send something across the boundary. -/
def State.send (s : State) (o : Out) : State := { s with out := s.out ++ [o] }
/-- The cycle counter of a core: one per compute die, whose cores share a clock (R8). -/
def State.cycle (s : State) (core : Nat) : Dword := s.cycles.getD (core / 128) 0
/-- The debugger's session of a context. -/
def State.session (s : State) (c : Nat) : Option Session := s.sessions.find c

end Machine
end Sys2Proof
end

