-- ==== Sys2Proof/Machine/Mem.lean ====
section
/-!
DEFINITION. Memory: its cells, the metadata and check values of its lines (R41 to R45), the world map (R32, R33),
the home slice's reads, writes and atomics (R45, R162), translation (R155, R156) and page requests (R158, R365).

An address is a key: a local physical address below 2^44; 2^64 + a host physical address; 2^65 + a fabric address of
another device (R15).
-/
namespace Sys2Proof.Machine

/-- The key of a host physical address. -/
def hostKey (a : Nat) : Nat := 2 ^ 64 + a
/-- The key of a fabric address of another device. -/
def remoteKey (a : Nat) : Nat := 2 ^ 65 + a
/-- The key names local memory: it lies in the local physical address space (R15). -/
def isLocal (key : Nat) : Bool := key < 2 ^ 44
/-- The usable bytes: 120 GB of each of twelve stacks (R1, R5), in whole regions (log 5, DESIGN CHOICE). -/
def usable : Nat := 12 * 120 * 10 ^ 9 / 2 ^ 21 * 2 ^ 21
/-- The stack that holds a local byte and the compute die that owns it, in equal shares of the address space (R5; log 5, DESIGN CHOICE). -/
def stackOf (pa : Nat) : Nat := pa / (usable / 12)
/-- The key names another device's memory. -/
def isRemote (key : Nat) : Bool := 2 ^ 65 ≤ key
/-- What a byte of memory reads as when nothing has written it (log 5, DESIGN CHOICE). -/
def unlisted : Byte := 0
/-- This device's identifier (R16). -/
def State.device (s : State) : Nat := (s.fabid.extractLsb' 0 20).toNat
/-- `FABID.VALID` (R15). -/
def State.fabValid (s : State) : Bool := s.fabid.getLsbD 63
/-- The device a remote key names. -/
def deviceOf (key : Nat) : Nat := (key - 2 ^ 65) / 2 ^ 44

/-- Memory holds its canonical form: addresses rising, no entry equal to what an unlisted address reads as. -/
def Memory.wf (m : List Host.Cell) : Bool := Map.wf unlisted m
/-- One byte of memory. -/
def State.byte (s : State) (key : Nat) : Byte := Map.look unlisted s.mem key
/-- Bytes of memory from a key up. -/
def State.read (s : State) (key n : Nat) : List Byte := Map.bytes unlisted s.mem key n
/-- Write one byte. -/
def State.setByte (s : State) (key : Nat) (b : Byte) : State := { s with mem := Map.store unlisted s.mem key b }
/-- Write bytes at their keys, in order. -/
def State.poke (s : State) : List (Nat × Byte) → State
  | [] => s
  | (k, b) :: cs => (s.setByte k b).poke cs
/-- Bytes from a key up, as cells. -/
def cellsAt (key : Nat) : List Byte → List (Nat × Byte)
  | [] => []
  | b :: bs => (key, b) :: cellsAt (key + 1) bs

/-- One bit of the CRC-24 (R42). -/
def crcBit (c : BitVec 24) : BitVec 24 := if c.getLsbD 23 then (c <<< 1) ^^^ 0x864CFB#24 else c <<< 1
/-- One byte of the CRC-24, most significant bit first. -/
def crcByte (c : BitVec 24) (b : Byte) : BitVec 24 :=
  crcBit (crcBit (crcBit (crcBit (crcBit (crcBit (crcBit (crcBit (c ^^^ (b.setWidth 24 <<< 16)))))))))
/-- The check value of a half-line (R42). -/
def crc24 (bs : List Byte) : BitVec 24 := bs.foldl crcByte 0xB704CE#24

/-- The metadata of a line (R41). -/
def State.line (s : State) (key : Nat) : LineMeta := s.lines.look {} (key / 128)
/-- Replace the metadata of a line. -/
def State.setLine (s : State) (key : Nat) (m : LineMeta) : State := { s with lines := s.lines.store {} (key / 128) m }
/-- The stored check value of the half-line that holds a key. -/
def State.check (s : State) (key : Nat) : BitVec 24 :=
  if key % 128 < 64 then (s.line key).checkLo else (s.line key).checkHi
/-- The half-line that holds a key passes its check (R43). -/
def State.halfOk (s : State) (key : Nat) : Bool := crc24 (s.read (key / 64 * 64) 64) = s.check key
/-- Make the check value of the half-line that holds a key. -/
def State.makeCheck (s : State) (key : Nat) : State :=
  let c := crc24 (s.read (key / 64 * 64) 64)
  let m := s.line key
  s.setLine key (if key % 128 < 64 then { m with checkLo := c } else { m with checkHi := c })
/-- The half-lines that n bytes from a key touch, by their first keys. -/
def halvesOf (key n : Nat) : List Nat := (List.range ((key + n - 1) / 64 + 1 - key / 64)).map fun k => (key / 64 + k) * 64
/-- The lines that n bytes from a key touch, by their first keys. -/
def linesOf (key n : Nat) : List Nat :=
  if n = 0 then [] else (List.range ((key + n - 1) / 128 + 1 - key / 128)).map fun k => (key / 128 + k) * 128

/-- A local address lies in management memory (R32, log 6, DESIGN CHOICE). -/
def State.inMgmt (s : State) (pa : Nat) : Bool := s.mgmtBase ≤ pa && pa < s.mgmtBase + s.mgmtSize
/-- The world-map entry of a region; boot gives management memory world 1 and the rest world 0 (R32, R35). Addresses at and above the
usable capacity name no byte: their regions are retired (R5; log 5, DESIGN CHOICE). -/
def State.region (s : State) (pa : Nat) : Region :=
  if usable ≤ pa then { state := 2 }
  else (s.wmap.find (pa / 2 ^ 21)).getD (if s.inMgmt pa then { world := 1 } else {})
/-- The table of R33. -/
def worldAllowed (w : World) (r : Region) : Bool := r.state == 0 && (r.world == w || (r.world == 0 && w != 0))

/-- A world exists (R36): one that is being destroyed does no longer. -/
def State.exists_ (s : State) (w : World) : Bool := (s.worlds.find w.toNat).isSome && !s.dying.contains w.toNat
/-- The world exists, and the region is open to it (R33, R36). -/
def State.admits (s : State) (w : World) (pa : Nat) : Bool := s.exists_ w && worldAllowed w (s.region pa)

/-- A failed access: its cause and detail (R242). -/
abbrev Fail := Cause × Word

/-- What the fabric's answer means to the requester (R27, R31, R34, R40, R44; log 56, DESIGN CHOICE). -/
def failOf : FabricRes → Option Fail
  | .ok => none
  | .world => some (.world, 2)
  | .lost => some (.integrity, 4)
  | .tagFail => some (.integrity, 5)
  | .checkFail => some (.integrity, 1)
  | .poison => some (.poison, 0)
  | .ingot => some (.ingotAccess, 0)

/-- The outcome of an access to another device (R21, R34, R40; log 56, DESIGN CHOICE): what the answer for its line says that has arrived since
the last request for that line, or else what the step that takes it is told. -/
def State.outcome (s : State) (key : Nat) (res : FabricRes) : FabricRes :=
  if isRemote key then (s.heard.find (key / 128 * 128)).getD res else res

/-- What an access to the host or to another device meets: no agent of a destroyed world reaches anything (R36), and the answer of the
fabric is used by a remote access (log 10, DESIGN CHOICE). -/
def State.far (s : State) (w : World) (key : Nat) (answer : Option Fail) : Option Fail :=
  if !s.exists_ w then some (.world, if isRemote key then 2 else 1) else if isRemote key then answer else none

/-- The checks of a local access that do not depend on the bytes (R33, R52; log 10, DESIGN CHOICE). -/
def State.reach (s : State) (w : World) (key n : Nat) : Option Fail :=
  if (linesOf key n).any fun k => !s.admits w k then some (.world, 1)
  else if (linesOf key n).any fun k => (s.line k).ingot then some (.ingotAccess, 0)
  else none

/-- The checks of a local read: reach, then POISON, then the check values of the half-lines it touches (R44). -/
def State.readable (s : State) (w : World) (key n : Nat) : Option Fail :=
  match s.reach w key n with
  | some e => some e
  | none =>
    if (linesOf key n).any fun k => (s.line k).poison then some (.poison, 0)
    else if (halvesOf key n).any fun k => !s.halfOk k then some (.integrity, 1)
    else none

/-- Read bytes in a world. -/
def State.load (s : State) (w : World) (key n : Nat) (res : FabricRes := .ok) : Except Fail (List Byte) :=
  let bad := if isLocal key then s.readable w key n else s.far w key (failOf (s.outcome key res))
  match bad with
  | some e => .error e
  | none => .ok (s.read key n)

/-- A store's request at the home slice of one local line (R45): a half-line it covers takes a new check value, a line
it covers loses POISON, a half-line merged over a failed check poisons the line. -/
def State.storeLine (s : State) (line : Nat) (cs : List (Nat × Byte)) : State :=
  let touched := [line, line + 64].filter fun h => cs.any fun c => c.1 / 64 * 64 == h
  let whole (h : Nat) := (List.range 64).all fun k => cs.any fun c => c.1 == h + k
  let bad := touched.any fun h => !whole h && !s.halfOk h
  let full := whole line && whole (line + 64)
  let s' := touched.foldl State.makeCheck (s.poke cs)
  let m := s'.line line
  s'.setLine line { m with poison := !full && (m.poison || bad) }

/-- The bytes of a held copy after a write of cells (R163, R164). -/
def CLine.patch (l : CLine) (cs : List (Nat × Byte)) : CLine :=
  { l with bytes := cs.foldl (fun bs c => if c.1 / 128 * 128 == l.key then bs.set (c.1 % 128) c.2 else bs) l.bytes }

/-- Held copies of lines follow a write of cells. -/
def patchLines (cs : List (Nat × Byte)) (ls : List CLine) : List CLine :=
  if ls.any fun l => cs.any fun c => c.1 / 128 * 128 == l.key then ls.map fun l => l.patch cs else ls

/-- Some half-line that a store writes is not written whole (R45). -/
def partialStore (cs : List (Nat × Byte)) : Bool :=
  cs.any fun c => !(List.range 64).all fun k => cs.any fun d => d.1 == c.1 / 64 * 64 + k

/-- A half-line whose data do not match the check value that came with them (R45): the value stored is open, but for its mismatch
(log 19, DESIGN CHOICE). -/
def State.spoilCheck (s : State) (half : Nat) : State :=
  let good := crc24 (s.read half 64)
  let v := BitVec.ofNat 24 (Config.freeValue s.free)
  let v := if v = good then ~~~good else v
  let m := s.line half
  { s.setLine half (if half % 128 < 64 then { m with checkLo := v } else { m with checkHi := v }) with free := s.free + 1 }

/-- Copies of the device's remote partition follow what its accesses have written or read at home, so that no later load of the device returns
an older value (R154, R172; log 66, DEDUCED). -/
def State.follow (s : State) (cs : List (Nat × Byte)) : State := { s with remote := patchLines cs s.remote }
/-- Write bytes of another device or of the host. -/
def State.pokeFar (s : State) (cs : List (Nat × Byte)) : State := (s.poke cs).follow cs

/-- Store bytes in a world, line by line. `checkFail` is the store's own check value failing: it drops a partial write, and a whole
half-line is stored with it (R45). -/
def State.store (s : State) (w : World) (cs : List (Nat × Byte)) (res : FabricRes := .ok) : Except Fail State :=
  match cs with
  | [] => .ok s
  | (k, _) :: _ =>
    if isLocal k then
      match cs.findSome? fun c => s.reach w c.1 1 with
      | some e => .error e
      | none =>
        if res == .checkFail && partialStore cs then .error (.integrity, 3)
        else
          let s := (cs.map fun c => c.1 / 128 * 128).eraseDups.foldl
            (fun s l => s.storeLine l (cs.filter fun c => c.1 / 128 * 128 == l)) s
          .ok (if res == .checkFail then (cs.map fun c => c.1 / 64 * 64).eraseDups.foldl State.spoilCheck s else s)
    else
      let res := s.outcome k res
      match s.far w k (if res == .checkFail then some (.integrity, 3) else failOf res) with
      | some e => .error e
      | none => .ok (s.pokeFar cs)

/-- Two packed 16-bit elements added independently (R162). -/
def addPair (f : Float.Fmt) (a b : Nat) : Nat :=
  let one (x y : Nat) := (f.round .rn false (Float.add false (f.decode x) (f.decode y)).1).1
  one (a % 65536) (b % 65536) + 65536 * one (a / 65536) (b / 65536)

/-- A signed reading of w bits. -/
def signedOf (w v : Nat) : Int := if v < 2 ^ (w - 1) then v else (v : Int) - 2 ^ w

/-- The new value of an atomic (R162). -/
def atomNew (op : AtomOp) (ty : BitVec 6) (old opb : Nat) : Nat :=
  let w := if tyBytes ty = 8 then 64 else 32
  let sg := ty = 1 || ty = 25
  let less (a b : Nat) : Bool := if sg then signedOf w a < signedOf w b else a < b
  match op with
  | .add =>
    if ty = 3 then (Float.f32.round .rn false (Float.add false (Float.f32.decode old) (Float.f32.decode opb)).1).1
    else if ty = 6 then (Float.f64.round .rn false (Float.add false (Float.f64.decode old) (Float.f64.decode opb)).1).1
    else if ty = 10 then addPair Float.f16 old opb
    else if ty = 11 then addPair Float.bf16 old opb
    else (old + opb) % 2 ^ w
  | .min => if less opb old then opb else old
  | .max => if less old opb then opb else old
  | .and => old &&& opb
  | .or => old ||| opb
  | .xor => old ^^^ opb
  | .exch => opb
  | .incw => if opb ≤ old then 0 else old + 1
  | .decw => if old = 0 ∨ opb < old then opb else old - 1

/-- An atomic at the home slice (R45, R162): the old value and the state after it. A change of `none` writes nothing
(a compare that fails). `checkFail` on a local line is the atomic's own check value failing (R330, R333): memory is unchanged. -/
def State.atomic (s : State) (w : World) (key n : Nat) (f : Nat → Option Nat) (res : FabricRes := .ok) :
    Except Fail (Nat × State) :=
  if isLocal key && res == .checkFail && (s.reach w key n).isNone && !(s.line key).poison then .error (.integrity, 3)
  else match s.load w key n res with
  | .error e => .error e
  | .ok bs =>
    let old := ofBytes bs
    match f old with
    | none => .ok (old, if isLocal key then s else s.follow (cellsAt key bs))
    | some v =>
      let cs := cellsAt key (toBytes n v)
      .ok (old, if isLocal key then (s.poke cs).makeCheck key else s.pokeFar cs)

/-- How an access uses a page (R155, R183). -/
inductive Use4 where | load | store | atomic | fetch
  deriving DecidableEq, Repr

/-- The code of a use in a page request. -/
def Use4.code : Use4 → Nat | .load => 0 | .store => 1 | .atomic => 2 | .fetch => 3

/-- The outcome of a walk: a leaf with log2 of its page size, an absent entry, or a failure (R155). -/
inductive Walk where
  | leaf (e : Dword) (log : Nat)
  | absent
  | fail (f : Fail)
  deriving DecidableEq, Repr

/-- The index of an address in a table of a level, and log2 of what an entry maps (R156). -/
def levelIndex (level va : Nat) : Nat :=
  match level with | 5 => va / 2 ^ 48 % 512 | 4 => va / 2 ^ 39 % 512 | 3 => va / 2 ^ 30 % 512
                   | 2 => va / 2 ^ 21 % 512 | _ => va / 2 ^ 16 % 32
/-- Log2 of the page a leaf of a level maps. -/
def levelLog (level : Nat) : Nat := match level with | 3 => 30 | 2 => 21 | _ => 16

/-- A leaf entry is well formed at its level (R155, R156). -/
def leafOk (level : Nat) (e : Dword) : Bool :=
  1 ≤ level && level ≤ 3 && e.extractLsb' 9 7 == 0 && e.extractLsb' 1 2 == 0
    && (e.toNat / 2 ^ 16) % 2 ^ (levelLog level - 16) == 0
/-- A table entry is well formed at its level (R156). -/
def tableOk (level : Nat) (e : Dword) : Bool :=
  2 ≤ level && e.extractLsb' 44 20 == 0 && e.extractLsb' 1 6 == 0 && (level == 2 || e.extractLsb' 8 4 == 0)

/-- The walk from a table of a level down (R155, R156). -/
def State.walk (s : State) (w : World) (va : Nat) : Nat → Nat → Walk
  | 0, _ => .fail (.pageUnresolved, 2)
  | level + 1, table =>
    match s.load w (table + 8 * levelIndex (level + 1) va) 8 with
    | .error e => .fail e
    | .ok bs =>
      let e : Dword := BitVec.ofNat 64 (ofBytes bs)
      if !e.getLsbD 0 then .absent
      else if e.getLsbD 7 then
        (if leafOk (level + 1) e then .leaf e (levelLog (level + 1)) else .fail (.pageUnresolved, 2))
      else if tableOk (level + 1) e then s.walk w va level ((e.extractLsb' 8 36).toNat * 256)
      else .fail (.pageUnresolved, 2)

/-- The walk of an address in an ASID (R155, R157); an address of more than 57 bits has no translation (log 37, DEDUCED). -/
def State.walkIn (s : State) (w : World) (asid va : Nat) : Walk :=
  if 2 ^ 57 ≤ va then .fail (.pageUnresolved, 2)
  else match s.roots.find asid with
  | none => .fail (.pageUnresolved, 2)
  | some r => s.walk w va 5 r.toNat

/-- The key an address has through a leaf (R15, R156). -/
def State.keyOf (s : State) (e : Dword) (log va : Nat) : Nat :=
  let a := e.toNat / 2 ^ 16 * 2 ^ 16 + va % 2 ^ log
  if e.getLsbD 8 then hostKey a
  else if a / 2 ^ 44 = s.device then a % 2 ^ 44 else remoteKey a

/-- The leaf grants the use (R155, R183). -/
def grants (e : Dword) : Use4 → Bool
  | .load => e.getLsbD 4
  | .store => e.getLsbD 5
  | .atomic => e.getLsbD 4 && e.getLsbD 5
  | .fetch => e.getLsbD 6

/-- The entry of a TLB that covers an address. -/
def tlbFind (t : List Tlb) (asid va : Nat) : Option Tlb := t.find? fun e => e.asid == asid && e.page == va / 2 ^ e.log
/-- Enter a translation, dropping the oldest beyond the capacity (R155, log 11, DESIGN CHOICE). -/
def tlbAdd (cap : Nat) (e : Tlb) (t : List Tlb) : List Tlb := (e :: t).take cap

/-- The outcome of a translation for an agent: a key with its leaf, a page fault, or a failure. -/
inductive Xlat where
  | ok (key : Nat) (leaf : Dword)
  | absent
  | fail (f : Fail)
  deriving DecidableEq, Repr

/-- A leaf used by an access (R155): the right is checked, PERMISSION detail 2. -/
def State.useLeaf (s : State) (e : Dword) (log va : Nat) (u : Use4) : Xlat :=
  if grants e u then .ok (s.keyOf e log va) e else .fail (.permission, 2)

/-- Translate for a core, through its L1 TLB, its cluster's TLB and the walker (R155). -/
def State.translate (s : State) (c : Nat) (w : World) (asid va : Nat) (u : Use4) : Xlat × State :=
  let l1 := (s.core c).tlb
  let l2 := s.clusterTlb.look [] (c / 16)
  match tlbFind l1 asid va with
  | some t => (s.useLeaf t.leaf t.log va u, s)
  | none =>
    let fill (t : Tlb) (s : State) : State := s.setCore c { s.core c with tlb := tlbAdd 1024 t l1 }
    match tlbFind l2 asid va with
    | some t => (s.useLeaf t.leaf t.log va u, fill t s)
    | none =>
      match s.walkIn w asid va with
      | .fail f => (.fail f, s)
      | .absent => (.absent, s)
      | .leaf e log =>
        let t : Tlb := { asid, page := va / 2 ^ log, log, leaf := e }
        let s' := { s with clusterTlb := s.clusterTlb.put (c / 16) (tlbAdd 16384 t l2) }
        (s.useLeaf e log va u, fill t s')

/-- Send a page request to the migration service (R158). -/
def State.pageReq (s : State) (asid : Nat) (va : Dword) (u : Use4) (agent : Nat := 0) : Nat × State :=
  let (k, s) := s.take
  (k, { s with reqs := s.reqs.put k { asid, va, kind := u.code, agent } }.send (.pageRequest asid va u.code))

end Sys2Proof.Machine
end

