-- ==== Sys2Proof/Machine/Fabric.lean ====
section
/-!
DEFINITION. What this device sends on its ports (R15, R18 to R27, R40): flits and packets, their protection, requests and their
route, and the parts of a release: the stores it waits for, its fence flits and its flush markers.
-/
namespace Sys2Proof.Machine

/-- A port carries traffic of its mode (R18). -/
def Port.up (p : Port) : Bool := p.state == 2 || p.state == 3

/-- One bit of the CRC-64 of a flit (R19). -/
def crc64Bit (c : BitVec 64) : BitVec 64 := if c.getLsbD 63 then (c <<< 1) ^^^ 0x42F0E1EBA9EA3693#64 else c <<< 1
/-- One byte of the CRC-64, most significant bit first. -/
def crc64Byte (c : BitVec 64) (b : Byte) : BitVec 64 :=
  crc64Bit (crc64Bit (crc64Bit (crc64Bit (crc64Bit (crc64Bit (crc64Bit (crc64Bit (c ^^^ (b.setWidth 64 <<< 56)))))))))
/-- The CRC-64 of bytes, from an initial value of 0 (R19; log 15, DESIGN CHOICE). -/
def crc64 (bs : List Byte) : BitVec 64 := bs.foldl crc64Byte 0

/-- Bytes filled up with zeros to a length. -/
def padTo (n : Nat) (bs : List Byte) : List Byte := (bs ++ List.replicate (n - bs.length) 0).take n

/-- Multiplication in the field of the FEC (R19; log 15, DESIGN CHOICE). -/
def fecMul (a b : Byte) : Byte :=
  ((List.range 8).foldl (fun (p : Byte × Byte) k =>
    (if b.getLsbD k then p.1 ^^^ p.2 else p.1, if p.2.getLsbD 7 then (p.2 <<< 1) ^^^ 0x1D else p.2 <<< 1)) (0, a)).1
/-- Multiply a polynomial, highest coefficient first, by x + r. -/
def fecTimes (g : List Byte) (r : Byte) : List Byte := List.zipWith (· ^^^ ·) (g ++ [0]) (0 :: g.map (fecMul r))
/-- The generator of a code of 8 parity symbols. -/
def fecGen : List Byte := ((List.range 8).foldl (fun (p : List Byte × Byte) _ => (fecTimes p.1 p.2, fecMul 2 p.2)) ([1], 1)).1
/-- The parity symbols of a codeword: the remainder of its 120 data symbols. -/
def fecParity (data : List Byte) : List Byte :=
  data.foldl (fun r d => let q := d ^^^ r.headD 0; List.zipWith (· ^^^ ·) (r.drop 1 ++ [0]) ((fecGen.drop 1).map (fecMul q)))
    (List.replicate 8 0)
/-- Every second byte. -/
def everySecond : List Byte → List Byte
  | a :: _ :: bs => a :: everySecond bs
  | l => l
/-- Two lists of bytes interleaved. -/
def interleave : List Byte → List Byte → List Byte
  | a :: as, b :: bs => a :: b :: interleave as bs
  | _, _ => []
end Sys2Proof.Machine

namespace Sys2Proof
open Sys2Proof.Machine

/-- The code of an operation and its width in the header slot (log 15, DESIGN CHOICE). -/
def FabOp.code : FabOp → Nat × Nat
  | .load n => (0, n)
  | .store => (1, 0)
  | .atomic o ty => (2 + (match o with
      | .add => 0 | .min => 1 | .max => 2 | .and => 3 | .or => 4 | .xor => 5 | .exch => 6 | .incw => 7 | .decw => 8), ty.toNat)
  | .cas ty => (11, ty.toNat)
  | .answer r => (16 + (match r with
      | .ok => 0 | .world => 1 | .lost => 2 | .tagFail => 3 | .checkFail => 4 | .poison => 5 | .ingot => 6), 0)

/-- The header slot of a message but for the tag in its spare bytes (R19; log 15, DESIGN CHOICE). -/
def FabMsg.header (m : FabMsg) : List Byte :=
  toBytes 8 m.addr.toNat ++ toBytes 1 m.world.toNat ++ toBytes 1 (m.op.code.1 + 32 * m.scope) ++ toBytes 1 m.op.code.2
    ++ toBytes 3 m.checkLo.toNat ++ toBytes 3 m.checkHi.toNat ++ toBytes 3 m.src.toNat

/-- The slots of a message (R19): its header with the tag, and its data. -/
def FabMsg.bytes (m : FabMsg) : List Byte :=
  padTo 32 (m.header ++ m.tag) ++ padTo (32 * ((m.data.length + 31) / 32)) m.data

/-- The key of the line that a message concerns, as its requester names it. -/
def FabMsg.line (m : FabMsg) : Nat := 2 ^ 65 + m.addr.toNat / 128 * 128

/-- The bits of a number of flags, as bytes. -/
def flagBytes (n : Nat) (f : Nat → Bool) : List Byte :=
  (List.range n).map fun j => BitVec.ofNat 8 ((List.range 8).foldl (fun a b => if f (8 * j + b) then a + 2 ^ b else a) 0)

/-- The data slots of a store to a line (R19): the line, with zeros where nothing is stored; where it does not store all of it, a slot with a
mask of the bytes it stores follows (log 15, DESIGN CHOICE). -/
def storeSlots (line : Nat) (cells : List (Nat × Byte)) : List Byte :=
  let at_ (k : Nat) : Option Byte := (cells.reverse.find? fun c => c.1 == line + k).map (·.2)
  (List.range 128).map (fun k => (at_ k).getD 0)
    ++ if (List.range 128).all fun k => (at_ k).isSome then [] else flagBytes 16 fun k => (at_ k).isSome

/-- A message of a store carries a byte of its line (log 15, DESIGN CHOICE). -/
def FabMsg.carries (m : FabMsg) (k : Nat) : Bool :=
  decide (k < m.data.length) && decide (k < 128) && (m.data.length ≤ 128 || (m.data.getD (128 + k / 8) 0).getLsbD (k % 8))
/-- The bytes that a message of a store carries, by their places in the line. -/
def FabMsg.cells (m : FabMsg) : List (Nat × Byte) :=
  ((List.range 128).filter m.carries).map fun k => (k, m.data.getD k 0)

/-- The data slots of an atomic (R19, R153): for each lane the offset in the line and its operands of n bytes (log 15, DESIGN CHOICE). -/
def operandSlots (n : Nat) (lanes : List (Nat × List Dword)) : List Byte :=
  lanes.flatMap fun l => toBytes 1 l.1 ++ l.2.flatMap fun v => toBytes n v.toNat
/-- The lanes of an atomic in its data slots: `count` operands of n bytes each. The first argument bounds their number. -/
def operandsOf (n count : Nat) : Nat → List Byte → List (Nat × List Nat)
  | 0, _ => []
  | fuel + 1, bs =>
    if bs.length < 1 + n * count then []
    else (ofBytes (bs.take 1), (List.range count).map fun j => ofBytes ((bs.drop (1 + n * j)).take n))
      :: operandsOf n count fuel (bs.drop (1 + n * count))

/-- The code of a kind of flit, and the count a fence carries (log 15, DESIGN CHOICE). -/
def FlitKind.code : FlitKind → Nat × Nat
  | .traffic => (0, 0) | .fence n => (1, n) | .idle => (2, 0) | .training => (3, 0) | .management => (4, 0)

/-- Bytes 0x00 to 0xE7 of a flit (R19): the header and the seven slots. -/
def Flit.body (f : Flit) : List Byte :=
  toBytes 1 f.kind.code.1 ++ toBytes 2 f.seq.toNat ++ toBytes 2 f.ack.toNat ++ toBytes 1 f.credit.toNat ++ toBytes 2 f.kind.code.2
    ++ padTo 224 ((f.msgs.flatMap FabMsg.bytes).drop (224 * f.part))

/-- The slots of the messages of a flit. -/
def Flit.slots (f : Flit) : Nat := (f.msgs.map FabMsg.slots).sum
/-- The CRC of a flit holds, and it carries slots of its messages where it has any (R19). -/
def Flit.whole (f : Flit) : Bool := f.crc == crc64 f.body && (f.msgs.isEmpty || decide (7 * f.part < f.slots))
/-- The flit is the last of its messages (log 15, DESIGN CHOICE). -/
def Flit.ends (f : Flit) : Bool := decide (f.slots ≤ 7 * (f.part + 1))

/-- The 256 bytes of a flit (R19): even bytes form one codeword, odd bytes the other. -/
def Flit.wire (f : Flit) : List Byte :=
  let d := f.body ++ (toBytes 8 f.crc.toNat)
  d ++ interleave (fecParity (everySecond d)) (fecParity (everySecond (d.drop 1)))

end Sys2Proof

namespace Sys2Proof.Machine

/-- The FEC can correct a flit whose bytes at these places are wrong (R19): at most four in each codeword. -/
def fecCorrects (errs : List (Nat × Byte)) : Bool :=
  let bad := (errs.filter fun e => e.2 != 0 && decide (e.1 < 256)).map (·.1) |>.eraseDups
  decide ((bad.filter fun k => k % 2 == 0).length ≤ 4) && decide ((bad.filter fun k => k % 2 == 1).length ≤ 4)

/-- The check values that data slots carry (R19, R21): of the two halves of a line, filled up with zeros (log 15, DESIGN CHOICE). -/
def carried (data : List Byte) : BitVec 24 × BitVec 24 := (crc24 (padTo 64 data), crc24 (padTo 64 (data.drop 64)))

/-- The channel to a device whose key protects a message of a port: of the pair (R40), or of the Transport Security Sublayer (R22). -/
def channel (p : Port) (dev : Nat) : Nat := if p.mode = 2 then 2 ^ 20 + dev else dev
/-- The key of a channel (R22, R40; log 8, DESIGN CHOICE). -/
def State.pairKey (s : State) (ch : Nat) : List Byte := toBytes 32 (Config.random (s.pairBase + ch))
/-- The IV of protected traffic (R40): the source device, then the counter of the pair and direction. -/
def pairIv (src : BitVec 20) (ctr : BitVec 76) : List Byte := beBytes 12 (src.toNat * 2 ^ 76 + ctr.toNat)

/-- Protect a message on a channel (R22, R40): its data slots are encrypted, its header is authenticated, and it takes the next IV of the
channel. -/
def State.protect (s : State) (ch : Nat) (m : FabMsg) : FabMsg × State :=
  let (tx, rx) := s.pairKeys.look (0, 0) ch
  let ctr := BitVec.ofNat 76 tx
  let (c, t) := gcmSeal (s.pairKey ch) (pairIv m.src ctr) m.header m.data
  ({ m with data := c, ctr, tag := t.take 12 }, { s with pairKeys := s.pairKeys.put ch (tx + 1, rx) })

/-- The tag of a message that came on a channel verifies, and its data in plain (R22, R40). -/
def State.unprotect (s : State) (ch : Nat) (m : FabMsg) : Option FabMsg :=
  let (p, t) := gcmOpen (s.pairKey ch) (pairIv m.src m.ctr) m.header m.data
  if t.take 12 = m.tag then some { m with data := p } else none

/-- Traffic of this port's mode and of this world is protected by the pair's key (R40). -/
def guarded (p : Port) (w : World) : Bool := p.mode == 1 && w != 0
/-- A message of this port and of this world leaves protected (R22, R40; log 77, DESIGN CHOICE). -/
def shielded (p : Port) (w : World) : Bool := p.mode == 2 || guarded p w

/-- The port a request to a device leaves on: the lowest-numbered one that is up, of the device's mode and next hop
(log 20, DESIGN CHOICE). -/
def State.portFor (s : State) (dev : Nat) : Option Nat :=
  let r := s.routes.look {} dev
  (List.range 36).find? fun k => let p := s.port k; p.up && p.mode == (if r.eth then 2 else 1) && p.hop == r.hop

/-- The device lies in this device's domain (R22, R25): it is reached over Decam links (log 20, DESIGN CHOICE). -/
def State.sameDomain (s : State) (dev : Nat) : Bool := !(s.routes.look {} dev).eth

/-- A port carries traffic other than training (R17, R36): flits, operations or fences that are not acknowledged, requests not served, and in
Ethernet mode packets or markers that are not. -/
def State.busyPort (s : State) (k : Nat) : Bool :=
  let p := s.port k
  !p.replay.isEmpty || !p.opens.isEmpty || !p.fences.isEmpty || (s.inreqs.any fun r => r.port == k)
    || (p.mode == 2 && s.conns.any fun c => !c.2.unacked.isEmpty || !c.2.marks.isEmpty)

/-- The flits a port may have outstanding (R20). -/
def replayRoom : Nat := 1024

/-- A flit of a port with its next numbers (R19, R20); its credit return is 0 (log 15, DESIGN CHOICE). -/
def Port.flit (p : Port) (kind : FlitKind) (msgs : List FabMsg) (part : Nat := 0) : Flit :=
  let f : Flit := { kind, seq := BitVec.ofNat 12 p.sendSeq, ack := BitVec.ofNat 12 (p.expect + 4095), msgs, part, crc := 0 }
  { f with crc := crc64 f.body }

/-- Put a flit of an operation in a port's replay buffer and, where the buffer's room allows, send it (R19, R20); later flits wait for
acknowledgements. -/
def State.sendFlit (s : State) (k : Nat) (kind : FlitKind) (msgs : List FabMsg) (tag : Nat) (part : Nat := 0) : State :=
  let p := s.port k
  let f := p.flit kind msgs part
  let s := s.setPort k { p with sendSeq := (p.sendSeq + 1) % 4096, replay := p.replay ++ [(f, tag)]
                                oldest := if p.replay.isEmpty then 0 else p.oldest }
  if p.replay.length < replayRoom then s.send (.flit k f) else s

/-- A flit that acknowledges what has arrived and carries nothing else; it takes no sequence number (R20; log 15, DESIGN CHOICE). -/
def State.sendAck (s : State) (k : Nat) : State := s.send (.flit k ((s.port k).flit .idle []))

/-- Send a message on a port to a device (R15, R19, R22, R23, R40): in as many flits as its slots take, or in a packet sprayed over the paths
of its destination (log 15, DESIGN CHOICE; log 20, DESIGN CHOICE). -/
def State.sendMsg (s : State) (k dev : Nat) (m : FabMsg) (tag : Nat) : State :=
  let p := s.port k
  let (m, s) := if shielded p m.world then s.protect (channel p dev) m else (m, s)
  if p.mode = 2 then
    let c := s.conns.look {} dev
    let path := c.sprayed % max 1 (min 64 (s.routes.look {} dev).paths)
    ({ s with conns := s.conns.put dev { c with sprayed := c.sprayed + 1 } } : State).send (.packet k { dest := dev, path, msg := m })
  else (List.range ((m.slots + 6) / 7)).foldl (fun s j => s.sendFlit k .traffic [m] tag j) s

/-- Send a request of a context to another device: it fails without a route (R15, R20, R27) and at a port of another
world (R31). `writes` are counted for releases (R25, R26). The failure timeout of a connection counts from the last request sent on it
(R27; log 65, DESIGN CHOICE). -/
def State.sendReq (s : State) (ctx : Nat) (dev : Nat) (m : FabMsg) (writes : Bool) (tag : Nat) : Except Fail State :=
  if !s.fabValid then .error (.integrity, 4)
  else match s.portFor dev with
  | none => .error (.integrity, 4)
  | some k =>
    let p := s.port k
    if p.world != 1 && p.world != m.world then .error (.world, 2)
    else
      let s := ({ s with heard := s.heard.del m.line } : State).setPort k
        { p with sent := if writes && p.mode == 1 then p.sent.put ctx (p.sent.look [] ctx ++ [tag]) else p.sent
                 opens := if p.opens.contains tag then p.opens else p.opens ++ [tag] }
      let s : State := if p.mode != 2 then s else
        (let c := s.conns.look {} dev
         { s with conns := s.conns.put dev { c with unacked := c.unacked ++ [tag], age := 0 } })
      .ok (s.sendMsg k dev m tag)

/-- Every request of an operation has been acknowledged by its home (R25, R26, R27). -/
def State.acked (s : State) (tag : Nat) : State :=
  { s with
    conns := s.conns.map fun (d, c) => (d, { c with unacked := c.unacked.filter (· != tag) })
    ports := s.ports.map fun (k, p) => (k, { p with opens := p.opens.filter (· != tag)
                                                    fences := p.fences.map fun f => (f.1, f.2.filter (· != tag)) }) }

/-- The operation writes memory. -/
def Flight.writes (f : Flight) : Bool :=
  match f.op with | .store .. | .atomic .. | .cas .. | .tst .. => true | _ => false
/-- Some access of the operation has not performed. -/
def Flight.pending (f : Flight) : Bool := f.lanes.any fun l => !l.performed

/-- The stores and atomics that the memory unit of a core has accepted and that have not performed (R163, R172). -/
def State.storesOf (s : State) (core : Nat) : List Nat :=
  (s.flights.filter fun f => f.2.core == core && f.2.writes && f.2.pending).map (·.1)

/-- Begin a release at a scope, of a context, by an agent of a core (R163) or by an agent off the cores. -/
def State.startRelease (s : State) (core : Option Nat) (ctx scope : Nat) : Release × State :=
  let (id, s) := s.take
  let stores := match core with | some c => if 2 ≤ scope then s.storesOf c else [] | none => []
  ({ id, scope, ctx, stores }, s)

/-- Change every release that has not performed, wherever it is held. -/
def State.mapReleases (s : State) (f : Release → Release) : State :=
  { s with
    teams := s.teams.map fun (k, t) => (k, { t with threads := t.threads.map fun th => { th with rel := th.rel.map f } })
    flights := s.flights.map fun (k, x) => (k, { x with rel := x.rel.map f })
    copies := s.copies.map fun (k, x) => (k, { x with rel := x.rel.map f })
    agentRel := s.agentRel.map fun (k, r) => (k, f r) }

/-- Every release that has not performed. -/
def State.releases (s : State) : List Release :=
  (s.teams.flatMap fun t => t.2.threads.filterMap (·.rel)) ++ s.flights.filterMap (·.2.rel)
    ++ s.copies.filterMap (·.2.rel) ++ s.agentRel.map (·.2)

/-- Send the fence flits of a domain release, each with the port's count, and join those its context still waits for (R25, R172). Packets of
Ethernet-mode ports leave the domain and are covered by flush markers alone (log 20, DESIGN CHOICE). -/
def State.sendFences (s : State) (r : Release) : Release × State :=
  let ks := (List.range 36).filter fun k => !((s.port k).sent.look [] r.ctx).isEmpty
  let old := (s.releases.filter fun x => x.ctx == r.ctx).flatMap (·.ports)
  let (n, s) := s.take
  let s' := ks.foldl (fun s k =>
    let p := s.port k
    let sent := p.sent.look [] r.ctx
    let s := s.setPort k { p with sent := p.sent.del r.ctx, fences := p.fences ++ [(n, sent.eraseDups.filter p.opens.contains)] }
    s.sendFlit k (.fence sent.length) [] n) s
  ({ r with ports := (ks.map fun k => (k, n)) ++ old, stage := 1 }, s')

/-- Send the flush markers of a system release, down every path of each destination sprayed since the last, and join those
still waited for (R26). -/
def State.sendMarkers (s : State) (r : Release) : Release × State :=
  let ds := (s.conns.filter fun c => c.2.sprayed != 0).map (·.1)
  let old := s.releases.flatMap (·.dests)
  let s' := ds.foldl (fun s d =>
    let c := s.conns.look {} d
    let used := min c.sprayed (max 1 (min 64 (s.routes.look {} d).paths))
    let marks : List Mark := (List.range used).map fun k => { epoch := c.epoch + 1, num := k, path := k, used }
    let s := marks.foldl (fun s m => s.send (.marker d m)) s
    { s with conns := s.conns.put d { c with sprayed := 0, epoch := c.epoch + 1, marks := c.marks ++ marks } }) s
  ({ r with dests := (ds.map fun d => (d, (s'.conns.look {} d).epoch)) ++ old, stage := 2 }, s')

/-- The release has performed (R25, R26, R163). -/
def Release.done (r : Release) : Bool :=
  !r.lost && r.stores.isEmpty
    && (r.scope < 4 || (1 ≤ r.stage && r.ports.isEmpty && (r.scope < 5 || (r.stage == 2 && r.dests.isEmpty))))

/-- Carry a release as far as it can go. -/
def State.pumpRelease (s : State) (r : Release) : Release × State :=
  let r := { r with stores := r.stores.filter fun k => match s.flights.find k with | some f => f.pending | none => false }
  if !r.stores.isEmpty then (r, s)
  else
    let (r, s) := if 4 ≤ r.scope && r.stage == 0 then s.sendFences r else (r, s)
    if r.scope = 5 && r.stage == 1 && r.ports.isEmpty then s.sendMarkers r else (r, s)

end Sys2Proof.Machine
end

