-- ==== Sys2Proof/Machine/Agents.lean ====
section
/-!
DEFINITION. The accesses of agents off the cores (R15, R29, R365): their translation, their requests to other devices, what they read and
write, and the releases they make (R25, R26).
-/
namespace Sys2Proof.Machine

/-- The outcome of an agent's access: a value, a wait for the migration service, or a failure (R365). -/
inductive Agent (α : Type) where
  | ok (a : α)
  | wait
  | fail (f : Fail)

/-- What an agent off the cores does when it translates (R365). -/
inductive AgentKind where | log | status | ring | packet | done | bin | copy | image | debug | fill | code | move
  deriving DecidableEq, Repr

/-- The number of an agent: its kind, and the function, queue, launch, copy, context, core or thread it serves; 0 is no agent. -/
def agentNum (k : AgentKind) (id : Nat) : Nat :=
  16 * id + (match k with
    | .log => 1 | .status => 2 | .ring => 3 | .packet => 4 | .done => 5 | .bin => 6 | .copy => 7 | .image => 8 | .debug => 9
    | .fill => 10 | .code => 11 | .move => 12)

/-- The agent that measures for a thread (R187), of a team and its thread. -/
def codeAgent (team tid : Nat) : Nat := agentNum .code (1024 * team + tid)

/-- An agent's answered or pending request for a page. -/
def State.agentReq (s : State) (agent asid va : Nat) : Option (Nat × PageReq) :=
  s.reqs.find? fun r => r.2.agent == agent && r.2.asid == asid && r.2.va.toNat / 65536 == va / 65536

/-- Translate for an agent other than a thread (R365): an absent leaf is requested from the migration service, and the
agent waits for its reply (log 37, DEDUCED). -/
def State.agentXlat (s : State) (agent : Nat) (w : World) (asid va : Nat) (u : Use4) : Agent Nat × State :=
  let ask (s : State) : Agent Nat × State :=
    match s.walkIn w asid va with
    | .fail f => (.fail f, s)
    | .leaf e log => (match s.useLeaf e log va u with | .ok k _ => .ok k | .fail f => .fail f | .absent => .wait, s)
    | .absent => (.wait, (s.pageReq asid (BitVec.ofNat 64 va) u agent).2)
  match s.agentReq agent asid va with
  | none => ask s
  | some (k, r) =>
    match r.reply with
    | none => (.wait, s)
    | some true => ask { s with reqs := s.reqs.del k }
    | some false => (.fail (.pageUnresolved, 1), { s with reqs := s.reqs.del k })

/-- The pieces of n bytes from an address that lie in one 64 KiB page each: address and length. -/
def pagesOf (va n : Nat) : List (Nat × Nat) :=
  (List.range ((va + n - 1) / 65536 + 1 - va / 65536)).map fun k =>
    let lo := max va ((va / 65536 + k) * 65536)
    (lo, min (va + n) ((va / 65536 + k + 1) * 65536) - lo)

/-- Translate every piece of a range for an agent. -/
def State.agentKeys (s : State) (agent : Nat) (w : World) (asid : Nat) (u : Use4) :
    List (Nat × Nat) → Agent (List (Nat × Nat)) × State
  | [] => (.ok [], s)
  | (va, n) :: ps =>
    match s.agentXlat agent w asid va u with
    | (.wait, s) => (.wait, s)
    | (.fail f, s) => (.fail f, s)
    | (.ok k, s) =>
      match s.agentKeys agent w asid u ps with
      | (.ok ks, s) => (.ok ((k, n) :: ks), s)
      | r => r

/-- The function an agent serves, by its kind and number. -/
def State.agentFn (s : State) (agent : Nat) : Nat :=
  let id := agent / 16
  match agent % 16 with
  | 1 => id
  | 2 | 3 | 4 => ((s.queue? id).getD {}).fn
  | 5 | 6 => (s.launch id).fn
  | 7 => (s.copies.look { team := 0, tid := 0, core := 0, pc := 0, vS := 0, kind := .linear, src := ⟨none, 0⟩, dst := ⟨none, 0⟩,
                          units := 0, bar := none } id).ctx / 65536
  | 10 => (s.launchOf (s.tm ((s.core id).engine.owner.getD 0))).ctx / 65536
  | 11 => (s.launchOf (s.tm (id / 1024))).ctx / 65536
  | 12 => 0
  | _ => id / 65536

/-- A piece of an agent's access: its key and length, its operation, the data it stores or adds, its scope, and which of the agent's
accesses it serves. -/
structure AgentPart where
  key : Nat
  n : Nat
  op : FabOp
  data : List Byte := []
  scope : Nat := 5
  unit : Nat := 0

/-- The pieces of a piece of an access that lie in one line each (R19, R153). -/
def AgentPart.lines (p : AgentPart) : List AgentPart :=
  (linesOf p.key p.n).map fun line =>
    let lo := max p.key line
    let n := min (p.key + p.n) (line + 128) - lo
    { p with key := lo, n, op := (match p.op with | .load _ => .load n | o => o), data := (p.data.drop (lo - p.key)).take n }

/-- The request of an agent for a piece of its access that is sent or answered. -/
def State.areq (s : State) (agent : Nat) (p : AgentPart) : Option (Nat × AgentReq) :=
  s.areqs.find? fun r => r.2.agent == agent && r.2.key == p.key && r.2.op == p.op && r.2.unit == p.unit

/-- The message of a piece of an access to a line of another device (R19, R70). -/
def State.agentMsg (s : State) (w : World) (p : AgentPart) : FabMsg :=
  let data : List Byte := match p.op with
    | .store => storeSlots (p.key / 128 * 128) (cellsAt p.key p.data)
    | .atomic .. => operandSlots p.n [(p.key % 128, [BitVec.ofNat 64 (ofBytes p.data)])]
    | _ => []
  { src := BitVec.ofNat 20 s.device, world := w, addr := BitVec.ofNat 64 (p.key - 2 ^ 65), op := p.op, scope := p.scope, data
    checkLo := (carried data).1, checkHi := (carried data).2 }

/-- The failure that an answer is to an operation (R31, R34, R45). -/
def AgentPart.failed (p : AgentPart) (res : FabricRes) : Option Fail :=
  if p.op = .store && res == .checkFail then some (.integrity, 3) else failOf res

/-- Send the requests of pieces that have none yet (R15, R20, R31): one that cannot be sent is answered at once. -/
def State.agentAsk (s : State) (agent : Nat) (w : World) (asid : Nat) : List AgentPart → State
  | [] => s
  | p :: ps =>
    if (s.areq agent p).isSome then s.agentAsk agent w asid ps
    else
      let (k, s) := s.take
      let r : AgentReq := { agent, key := p.key, op := p.op, unit := p.unit, world := w }
      let s : State := match s.sendReq (s.agentFn agent * 65536 + asid) (deviceOf p.key) (s.agentMsg w p)
          (match p.op with | .load _ => false | _ => true) k with
        | .error f => { s with areqs := s.areqs.put k { r with res := some (if f.1 = .world then .world else .lost) } }
        | .ok s => { s with areqs := s.areqs.put k r }
      s.agentAsk agent w asid ps

/-- Requests of agents are over. -/
def State.askOver (s : State) (sel : AgentReq → Bool) : State :=
  (s.areqs.filter fun r => sel r.2).foldl (fun s r => ({ s with areqs := s.areqs.del r.1 } : State).acked r.1) s

/-- The requests of an agent that serve a unit are answered with an outcome, where they have no answer yet (log 56, DESIGN CHOICE). -/
def State.answerUnit (s : State) (agent unit : Nat) (res : FabricRes) : State :=
  (s.areqs.filter fun r => r.2.agent == agent && r.2.unit == unit && r.2.res.isNone).foldl
    (fun s r => ({ s with areqs := s.areqs.put r.1 { r.2 with res := some (s.outcome r.2.key res) } } : State).acked r.1) s

/-- The pieces of an agent's access that lie in other devices, line by line. -/
def farParts (ps : List AgentPart) : List AgentPart := (ps.filter fun p => isRemote p.key).flatMap AgentPart.lines
/-- The answer to a piece of an agent's access; one that lies in this device or the host needs none. -/
def State.answerTo (s : State) (agent : Nat) (p : AgentPart) : Option FabricRes :=
  if !isRemote p.key then some .ok else match s.areq agent p with | some (_, r) => r.res | none => none

/-- Send the requests of an agent's access to other devices, where they are not out (R15, R20, R31): whether all have their answers. -/
def State.agentAwait (s : State) (agent : Nat) (w : World) (asid : Nat) (ps : List AgentPart) : Bool × State :=
  let s := s.agentAsk agent w asid (farParts ps)
  ((farParts ps).all fun p => (s.answerTo agent p).isSome, s)

/-- The first failure among the answers to an agent's access (R31, R34). -/
def State.answerFail (s : State) (agent : Nat) (ps : List AgentPart) : Option Fail :=
  (farParts ps).findSome? fun p => p.failed ((s.answerTo agent p).getD .ok)

/-- The agent's requests for pieces are over. -/
def State.agentTaken (s : State) (agent : Nat) (ps : List AgentPart) : State :=
  s.askOver fun r => r.agent == agent && (farParts ps).any fun p => p.key == r.key && p.op == r.op && p.unit == r.unit

/-- The outcome of the pieces of an agent's access that lie in other devices (R15, R20, R31, R34): their requests are sent, waited for
together, and taken with their answers (log 56, DESIGN CHOICE). -/
def State.agentAnswers (s : State) (agent : Nat) (w : World) (asid : Nat) (ps : List AgentPart) : Agent Unit × State :=
  match s.agentAwait agent w asid ps with
  | (false, s) => (.wait, s)
  | (true, s) => (match s.answerFail agent ps with | some f => .fail f | none => .ok (), s.agentTaken agent ps)

/-- Host lines whose transfer into the device fails IDE: the data are discarded and the error is reported (R29). -/
def State.linkFail (s : State) (keys : List (Nat × Nat)) : Option State :=
  let bad := s.ideBad.filter fun l => keys.any fun k => decide (k.1 < l + 128) && decide (l < k.1 + k.2)
  if bad.isEmpty then none else some ({ s with ideBad := s.ideBad.filter fun l => !bad.contains l }.send .aer)

/-- Read bytes at virtual addresses for an agent; `unit` tells its reads apart where it makes several. -/
def State.agentRead (s : State) (agent : Nat) (w : World) (asid va n : Nat) (unit : Nat := 0) : Agent (List Byte) × State :=
  match s.agentKeys agent w asid .load (pagesOf va n) with
  | (.wait, s) => (.wait, s)
  | (.fail f, s) => (.fail f, s)
  | (.ok ks, s) =>
    match s.linkFail ks with
    | some s => (.wait, s)
    | none =>
      match s.agentAnswers agent w asid (ks.map fun k => { key := k.1, n := k.2, op := .load k.2, unit }) with
      | (.wait, s) => (.wait, s)
      | (.fail f, s) => (.fail f, s)
      | (.ok (), s) =>
        match ks.mapM fun (k, n) => s.load w k n with
        | .error f => (.fail f, s)
        | .ok bss => (.ok bss.flatten, s)

/-- The bytes that go to each piece of a range. -/
def splitBytes : List (Nat × Nat) → List Byte → List (Nat × Nat × List Byte)
  | [], _ => []
  | (k, n) :: ks, bs => (k, n, bs.take n) :: splitBytes ks (bs.drop n)

/-- Store pieces in order. -/
def State.storeParts (s : State) (w : World) : List (Nat × Nat × List Byte) → Except Fail State
  | [] => .ok s
  | (k, _, bs) :: ps => match s.store w (cellsAt k bs) with | .error f => .error f | .ok s => s.storeParts w ps

/-- Write bytes at virtual addresses for an agent. -/
def State.agentWrite (s : State) (agent : Nat) (w : World) (asid va : Nat) (bs : List Byte) : Agent Unit × State :=
  match s.agentKeys agent w asid .store (pagesOf va bs.length) with
  | (.wait, s) => (.wait, s)
  | (.fail f, s) => (.fail f, s)
  | (.ok ks, s) =>
    let ps := splitBytes ks bs
    match s.agentAnswers agent w asid (ps.map fun p => { key := p.1, n := p.2.1, op := .store, data := p.2.2 }) with
    | (.ok (), s) => (match s.storeParts w ps with | .error f => (.fail f, s) | .ok s' => (.ok (), s'))
    | r => r

/-- An atomic add or a store of 64 bits at a virtual address and a scope for an agent (R70, R80, R210). -/
def State.agentAdd (s : State) (agent : Nat) (w : World) (asid va : Nat) (v : Dword) (add : Bool := true) (scope : Nat := 5) :
    Agent Unit × State :=
  match s.agentXlat agent w asid va (if add then .atomic else .store) with
  | (.wait, s) => (.wait, s)
  | (.fail f, s) => (.fail f, s)
  | (.ok k, s) =>
    let data := toBytes 8 v.toNat
    match s.linkFail (if add && !isLocal k && !isRemote k then [(k, 8)] else []) with
    | some s => (.wait, s)
    | none =>
    match s.agentAnswers agent w asid [{ key := k, n := 8, op := if add then .atomic .add 26 else .store, data, scope }] with
    | (.ok (), s) =>
      if add then
        match s.atomic w k 8 (fun old => some ((old + v.toNat) % 2 ^ 64)) with
        | .error f => (.fail f, s)
        | .ok (_, s') => (.ok (), s')
      else
        match s.store w (cellsAt k data) with
        | .error f => (.fail f, s)
        | .ok s' => (.ok (), s')
    | r => r

/-- An agent waits for a page, for another device or for its release (R365, R25): no bound of time holds it. -/
def State.agentBusy (s : State) (agent : Nat) : Bool :=
  (s.reqs.any fun r => r.2.agent == agent && r.2.reply.isNone) || (s.areqs.any fun r => r.2.agent == agent && r.2.res.isNone)
    || ((s.agentRel.find agent).any fun r => !(s.pumpRelease r).1.done && !r.lost)

/-- Perform a release of an agent off the cores before a write of its own (R25, R26): none while it has not performed, false
where a path of it is lost, which fails the agent's access (R27). The first call begins it, and it is over once a request of the write is out
(log 45, DEDUCED). -/
def State.agentRelease (s : State) (agent ctx scope : Nat) : Option Bool × State :=
  if s.areqs.any fun r => r.2.agent == agent then (some true, s) else
  let (r, s) := match s.agentRel.find agent with
    | some r => (r, s)
    | none => s.startRelease none ctx scope
  let (r, s) := s.pumpRelease r
  if r.lost then (some false, { s with agentRel := s.agentRel.del agent })
  else if r.done then (some true, { s with agentRel := s.agentRel.del agent })
  else (none, { s with agentRel := s.agentRel.put agent r })

end Sys2Proof.Machine
end

