-- ==== Sys2Proof/Machine/Ops.lean ====
section
/-!
DEFINITION. Taking an exception (R240 to R243), the handler's entry (R246, R252), the return from it (R251), the kill of
a team (R253) and the fault log (R254, R255).
-/
namespace Sys2Proof.Machine

/-- A cause found in a lane, with the address and the detail it is reported with (R241, R242; log 30, DEDUCED). -/
structure Hit where
  ln : Nat := 0
  c : Cause
  addr : Dword := 0
  detail : Word := 0
  deriving DecidableEq, Repr

/-- The bitmap of an event. -/
def bitmap (hs : List Hit) : Word := hs.foldl (fun w h => w ||| h.c.mask) 0

/-- The hit that an event is described by: the lowest-numbered bit, then the lowest lane (R241; log 30, DEDUCED). -/
def leadHit : List Hit → Option Hit
  | [] => none
  | h :: hs =>
    match leadHit hs with
    | none => some h
    | some g => if g.c.bit < h.c.bit || (g.c.bit == h.c.bit && g.ln < h.ln) then some g else some h

/-- A squad takes an event at a PC (R241): the bits are sticky; the fault PC, address and detail describe the first event
since the bitmap was zero; the trap code is that of the `TRAP` that sets `SOFTWARE`. -/
def Squad.record (q : Squad) (pc : Dword) (hs : List Hit) (code : Word) : Squad :=
  match leadHit hs with
  | none => q
  | some h =>
    let bits := bitmap hs
    let q := if q.causes = 0 then { q with fpc := pc, faddr := h.addr, detail := h.detail } else q
    let q := if bits.getLsbD 25 && !q.causes.getLsbD 25 then { q with code := code } else q
    { q with causes := q.causes ||| bits }

/-- Clear cause bits (R241): when the bitmap returns to zero the record does too. -/
def Squad.clear (q : Squad) (bits : Word) : Squad :=
  let c := q.causes &&& ~~~bits
  let q := { q with causes := c, code := if c.getLsbD 25 then q.code else 0 }
  if c = 0 then { q with fpc := 0, faddr := 0, detail := 0 } else q

/-- The skid of a thread (R126): instructions issued since its oldest long-latency instruction not complete. -/
def State.skidOf (s : State) (th : Thread) : Nat :=
  (th.windows.filter fun w => (s.flights.find w.op).isSome).foldl (fun m w => max m w.since) 0

/-- The skids of a squad that has just issued its last instruction (R126); those of the handling squad stay as its handler found them
(R247). -/
def State.fixSkids (s : State) (t : Team) (q : Nat) : Team :=
  if t.handling.isSome then t else t.mapLanes q (List.range 32) fun _ th => { th with skid := s.skidOf th }

/-- Every instruction the squad has issued, other than copies, has completed (R243, R245). -/
def State.quiet (s : State) (key q : Nat) : Bool := !s.flights.any fun (_, f) => f.team == key && f.sq == q

/-- A squad ceases to issue (R126, R243): its convoy ends and the skids are fixed. -/
def State.cease (s : State) (key q : Nat) : State :=
  let t := s.tm key
  let x := t.squad q
  if x.run = .stopped || x.run = .halting 0 then s
  else s.setTm key ((s.fixSkids t q).setSquad q { x with run := .halting 0, convoy := [], lone := false })

/-- Every squad of a team begins to halt: it may still issue within 64 issue cycles (R243). -/
def Team.halt (t : Team) : Team :=
  { t with halting := true
           squads := t.squads.map fun q => if q.run = .running then { q with run := .halting 64 } else q }

/-- The bytes of a fault-log record (R255). -/
structure LogRec where
  kind : Nat
  stage : Nat := 0
  tm : Nat := 0
  en : Nat := 0
  lrec : Dword := 0
  ctx : Nat := 0
  causes : Word := 0
  detail : Word := 0
  code : Word := 0
  fpc : Dword := 0
  addr : Dword := 0
  count : Nat := 1
  queue : Nat := 0
  discarded : Nat := 0
  pkt : Nat := 0
  deriving DecidableEq, Repr

/-- The layout of a record (R255). -/
def LogRec.bytes (r : LogRec) : List Byte :=
  toBytes 1 r.kind ++ toBytes 1 0 ++ toBytes 1 r.stage ++ toBytes 1 r.tm ++ toBytes 4 r.en ++ toBytes 8 r.lrec.toNat
    ++ toBytes 4 r.ctx ++ toBytes 4 r.causes.toNat ++ toBytes 4 r.detail.toNat ++ toBytes 4 r.code.toNat
    ++ toBytes 8 r.fpc.toNat ++ toBytes 8 r.addr.toNat ++ toBytes 4 r.count ++ toBytes 2 r.queue
    ++ toBytes 2 (min r.discarded 0xFFFF) ++ toBytes 8 r.pkt

/-- Raise the log's vector after a record of any kind but 1 (R255). -/
def State.logVector (s : State) (f : Nat) (bytes : List Byte) : State :=
  if bytes.getD 0 0 = 1 then s else s.send (.msi f ((s.fn f).fltcfg.extractLsb' 16 11).toNat)

/-- Drop a record and count it (R255). -/
def State.logDrop (s : State) (f : Nat) (bytes : List Byte) : State :=
  let x := s.fn f
  let d := min 0xFFFF ((x.fltcfg.extractLsb' 0 16).toNat + 1)
  (s.setFn f { x with fltcfg := (x.fltcfg >>> 16 <<< 16) ||| BitVec.ofNat 64 d }).logVector f bytes

/-- The index the next record of a function's log takes, and the one software has consumed to (R254). -/
def logIdx (x : Fn) : Nat × Nat := ((x.fltidx.extractLsb' 16 16).toNat, (x.fltidx.extractLsb' 0 16).toNat)

/-- The context that a record names. -/
def recordCtx (bytes : List Byte) : Nat := ofBytes ((bytes.drop 16).take 4)

/-- Write one record of a function's log with system-scope release, or drop it (R255); false where it waits for its release or
its page (R365; log 45, DEDUCED). -/
def State.logWrite (s : State) (f : Nat) (bytes : List Byte) : Bool × State :=
  let x := s.fn f
  let size := 2 ^ (x.fltcfg.extractLsb' 44 4).toNat
  let (wr, rd) := logIdx x
  if !x.fltcfg.getLsbD 43 || (wr + 65536 - rd) % 65536 = size then (true, s.logDrop f bytes)
  else
    match s.agentRelease (agentNum .log f) (recordCtx bytes) 5 with
    | (none, s) => (false, s)
    | (some false, s) => (true, s.logDrop f bytes)
    | (some true, s) =>
      let va := x.fltbase.toNat / 4096 * 4096 + 64 * (wr % size)
      match s.agentWrite (agentNum .log f) x.world (x.fltcfg.extractLsb' 48 16).toNat va bytes with
      | (.wait, s) => (false, s)
      | (.fail _, s) => (true, s.logDrop f bytes)
      | (.ok _, s) =>
        let x := s.fn f
        let idx := BitVec.ofNat 64 ((wr + 1) % 65536 * 65536 + rd)
        (true, (s.setFn f { x with fltidx := idx }).logVector f bytes)

/-- Write the records that wait, in order, as far as their pages allow (log 57, DESIGN CHOICE). -/
def State.logPump (s : State) : State :=
  let step (acc : List LogDue × State) (d : LogDue) : List LogDue × State :=
    if acc.1.any fun e => e.fn == d.fn then (acc.1 ++ [d], acc.2)
    else match acc.2.logWrite d.fn d.bytes with
      | (true, s) => (acc.1, s)
      | (false, s) => (acc.1 ++ [d], s)
  let start : State := { s with logsDue := [] }
  let (rest, s) := s.logsDue.foldl step ([], start)
  { s with logsDue := rest ++ s.logsDue }

/-- Write a fault-log record of a function (R255). -/
def State.log (s : State) (f : Nat) (r : LogRec) : State :=
  let d : LogDue := { fn := f, bytes := r.bytes }
  State.logPump { s with logsDue := s.logsDue ++ [d] }

/-- What every record says of a launch. -/
def Launch.logRec (l : Launch) (kind : Nat) : LogRec :=
  { kind, lrec := l.lrec, ctx := l.ctx, queue := l.queue, pkt := l.pkt }

/-- The lowest squad of a team with a cause. -/
def Team.causeSquad (t : Team) : Option Nat := (List.range t.squads.length).find? fun q => (t.squad q).causes != 0

/-- What a record says of a team that is killed (R255). -/
def Team.logRec (t : Team) (l : Launch) (kind : Nat) : LogRec :=
  let q := t.squad (match t.handling with | some (q, _) => q | none => t.causeSquad.getD 0)
  { l.logRec kind with stage := t.stage, tm := t.tm, en := t.en, detail := q.detail, code := q.code, fpc := q.fpc,
                       addr := q.faddr, causes := t.squads.foldl (fun w x => w ||| x.causes) 0 }

/-- The team's threads end where they stand (R253). -/
def Team.end_ (t : Team) : Team :=
  { t with
    phase := .killed, halting := false, held := false, stepping := none, heldWait := .none, heldPark := none
    threads := t.threads.map fun th => { th with exited := true, wait := .none, windows := [], rel := none }
    squads := t.squads.map fun q => { q with convoy := [], run := .stopped, park := none, replay := [], amids := [] } }

/-- The insertion point passes written slots, which are inserted, and voided ones, which are freed (R87). -/
def Stage.pass : Nat → Stage → Stage
  | 0, g => g
  | n + 1, g =>
    match g.slots.find g.ins with
    | some .written => Stage.pass n { g with ins := g.ins + 1, slots := g.slots.put g.ins (.inserted 0) }
    | some .voided => Stage.pass n { g with ins := g.ins + 1, slots := g.slots.del g.ins }
    | _ => g

/-- A reserved slot of a bin is written or voided, and the insertion point moves (R87, R357; log 21, DEDUCED). -/
def Stage.settleSlot (g : Stage) (k : Nat) (v : Slot) : Stage :=
  Stage.pass (g.tail - g.ins) { g with slots := g.slots.put k v }

/-- Change a stage of a launch. -/
def Launch.onStage (l : Launch) (st : Nat) (f : Stage → Stage) : Launch :=
  { l with stages := l.stages.set st (f (l.stages.getD st {})) }

/-- A slot of a launch's bin is written or voided. -/
def State.settleSlot (s : State) (lk st k : Nat) (v : Slot) : State :=
  s.setLaunch lk ((s.launch lk).onStage st fun g => g.settleSlot k v)

/-- The bin slots that threads of a team still hold are voided (R357, log 21, DEDUCED). -/
def State.voidSlots (s : State) (t : Team) : State :=
  t.threads.foldl (fun s th =>
    match th.slot with
    | some (st, k) => s.settleSlot t.launch st k .voided
    | none => s) s

/-- A lane of a squad gives up the bin slot that it holds, which is voided (R357). -/
def State.voidLane (s : State) (key q ln : Nat) : State :=
  let th := (s.tm key).lane q ln
  match th.slot with
  | none => s
  | some (st, k) => (s.settleSlot (s.tm key).launch st k .voided).onTm key fun t => t.setThread (tidOf q ln) { th with slot := none }

/-- The page requests that wait for a team (R117, R158), the held ones of its handling thread among them (R246). -/
def Team.pageReqs (t : Team) : List Nat :=
  let ofPark (p : Option Park) : List Nat := match p with | some p => p.reqs | none => []
  let ofWait (w : Wait) : List Nat := match w with | .fetch _ r => [r] | _ => []
  (t.squads.flatMap fun q => ofPark q.park) ++ (t.threads.flatMap fun th => ofWait th.wait) ++ ofPark t.heldPark ++ ofWait t.heldWait

/-- Kill a team, with no record (R114, R253): its threads end, its unanswered operations and page requests are abandoned,
queued and suspect engine operations are discarded with their locks; copies run on. -/
def State.endTeam (s : State) (key : Nat) : State :=
  let t := s.tm key
  let c := s.core t.core
  let s := s.voidSlots t
  let s := { s with flights := s.flights.filter fun f => f.2.team != key
                    reqs := s.reqs.filter fun r => !t.pageReqs.contains r.1 }
  let s := s.askOver fun r => r.agent % 16 == 11 && r.agent / 16 / 1024 == key
  let s := if c.engine.owner = some key then
      s.setCore t.core { c with engine := { c.engine with queue := [], suspect := none } } else s
  s.onTm key fun t => { t.end_ with threads := t.end_.threads.map fun th => { th with slot := none } }

/-- Kill a team and log it (R253, R255). -/
def State.kill (s : State) (key kind : Nat) : State :=
  let t := s.tm key
  let l := s.launchOf t
  (s.endTeam key).log l.fn (t.logRec l kind)

/-- The debugger stops a team for these causes (R260). -/
def State.stopMask (s : State) (t : Team) : Word :=
  match s.session (s.launchOf t).ctx with | some x => x.stopMask | none => 0

/-- A squad of a team takes an event (R240, R241, R243): ONE operation for every cause. `own` says that the handling thread
issued the charged instruction in its handler, which kills the team (R249); any other cause that lands during the handler
sets its bit (log 64, DEDUCED), and stops the team for a debugger that asks for it (R260). -/
def State.raise (s : State) (key q : Nat) (pc : Dword) (hs : List Hit) (code : Word := 0) (own : Bool := false) :
    State :=
  match s.teams.find key with
  | none => s
  | some t =>
    if hs.isEmpty then s
    else
      let asked := (s.stopMask t &&& bitmap hs) != 0
      let t' := t.setSquad q ((t.squad q).record pc hs code)
      match t.phase with
      | .killed => s
      | .handler .. =>
        if own then (s.setTm key t').kill key 4
        else if asked then s.setTm key { t'.halt with held := true } else s.setTm key t'
      | .running =>
        let t' := { t' with held := t.held || asked }
        ((s.setTm key t').cease key q).onTm key Team.halt

/-- Every squad of the team has stopped (R243). -/
def Team.halted (t : Team) : Bool := t.squads.all fun q => q.run == .stopped

/-- The fault of a squad that its handler holds (R246): one still parked, or one resolved whose instruction has not issued again. -/
def Squad.heldFault (x : Squad) : Option Park :=
  match x.park with
  | some p => some p
  | none => if x.replay.isEmpty then none else some { lanes := x.replay, reqs := [] }

/-- The handler is entered in a squad (R246): `%hpc` takes the thread's halt PC, its PC the handler's address, and its
wait or parked fault is held (log 60, DEDUCED). -/
def Team.enter (t : Team) (q : Nat) (handler : Dword) : Team :=
  match t.live q with
  | [] => t
  | ln :: _ =>
    let th := t.lane q ln
    let x := t.squad q
    let t := t.setThread (tidOf q ln) { th with pc := handler, wait := .none, windows := [], lastForm := 0 }
    let t := t.setSquad q { x with run := .running, park := none, replay := [], convoy := [], latch := none, sinceForm := 4 }
    { t with phase := .handler q ln th.haltPc, heldWait := th.wait, heldPark := x.heldFault }

/-- A captured fault of a squad that goes on: its instruction issues again, alone (R103, R158). -/
def Squad.replayed (x : Squad) : Squad :=
  match x.park with
  | some p => if p.captured then { x with park := none, replay := p.lanes } else x
  | none => x

/-- A captured fault of a fetch: the thread that goes on fetches again (R103, R117). -/
def Thread.replayed (th : Thread) : Thread := match th.wait with | .fetch _ 0 => { th with wait := .none } | _ => th

/-- The return to the threads (R251): each continues at its halt PC. -/
def Team.continue_ (t : Team) : Team :=
  { t with
    phase := .running, halting := false, held := false, stepping := none, heldWait := .none, heldPark := none
    squads := t.squads.map fun q => { q.replayed with run := .running, convoy := [], latch := none, sinceForm := 4 }
    threads := t.threads.map fun th => if th.exited then th else { th.replayed with pc := th.haltPc } }

/-- The handling thread of a stopped team goes on in its handler (R102, R259). -/
def Team.handlerOn (t : Team) (q ln : Nat) : Team :=
  (t.setThread (tidOf q ln) (t.lane q ln).replayed).setSquad q { (t.squad q).replayed with run := .running, sinceForm := 4 }

/-- The handling thread leaves its handler with `%hpc` as its halt PC (R246, R251): a held wait or fault is kept where
`%hpc` is still the halt PC, abandoned where the handler has changed it (log 60, DEDUCED). Its squad is stopped where nothing that it has issued
is out (R243). -/
def Team.leave (t : Team) (q ln : Nat) (hpc : Dword) (quiet : Bool) : Team :=
  let th := t.lane q ln
  let same := hpc == th.haltPc
  let kept := t.heldPark.filter fun p => same || !p.lanes.contains ln
  let park := kept.filter fun p => !p.reqs.isEmpty || p.captured
  let replay := match kept with | some p => if park.isSome then [] else p.lanes | none => []
  let t := t.setThread (tidOf q ln)
    { th with haltPc := hpc, pc := hpc, wait := if same then t.heldWait else .none, rel := if same then th.rel else none }
  let t := t.mapLanes q (List.range 32) fun _ th => if th.exited then th else { th with pc := th.haltPc }
  t.setSquad q { t.squad q with park, replay, run := if quiet then .stopped else .halting 0, convoy := [] }

/-- The handler is entered in the lowest squad with a cause, or the team is killed where it has none (R246, R252). -/
def State.handler (s : State) (key : Nat) : State :=
  let t := s.tm key
  match t.causeSquad with
  | none => s
  | some q =>
    let h := (s.launchOf t).hdr.handler
    if h = 0 then s.kill key 3 else s.setTm key (t.enter q h)

/-- What the handling thread had issued in its handler was issued before any later handler (R249). -/
def State.endHandler (s : State) (key : Nat) : State :=
  let op : EngineOp → EngineOp
    | .mma sq pc td ta tc af wf acc p desc _ => .mma sq pc td ta tc af wf acc p desc false
    | .mswap sq => .mswap sq
  let c := (s.tm key).core
  let e := (s.core c).engine
  let s : State := { s with flights := s.flights.map fun f => (f.1, if f.2.team = key then { f.2 with hnd := false } else f.2) }
  if e.owner != some key then s
  else s.setCore c { s.core c with engine := { e with
    queue := e.queue.map op
    started := e.started.map fun x => { x with op := op x.op }
    fill := e.fill.map fun f => { f with hnd := false }
    suspect := e.suspect.map fun u => { u with op := op u.op } } }

/-- `TRAPRET.resume` (R251): the handler is entered again while a bitmap is not zero, once the squad has stopped again (R243, R246); else every
thread continues; where a freeze or a debugger has asked the team to halt meanwhile, it stays halted (R102, R259). A bin slot that the handling thread holds for a `SPAWN` it no longer continues at is voided (log 21, DEDUCED). -/
def State.trapret (s : State) (key : Nat) : State :=
  let s := s.endHandler key
  let t := s.tm key
  match t.phase with
  | .handler q ln hpc =>
    let s := if hpc = (t.lane q ln).haltPc then s else s.voidLane key q ln
    let t := s.tm key
    let quiet := s.quiet key q
    let t' := { t.leave q ln hpc quiet with phase := .running }
    if t.held || (t.squad q).run != .running then s.setTm key { t' with halting := true, stepping := none }
    else if t'.causeSquad.isNone then s.setTm key t'.continue_
    else if quiet then (s.setTm key t').handler key
    else s.setTm key { t' with halting := true }
  | _ => s

end Sys2Proof.Machine
end

