-- ==== Sys2Proof/Machine/Issue.lean ====
section
/-!
DEFINITION. The issue of an instruction by a convoy (R94, R119, R123 to R126, R152, R264 to R266): who issues, what stalls it,
the causes found at issue, and how the program counters advance. Every instruction's meaning is written over
`State.lanewise`, `State.once` or `State.issue`.
-/
namespace Sys2Proof

/-- The instructions an acquire of their thread holds (R170). -/
def Instr.memory : Instr → Bool
  | .ld .. | .st .. | .atom .. | .cas .. | .red .. | .brload .. | .tld .. | .tst .. | .copy .. | .copy2d .. | .copyg ..
  | .copyrem .. | .mloadw .. | .prefetch .. | .cctl .. | .publish .. | .publishM .. | .adopt .. | .retract ..
  | .notify .. | .spawn .. => true
  | _ => false

/-- The operations that the engine queue holds and whose tiles they name are theirs in order (R125, R238). -/
def Instr.queued : Instr → Bool | .mma .. => true | _ => false

/-- The instruction needs the shadow plane not pending (R125). -/
def Instr.plane : Instr → Bool | .mswap .. => true | .mloadw .. => true | _ => false

/-- The instruction reads or clears the float flags of its thread (R144, R360). -/
def Instr.flagAccess : Instr → Bool
  | .sread _ _ num => num == 0x21
  | .swrite _ num _ => num == 0x21
  | _ => false

/-- The length of an instruction in bytes (R263). -/
def Instr.len (i : Instr) : Nat := 4 * i.parcels

namespace Machine

/-- The issue of an instruction: team, squad, convoy, its active lanes, the address. -/
structure Convoy where
  key : Nat
  q : Nat
  lanes : List Nat
  act : List Nat
  pc : Dword
  deriving DecidableEq, Repr

/-- A squad may issue (R243). -/
def Squad.mayIssue (q : Squad) : Bool :=
  q.park.isNone && (match q.run with | .running => true | .halting n => decide (0 < n) | .stopped => false)

/-- The instruction in the midst of which a convoy of a squad stands (R334). -/
def Squad.amid? (q : Squad) : Option Amid := q.amids.find? fun m => !q.convoy.isEmpty && m.lanes == q.convoy

/-- The threads of a squad may issue in the team's phase (R246). -/
def Team.mayIssue (t : Team) (q : Nat) : Bool :=
  decide (q < t.squads.length) && (t.squad q).mayIssue
    && (match t.phase with | .running => true | .handler h _ _ => h == q | _ => false)

/-- Who issues the instruction now: the convoy of the squad in focus, threads of its team; a convoy in the midst of an instruction
goes on with it, whatever halts or parks its squad (R158, R243). -/
def State.slot (s : State) (i : Instr) : Option Convoy :=
  match s.teams.find s.team with
  | none => none
  | some t =>
    let c := (t.squad s.sq).convoy.filter fun l => decide (tidOf s.sq l < t.threads.length)
    match c with
    | [] => none
    | ln :: _ =>
      match (t.squad s.sq).amid? with
      | some m => if m.i = i then some { key := s.team, q := s.sq, lanes := m.lanes, act := m.act, pc := m.pc } else none
      | none =>
      if t.mayIssue s.sq then
        some { key := s.team, q := s.sq, lanes := c, pc := (t.lane s.sq ln).pc
               act := c.filter fun l => match i.hd with | some h => (t.lane s.sq l).guard h | none => true }
      else none

/-- The registers an operation in flight will write (R124). -/
def FlightOp.dest : FlightOp → List VOp
  | .load ty d => [tyOp d ty]
  | .atomic _ ty (some d) => [tyOp d ty]
  | .cas ty d => [tyOp d ty]
  | .result d n _ => [⟨d, n, 1⟩]
  | _ => []

/-- Two register operands overlap; `v255` is never pending (R120). -/
def overlaps (a b : VOp) : Bool :=
  !(a.r == 255 || b.r == 255) && decide (a.r.toNat < b.r.toNat + b.n) && decide (b.r.toNat < a.r.toNat + a.n)

/-- The registers of a thread that are pending (R124, R125). -/
def State.pendingRegs (s : State) (key q ln : Nat) : List VOp :=
  (s.flights.flatMap fun (_, f) =>
    if f.team == key && f.sq == q && f.lanes.any (fun l => l.ln == ln && !l.replied) then f.op.dest else [])
  ++ s.copies.filterMap fun (_, c) => if c.team == key && c.tid == tidOf q ln then some ⟨c.vS, 1, 1⟩ else none

/-- The tiles an accepted matrix operation writes (R217, R223). -/
def EngineOp.writes : EngineOp → List (BitVec 6 × Nat)
  | .mma _ _ td _ _ _ _ acc .. => tileAcc td acc
  | .mswap _ => []
/-- The tiles an accepted matrix operation reads. -/
def EngineOp.reads : EngineOp → List (BitVec 6 × Nat)
  | .mma _ _ _ ta tc _ _ acc .. => (ta, 1) :: tileAcc tc acc
  | .mswap _ => []

/-- Tile operands share a tile. -/
def tilesMeet (a b : List (BitVec 6 × Nat)) : Bool :=
  a.any fun x => b.any fun y => decide (x.1.toNat < y.1.toNat + y.2) && decide (y.1.toNat < x.1.toNat + x.2)

/-- The operations the engine of a team's core has accepted for it. -/
def State.engineOps (s : State) (key : Nat) (t : Team) : List EngineOp :=
  let e := (s.core t.core).engine
  if e.owner = some key then (e.started.map (·.op)).toList ++ e.queue else []

/-- The operations that the engine of a team's core has accepted for it and not started (R224, R346). -/
def State.engineQueue (s : State) (key : Nat) (t : Team) : List EngineOp :=
  let e := (s.core t.core).engine
  if e.owner = some key then e.queue else []

/-- The tiles of a team that are pending (R124, R125). -/
def State.pendingTiles (s : State) (key : Nat) (t : Team) : List (BitVec 6 × Nat) :=
  (s.flights.flatMap fun (_, f) =>
    match f.op with | .tld ty d => if f.team == key then tileTy d ty else [] | _ => [])
  ++ (s.engineOps key t).flatMap EngineOp.writes

/-- The records of a team that are pending (R337). -/
def State.pendingRecs (s : State) (key : Nat) : List (BitVec 4) :=
  s.flights.filterMap fun (_, f) => match f.op with | .brload d => if f.team == key then some d else none | _ => none

/-- A lookahead window of the thread lets nothing more issue (R123). -/
def State.windowed (s : State) (th : Thread) : Bool :=
  th.windows.any fun w => (s.flights.find w.op).isSome && decide (w.la ≤ w.since)

/-- An acquire, or an `.sc` access, of the thread holds its later memory accesses (R123, R170, R173). -/
def State.acquiring (s : State) (key q ln : Nat) : Bool :=
  s.flights.any fun (_, f) =>
    f.team == key && f.sq == q && (f.ord == 2 || f.ord == 4 || f.ord == 5) && f.lanes.any fun l => l.ln == ln

/-- A long-latency result of the thread has not landed, with the flags it sets (R144). -/
def State.resultsOut (s : State) (key q ln : Nat) : Bool :=
  s.flights.any fun (_, f) =>
    f.team == key && f.sq == q && (match f.op with | .result .. => true | _ => false) && f.lanes.any fun l => l.ln == ln

/-- The memory operands of a form: record and index register (R327, R342). -/
def memOps : Instr → List (BitVec 4 × BitVec 8)
  | .ld _ _ _ ad _ _ | .st _ _ ad _ _ _ | .atom _ _ _ _ ad _ _ _ | .cas _ _ _ ad _ _ _ _ | .red _ _ _ ad _ _ _
  | .brload _ _ ad _ _ | .prefetch _ ad _ _ | .cctl _ ad _ _ | .publish _ ad _ _ _ | .publishM _ _ ad _ _ _
  | .adopt _ ad _ _ _ | .retract _ ad _ _ _ | .tld _ _ _ ad _ _ | .tst _ _ ad _ _ _ | .mloadw _ ad _ _ _ =>
    [(ad.brec, ad.idx)]
  | .copy _ k _ | .copy2d _ k _ | .copyg _ k _ | .copyrem _ k _ _ _ => [(k.dRec, k.vK), (k.sRec, k.vJ)]
  | _ => []

/-- A record is FLAT: its index is a register pair (R151). -/
def isFlat (r : BitVec 256) : Bool := r.getLsbD 185

/-- The operands of an instruction at issue: the form's, the index pairs of FLAT records, and register groups whose size only the team's state tells
(R320, R321, R356). -/
def useAt (i : Instr) (t : Team) (hdr : LaunchRec) : Use :=
  let u := i.use
  let pairs := (memOps i).filterMap fun m => if isFlat (t.brec m.1) && m.2 != 255 then some (⟨m.2, 2, 1⟩ : VOp) else none
  let u := { u with rd := u.rd ++ pairs }
  let elems (ty : BitVec 6) : Nat :=
    if 16 ≤ ty.toNat ∧ ty.toNat ≤ 23 ∧ Float.descValid (t.fm (ty.toNat - 16)) then
      32 / (Float.descFmt (t.fm (ty.toNat - 16))).width
    else 0
  let grp (r : BitVec 8) (ty packed : BitVec 6) : List VOp :=
    let k := elems packed
    if k = 0 then [] else if ty = 6 then [⟨r, 2 * k, 2⟩] else [⟨r, k, 1⟩]
  match i with
  | .packn _ _ a _ dty sty _ _ => { u with rd := u.rd ++ grp a sty dty }
  | .unpackn _ d _ _ dty sty _ _ => { u with wr := u.wr ++ grp d dty sty }
  | .spawn _ st a => { u with rd := u.rd ++ [⟨a, max 1 (4 * (hdr.stages.getD st.toNat {}).recSize), 1⟩] }
  | _ => u

/-- The convoy's next instruction is not ready: a lookahead window, a pending operand, an acquire, or flags still to be set, in some
member (R123, R125, R144, R170; log 4, DESIGN CHOICE). -/
def State.stalled (s : State) (i : Instr) (x : Convoy) : Bool :=
  let t := s.tm x.key
  let u := useAt i t (s.launchOf t).hdr
  (x.lanes.any fun ln =>
    s.windowed (t.lane x.q ln)
      || ((s.pendingRegs x.key x.q ln).any fun p => (u.rd ++ u.wr).any (overlaps p))
      || (i.memory && s.acquiring x.key x.q ln)
      || (i.flagAccess && s.resultsOut x.key x.q ln))
  || tilesMeet (u.trd ++ u.twr) (s.pendingTiles x.key t)
  || (!i.queued && tilesMeet u.twr ((s.engineQueue x.key t).flatMap EngineOp.reads))
  || ((s.pendingRecs x.key).any fun d => (u.brd ++ u.bwr).contains d)
  || (i.plane && (s.core t.core).engine.fill.isSome)

/-- A register operand lies beyond the allocation (R81, R265). -/
def beyond (o : VOp) (regs : Nat) : Bool :=
  (List.range o.n).any fun k => let r := o.r.toNat + k; decide (8 * regs ≤ r) && decide (r < 255)

/-- The defects of an instruction that depend on the launch's allocation (R81, R265; log 28, DEDUCED). -/
def allocDefects (u : Use) (hdr : LaunchRec) : List Cause :=
  if ((u.rd ++ u.wr).any fun o => beyond o hdr.regs) || ((u.trd ++ u.twr).any fun t => decide (hdr.tiles < t.1.toNat + t.2))
      || (u.bar.any fun n => decide (hdr.nbar ≤ n.toNat)) then [.reservedField] else []

/-- The barrier is one of the team's (R81, R265). -/
def State.hasBar (s : State) (key n : Nat) : Bool := decide (n < (s.launchOf (s.tm key)).hdr.nbar)

/-- Tile operands take in a tile. -/
def tilesHave (ts : List (BitVec 6 × Nat)) (n : Nat) : Bool := ts.any fun t => decide (t.1.toNat ≤ n) && decide (n < t.1.toNat + t.2)

/-- A narrow element code of `TCVT` has elements of 4 bits (R215, R353). -/
def codeFour (f : BitVec 5) (fm : Nat → Word) : Bool :=
  f = 4 || f = 7 || (decide (16 ≤ f.toNat) && decide ((Float.descFmt (fm (f.toNat - 16))).width ≤ 4))

/-- A word of 64 bits of a tile lies in a segment of narrow elements (R345, R353). -/
def segWord (four : Bool) (seg : BitVec 2) (w : Nat) : Bool := decide (w < 1024) && w * 8 % 512 / (if four then 128 else 256) == seg.toNat
/-- A word of 64 bits of a tile holds the scales of a segment of narrow elements (R217, R345). -/
def segScales (four : Bool) (seg : BitVec 2) (w : Nat) : Bool :=
  decide (1024 ≤ w) && (w - 1024) % 4 == (if four then seg.toNat else 2 * seg.toNat)

/-- An instruction reads a word of 64 bits of a tile (R122): of its sources the data, and the scales where it reads those (R351 to R355); `TCVT`
reads the scales of a narrow destination too (R354). -/
def readsWord (i : Instr) (u : Use) (n w : Nat) (act : List Thread) (fm : Nat → Word) : Bool :=
  let src := tilesHave u.trd n
  match i with
  | .tgetv _ _ _ _ b => src && act.any fun th => (th.r32 b).toNat / 8 == w
  | .tcvt _ _ df d _ sf seg _ =>
    (src && (if tcvtWide sf then decide (w < 1024) else segWord (codeFour sf fm) seg w || segScales (codeFour sf fm) seg w))
      || (!tcvtWide df && d.toNat == n && segScales (codeFour df fm) seg w)
  | .tadd .. | .ttrans .. | .tst .. => src && decide (w < 1024)
  | _ => src

/-- An instruction writes a word of 64 bits of one of its destination tiles whole (R122, R351, R354, R355). -/
def writesWord (i : Instr) (w : Nat) (fm : Nat → Word) : Bool :=
  match i with
  | .tsetv .. => false
  | .tscale .. => decide (1024 ≤ w)
  | .tcvt _ _ df _ _ _ seg _ =>
    tcvtWide df || segWord (codeFour df fm) seg w
  | _ => true

/-- The operands of an instruction that lie on storage with an uncorrectable ECC error (R122). -/
def State.eccBad (s : State) (i : Instr) (u : Use) (x : Convoy) : Bool :=
  let h := i.hd
  let t := s.tm x.key
  s.ecc.any fun e =>
    match e with
    | .vreg k tid r =>
      k == x.key && x.act.any (fun ln => tidOf x.q ln == tid)
        && u.rd.any fun o => decide (o.r.toNat ≤ r) && decide (r < o.r.toNat + o.n)
    | .pred k tid =>
      k == x.key && ((x.lanes.any (fun ln => tidOf x.q ln == tid) && h.any (fun h => h.pg != 0))
        || (x.act.any (fun ln => tidOf x.q ln == tid) && !u.prd.isEmpty))
    | .brec k n => k == x.key && !x.act.isEmpty && u.brd.any fun b => b.toNat == n
    | .fm k n => k == x.key && !x.act.isEmpty && u.frd.any fun b => b.toNat == n
    | .tile k n w =>
      k == x.key && !x.act.isEmpty && !i.queued && readsWord i u n w (x.act.map fun ln => t.lane x.q ln) t.fm
    | _ => false

/-- The errors that writing an instruction's results leaves (R122): a lane that stays at the instruction has written nothing. -/
def State.eccWritten (s : State) (i : Instr) (u : Use) (x : Convoy) : List EccSite :=
  let t := s.tm x.key
  let act := x.act.filter fun ln => let th := t.lane x.q ln; th.pc != x.pc || th.wait != .none
  s.ecc.filter fun e =>
    match e with
    | .vreg k tid r =>
      !(k == x.key && act.any (fun ln => tidOf x.q ln == tid)
        && u.wr.any fun o => decide (o.r.toNat ≤ r) && decide (r < o.r.toNat + o.n))
    | .pred k tid => !(k == x.key && act.any (fun ln => tidOf x.q ln == tid) && !u.pwr.isEmpty)
    | .brec k n => !(k == x.key && !act.isEmpty && u.bwr.any fun b => b.toNat == n)
    | .fm k n => !(k == x.key && !act.isEmpty && u.fwr.any fun b => b.toNat == n)
    | .tile k n w => !(k == x.key && !act.isEmpty && !i.queued && tilesHave u.twr n && writesWord i w t.fm)
    | _ => true

/-- The causes of decoding, which every member raises (R264, R265), and of the storage it reads (R122; log 28, DEDUCED). -/
def State.decodeHits (s : State) (i : Instr) (x : Convoy) : List Hit :=
  let t := s.tm x.key
  let hdr := (s.launchOf t).hdr
  let u := useAt i t hdr
  let fixed := match i with | .spawn .. => u | _ => i.use
  let ln := x.lanes.headD 0
  ((i.defects ++ allocDefects fixed hdr).map fun c => { ln := ln, c := c }) ++
    (if s.eccBad i u x then [{ ln, c := .integrity, detail := 2 }] else [])

/-- The team in focus runs its handler, so a cause at issue is the handler's own (R249). -/
def State.inHandler (s : State) (key : Nat) : Bool := (s.tm key).handling.isSome

/-- Every lane of the convoy stays at the instruction and the squad traps (R152, R243). -/
def State.trapAt (s : State) (x : Convoy) (hs : List Hit) : State :=
  (s.onTm x.key fun t => t.setSquad x.q { t.squad x.q with replay := [] }).raise x.key x.q x.pc hs (own := s.inHandler x.key)

/-- The instruction has issued in these lanes: it counts in their windows (R123), in the issues a halting squad may still
make (R243) and in the age of its formation (R94). -/
def State.issued (s : State) (x : Convoy) (lanes : List Nat) : State :=
  s.onTm x.key fun t =>
    let t := t.mapLanes x.q lanes fun _ th =>
      { th with windows := (th.windows.filter fun w => (s.flights.find w.op).isSome).map fun w =>
          { w with since := w.since + 1 } }
    let q := t.squad x.q
    t.setSquad x.q { q with sinceForm := q.sinceForm + 1, replay := []
                            run := match q.run with | .halting n => .halting (n - 1) | r => r }

/-- Lanes continue after the instruction. -/
def State.advance (s : State) (x : Convoy) (lanes : List Nat) (len : Nat) : State :=
  s.onTm x.key fun t => t.mapLanes x.q lanes fun _ th => { th with pc := x.pc + BitVec.ofNat 64 len }

/-- The convoy goes on with the member of the lowest `%ln` and those whose next PC equals its own (R119); members that
wait, sleep or have exited leave it. `last` says that a squad which may issue no more has issued its last instruction (R126). -/
def State.settle (s : State) (x : Convoy) (last : Bool := true) : State :=
  s.onTm x.key fun t =>
    let q := t.squad x.q
    let t := if last && q.run == .halting 0 then s.fixSkids t x.q else t
    let ok := q.convoy.filter fun ln => let th := t.lane x.q ln; !th.exited && th.wait == .none
    let c := match ok with
      | [] => []
      | l :: _ => ok.filter fun ln => (t.lane x.q ln).pc == (t.lane x.q l).pc
    let n := match q.run with | .halting 0 => true | _ => false
    t.setSquad x.q { q with convoy := if n || q.park.isSome then [] else c }

/-- The issue of an instruction (R152, R276): its sources are read here and its results are written only after every check. Nothing
issues where no convoy stands at it or it is not ready; the causes of decoding and of issue trap the whole squad together; otherwise the
instruction performs (log 4, DESIGN CHOICE). A convoy in the midst of it goes on. -/
def State.issue (s : State) (i : Instr) (causes : State → Convoy → List Hit) (body : State → Convoy → State) : State :=
  match s.slot i with
  | none => s
  | some x =>
    if ((s.tm x.key).squad x.q).amid?.isSome then (body s x).settle x false
    else if s.stalled i x then s
    else
      let hs := s.decodeHits i x ++ causes s x
      if hs.isEmpty then
        let s' := body s x
        (if s.ecc.isEmpty then s' else
          { s' with ecc := s'.eccWritten i (useAt i (s.tm x.key) (s.launchOf (s.tm x.key)).hdr) x }).settle x
      else s.trapAt x hs

/-- What an instruction does in one lane: the thread after it, the causes it raises there alone, and where it jumps. -/
structure LaneOut where
  th : Thread
  hits : List Hit := []
  jump : Option Dword := none
  deriving DecidableEq, Repr

/-- A lane after an instruction: a lane with a cause stays at it (R240). -/
def LaneOut.after (o : LaneOut) (old : Thread) (next : Dword) : Thread :=
  if o.hits.isEmpty then { o.th with pc := o.jump.getD next } else { o.th with pc := old.pc, windows := old.windows }

/-- An instruction performed lane by lane (R266, R276): inactive members continue; each active lane takes its result. -/
def State.perform (s : State) (i : Instr) (f : Team → Nat → Thread → LaneOut) (x : Convoy) : State :=
  let next := x.pc + BitVec.ofNat 64 i.len
  let old := s.tm x.key
  let s1 := s.issued x x.lanes
  let t := s1.tm x.key
  let outs := x.act.map fun ln => (ln, f t ln (t.lane x.q ln))
  let t1 := t.mapLanes x.q (x.lanes.filter fun ln => !x.act.contains ln) fun _ th => { th with pc := next }
  let t2 := outs.foldl (fun t o => t.setThread (tidOf x.q o.1) (o.2.after (old.lane x.q o.1) next)) t1
  (s1.setTm x.key t2).raise x.key x.q x.pc (outs.flatMap fun o => o.2.hits) (own := s.inHandler x.key)

/-- The meaning of an instruction that acts in each active lane on the lane's own thread. `pre` gives the causes that
keep every lane from performing (R152). -/
def State.lanewise (s : State) (i : Instr) (f : Team → Nat → Thread → LaneOut)
    (pre : Team → Nat → Thread → List Hit := fun _ _ _ => []) : State :=
  s.issue i (fun s x => x.act.flatMap fun ln => pre (s.tm x.key) ln ((s.tm x.key).lane x.q ln))
    (fun s x => s.perform i f x)

/-- The meaning of an instruction that acts once for its convoy, with the operands of its lowest active lane (R266). -/
def State.once (s : State) (i : Instr) (causes : State → Convoy → Nat → List Hit) (body : State → Convoy → Nat → State) :
    State :=
  s.issue i (fun s x => match x.act with | [] => [] | ln :: _ => causes s x ln) fun s x =>
    let s' := (s.issued x x.lanes).advance x x.lanes i.len
    match x.act with
    | [] => s'
    | ln :: _ => body s' x ln

end Machine
end Sys2Proof
end

