-- ==== Sys2Proof/Machine/Operands.lean ====
section
/-!
DEFINITION. Operand values: registers and immediates by type (R270, R283, R284), tag checks (R137, R138), and the results
that long-latency instructions bring later (R124).
-/
namespace Sys2Proof.Machine

/-- An operand that an R form takes from a register and an RI form from its immediate. -/
inductive Opb where
  | reg (r : BitVec 8)
  | imm (v : Word)
  deriving DecidableEq, Repr

/-- A type of 64 bits. -/
def wide (ty : BitVec 6) : Bool := tyBytes ty == 8
/-- The width of an integer or bit type in bits. -/
def tyWidth (ty : BitVec 6) : Nat := 8 * tyBytes ty
/-- A signed integer type: `.i32`, `.i64`, `.i8`, `.i16` (R267). -/
def signedTy (ty : BitVec 6) : Bool := ty.toNat ∈ [1, 25, 28, 31]

/-- An immediate under a type (R270): as it stands at 32 bits, sign-extended for `.i64` and `.b64`, else zero-extended. -/
def immBits (ty : BitVec 6) (v : Word) : Nat := if ty = 24 ∨ ty = 25 then (v.signExtend 64).toNat else v.toNat

/-- The bits of an operand under a type. -/
def Opb.bits (t : Thread) (ty : BitVec 6) : Opb → Nat
  | .reg r => t.bits (wide ty) r
  | .imm v => immBits ty v

/-- The value of integer bits under a type (R287). -/
def valOf (ty : BitVec 6) (bits : Nat) : Int := if signedTy ty then signedOf (tyWidth ty) bits else bits

/-- The value of an integer operand (R287). -/
def Opb.val (t : Thread) (ty : BitVec 6) (o : Opb) : Int := valOf ty (o.bits t ty)

/-- A 32-bit operand: counts, controls, masks, selectors (R284). -/
def Opb.word (t : Thread) : Opb → Word
  | .reg r => t.r32 r
  | .imm v => v

/-- The bits of an integer modulo 2^w. -/
def wrap (w : Nat) (z : Int) : Nat := (z % (2 : Int) ^ w).toNat

/-- The tags a typed source accepts (R138, R283): its own or raw; a type without a tag code, and every integer type of the
integer instructions, raw, i32 or n32. -/
def tagOk (ty : BitVec 6) (tag : Tag) : Bool :=
  tag == 0 || (if ty.toNat ∈ [1, 2] ∨ 24 ≤ ty.toNat then tag == 1 || tag == 2 else tag == tyTag ty)

/-- Every register of a source holds a tag the type accepts. -/
def Thread.tagged (t : Thread) (ty : BitVec 6) (r : BitVec 8) : Bool :=
  tagOk ty (t.reg r).2 && (!wide ty || tagOk ty (t.reg (r + 1)).2)

/-- The tags of an operand are accepted; an immediate has none. -/
def Opb.tagged (t : Thread) (ty : BitVec 6) : Opb → Bool
  | .reg r => t.tagged ty r
  | .imm _ => true

/-- A lane whose sources hold accepted tags performs; another raises `TAG_MISMATCH` and writes nothing (R138). -/
def LaneOut.checked (ok : Bool) (ln : Nat) (th : Thread) (o : LaneOut) : LaneOut :=
  if ok then o else { th, hits := [{ ln, c := .tagMismatch }] }

/-- A lookahead window opens for the operation (R123). -/
def Thread.window (t : Thread) (op : Nat) (la : BitVec 4) : Thread :=
  { t with windows := t.windows ++ [{ op, la := la.toNat, since := 0 }] }

/-- Put an operation in flight for lanes of a convoy and open its windows; `also` lists the members that issue it without an
access of their own. -/
def State.launchFlight (s : State) (x : Convoy) (h : Hd) (op : FlightOp) (lanes : List LaneAcc)
    (ord scp : BitVec 3 := 0) (also : List Nat := []) : State :=
  if lanes.isEmpty then s
  else
    let t := s.tm x.key
    let (k, s) := s.take
    let f : Flight :=
      { team := x.key, sq := x.q, core := t.core, pc := x.pc, op, ord, scp, lanes, fpctl := t.fpctl, hnd := s.inHandler x.key }
    let s := { s with flights := s.flights.put k f }
    s.onTm x.key fun t => t.mapLanes x.q (lanes.map (·.ln) ++ also).eraseDups fun _ th => th.window k h.la

/-- The meaning of a long-latency instruction of the pipelines (R124, R285): the operands are read at issue and the result
of each lane, with its flags, lands later; `f` answers none where a tag is not accepted. -/
def State.longLatency (s : State) (i : Instr) (h : Hd) (d : BitVec 8) (n : Nat) (tag : Tag)
    (f : Thread → Option (Nat × BitVec 5)) : State :=
  s.issue i (fun _ _ => []) fun s x =>
    let t := s.tm x.key
    let outs := x.act.map fun ln => (ln, f (t.lane x.q ln))
    let bad := (outs.filter fun o => o.2.isNone).map (·.1)
    let lanes : List LaneAcc := outs.filterMap fun (ln, o) =>
      o.map fun (v, fl) => { ln, va := 0, place := .oob, old := BitVec.ofNat 64 v, opb := fl.setWidth 64, performed := true }
    let go := x.lanes.filter fun ln => !bad.contains ln
    let s := ((s.issued x go).advance x go i.len).launchFlight x h (.result d n tag) lanes
    s.raise x.key x.q x.pc (bad.map fun ln => { ln, c := .tagMismatch }) (own := s.inHandler x.key)

end Sys2Proof.Machine
end

