-- ==== Sys2Proof/Machine/Flags.lean ====
section
/-!
DEFINITION. The floating-point flags of a thread and their enabled exceptions (R128, R144).
-/
namespace Sys2Proof.Machine

/-- The causes that flags raise under the enables of `%fpctl` (R128, R144). -/
def fpCauses (ctl : BitVec 3) (fl : BitVec 5) : List Cause :=
  (if fl.getLsbD 0 && ctl.getLsbD 0 then [.fpInvalid] else [])
    ++ (if fl.getLsbD 1 && ctl.getLsbD 1 then [.fpDivzero] else [])
    ++ (if fl.getLsbD 2 && ctl.getLsbD 2 then [.fpOverflow] else [])

/-- Flags are sticky (R144). -/
def Thread.flag (t : Thread) (fl : BitVec 5) : Thread := { t with flags := t.flags ||| fl }

/-- The outcome of a float instruction in a lane (R144): the flags are set; an enabled exception keeps the destination. -/
def fpOut (ctl : BitVec 3) (ln : Nat) (th : Thread) (fl : BitVec 5) (write : Thread → Thread) : LaneOut :=
  let th' := th.flag fl
  match fpCauses ctl fl with
  | [] => { th := write th' }
  | cs => { th := th', hits := cs.map fun c => { ln, c } }

end Sys2Proof.Machine
end

