-- ==== Sys2Proof/Machine/Address.lean ====
section
/-!
DEFINITION. Buffer records and lane addresses (R148 to R151, R327), the places accesses reach (R159, R160), and their
overlap (R154).
-/
namespace Sys2Proof.Machine

/-- The fields of a buffer record (R148). -/
structure Record where
  base : Nat
  extent : Nat
  stride : Nat
  space : Nat
  perm : BitVec 8
  swz : BitVec 8
  flags : BitVec 8
  last : Dword
  deriving DecidableEq, Repr

/-- The layout of a record (R148). -/
def recordOf (r : BitVec 256) : Record where
  base := (r.extractLsb' 0 64).toNat
  extent := (r.extractLsb' 64 64).toNat
  stride := (r.extractLsb' 128 32).toNat
  space := (r.extractLsb' 160 8).toNat
  perm := r.extractLsb' 168 8
  swz := r.extractLsb' 176 8
  flags := r.extractLsb' 184 8
  last := r.extractLsb' 192 64

/-- Out-of-bounds lanes are dropped (R151). -/
def Record.oobz (r : Record) : Bool := r.flags.getLsbD 0
/-- The index is an address (R151). -/
def Record.flat (r : Record) : Bool := r.flags.getLsbD 1
/-- SWZB (R148). -/
def Record.swzb (r : Record) : Nat := (r.swz.extractLsb' 0 3).toNat
/-- SWZS (R148). -/
def Record.swzs (r : Record) : Nat := (r.swz.extractLsb' 3 4).toNat
/-- The record names a scratchpad slice (R148). -/
def Record.scratch (r : Record) : Bool := r.space == 1 || (16 ≤ r.space && r.space ≤ 31)

/-- The limits of R149 that give `RESERVED_FIELD`; `size` is the slice size of the launch. -/
def Record.limits (r : Record) (size : Nat) : Bool :=
  r.stride ≤ 65536 && r.perm.extractLsb' 3 5 == 0 && !r.swz.getLsbD 7 && r.swzb ≤ 5 && r.flags.extractLsb' 2 6 == 0
    && r.last == 0 && (r.space == 0 || r.scratch) && (r.swzb == 0 || (5 ≤ r.swzs && r.swzs ≤ 15))
    && (r.space != 0 || (r.swz == 0 && r.base + r.extent ≤ 2 ^ 57))
    && (!r.scratch || (!r.flat && r.base + r.extent ≤ size))
    && (!r.flat || (r.space == 0 && r.base == 0 && r.extent == 2 ^ 57 && r.stride == 0))

/-- The number of teams of a team's ensemble (R84). -/
def State.ensTeams (s : State) (t : Team) : Nat := if t.stage = 0 then (s.launchOf t).hdr.enTeams else 1

/-- The causes of a record that an instruction writes into a buffer register (R149, R242): each of the three faults raises its own. -/
def State.recordFails (s : State) (t : Team) (v : BitVec 256) (n : BitVec 4) : List Fail :=
  let r := recordOf v
  let hdr := (s.launchOf t).hdr
  (if r.limits (hdr.scratch * 4096) then [] else [(.reservedField, 0)])
    ++ (if 16 ≤ r.space && r.space ≤ 31 && s.ensTeams t ≤ r.space - 16 then [(.permission, 5)] else [])
    ++ (if r.flat && (n != 15 || !hdr.flat) then [(.permission, 6)] else [])

/-- A right of a record: READ, WRITE or ATOMIC (R148). -/
inductive Right where | read | write | atomic
  deriving DecidableEq, Repr

/-- The record has the right. -/
def Record.has (r : Record) : Right → Bool
  | .read => r.perm.getLsbD 0 | .write => r.perm.getLsbD 1 | .atomic => r.perm.getLsbD 2

/-- A lane's address (R151): the exact offset, the address, and its causes or that it is out of bounds under OOBZ. -/
structure LaneAddr where
  ln : Nat
  off : Int
  addr : Dword
  oob : Bool
  hits : List Hit
  deriving DecidableEq, Repr

/-- The index of a FLAT record is an even pair (R121, R327). -/
def Record.pairOk (r : Record) (idx : BitVec 8) : Bool := !(r.flat && idx != 255 && (idx.getLsbD 0 || idx == 254))

/-- Form and check a lane's offset (R151, R327); an index that is no operand gives no address to check. -/
def Record.lane (r : Record) (right : Right) (size unit : Nat) (idx : BitVec 8) (imm : Int) (ln : Nat) (th : Thread) :
    LaneAddr :=
  let k : Nat := if idx = 255 then 0 else if r.flat then (th.r64 idx).toNat else (th.r32 idx).toNat
  let o : Int := (if r.flat then (k : Int) else (k * max r.stride 1 : Nat)) + imm
  let a : Int := r.base + o
  let addr := BitVec.ofInt 64 a
  let out := o < 0 || (r.extent : Int) < o + size
  let hit (c : Cause) (detail : Word) : Hit := { ln, c, addr, detail }
  let pair := r.pairOk idx
  let lim := if !r.has right then [hit .permission 1] else if pair && out && !r.oobz then [hit .bounds 0] else []
  { ln, off := o, addr, oob := pair && r.has right && out && r.oobz
    hits := (if pair then [] else [{ ln, c := .operandAlign }]) ++ lim ++
      if pair && a % (unit : Int) != 0 then [hit .align 0] else [] }

/-- The physical offset of a byte of a slice under a swizzle (R160); `swz` is the record's SWZ. -/
def swizzle (swz : Nat) (off : Nat) : Nat :=
  let b := swz % 8
  let w := off / 4
  4 * (w ^^^ ((w / 2 ^ (swz / 8)) % 2 ^ b)) + off % 4

/-- The number of bytes of a unit of an operation in flight: at most 8, the largest that is single-copy atomic (R168). -/
def FlightOp.size : FlightOp → Nat
  | .load ty _ | .store ty => min 8 (tyBytes ty)
  | .atomic _ ty _ | .cas ty _ => if tyBytes ty = 8 then 8 else 4
  | .brload _ => 8
  | .tld .. | .tst .. => 8
  | .result .. => 0

/-- Two accesses touch a common byte (R154). -/
def placesMeet (p : Place) (n : Nat) (q : Place) (m : Nat) : Bool :=
  match p, q with
  | .glob a, .glob b => a < b + m && b < a + n
  | .slice t a sa, .slice u b sb =>
    t == u && (List.range n).any fun j => (List.range m).any fun k => swizzle sa (a + j) == swizzle sb (b + k)
  | _, _ => false

/-- An earlier access of the thread that has not completed touches bytes of one of these (R154). -/
def State.ownOverlap (s : State) (key q : Nat) (n : Nat) (accs : List LaneAcc) : Bool :=
  s.flights.any fun (_, f) => f.team == key && f.sq == q && f.lanes.any fun l =>
    accs.any fun a => a.ln == l.ln && placesMeet a.place n l.place f.op.size

/-- The team of an ensemble by its index, while its slice lives (R159, R261). -/
def State.sliceTeam (s : State) (key : Nat) (t : Team) (space : Nat) : Option Nat :=
  if space = 1 then some key
  else (s.teams.find? fun u => u.2.launch == t.launch && u.2.ens == t.ens && u.2.tm == space - 16).map (·.1)

/-- A lane's access meets an armed watch range of its context (R259, R260). -/
def State.watched (s : State) (ctx : Nat) (u : Use4) (va n : Nat) : Bool :=
  (s.ctx ctx).watches.any fun w =>
    (match u with | .load => w.kind.getLsbD 0 | .store => w.kind.getLsbD 1 | .atomic => w.kind.getLsbD 2 | .fetch => false)
      && decide (w.lo < va + n) && decide (va < w.lo + w.len)

end Sys2Proof.Machine
end

