-- ==== Sys2Proof/Machine/Waits.lean ====
section
/-!
DEFINITION. Waits outside formation: named barriers (R195 to R201) and squad instructions (R96, R303), with the ends of
their waits and their misuses; the last exit of a squad (R245).
-/
namespace Sys2Proof.Machine

/-- The operation returns a value that its thread has not yet got. -/
def FlightOp.loads : FlightOp → Bool
  | .load .. | .brload .. | .tld .. | .cas .. => true
  | .atomic _ _ d => d.isSome
  | _ => false

/-- Some earlier load of a lane does not have its value: an arrival waits for it (R198, R305; log 33, DEDUCED). -/
def State.loadsOut (s : State) (key q ln : Nat) : Bool :=
  s.flights.any fun (_, f) => f.team == key && f.sq == q && f.op.loads && f.lanes.any fun l => l.ln == ln && !l.replied

/-- A thread goes on after the 8-byte instruction it waited at, also where it is halted (R201). -/
def Thread.past (t : Thread) (len : Nat := 8) : Thread :=
  { t with wait := .none, pc := t.pc + BitVec.ofNat 64 len
           haltPc := if t.haltPc = t.pc then t.pc + BitVec.ofNat 64 len else t.haltPc }

/-- The wait is one on a barrier for the phase of a parity. -/
def Wait.onPhase (w : Wait) (n : Nat) (parity : Bool) : Bool :=
  match w with | .barrier m tok _ => m == n && tok == parity | _ => false

/-- A held wait of the handling thread ends: its halt PC moves on, and `%hpc` where the handler has not changed it
(R201, R246). -/
def Team.heldPast (t : Team) : Team :=
  match t.phase with
  | .handler q ln hpc =>
    let th := t.lane q ln
    let next := th.haltPc + 8
    { t.setThread (tidOf q ln) { th with haltPc := next } with
      heldWait := .none, phase := .handler q ln (if hpc = th.haltPc then next else hpc) }
  | _ => t

/-- A phase completes where ARRIVED = EXPECTED and PENDING = 0 (R196): PHASE inverts, ARRIVED becomes 0, the waits for the
completed parity end. -/
def Team.complete (t : Team) (n : Nat) : Team :=
  let b := t.bar n
  if b.arrived = b.expected && b.pending = 0 then
    let t := t.setBar n { b with phase := !b.phase, arrived := 0 }
    let t : Team := { t with threads := t.threads.map fun th => if th.wait.onPhase n b.phase then th.past else th }
    if t.heldWait.onPhase n b.phase then t.heldPast else t
  else t

/-- One thread arrives at a barrier (R196, R198): the token it takes, and the team after. -/
def Team.arrive (t : Team) (n : Nat) : Bool × Team :=
  let b := t.bar n
  (b.phase, (t.setBar n { b with arrived := b.arrived + 1 }).complete n)

/-- A copy arrives at the barrier it is attached to (R196). -/
def Team.copyArrive (t : Team) (n : Nat) : Team :=
  let b := t.bar n
  (t.setBar n { b with pending := b.pending - 1 }).complete n

/-- A thread of the team waits on the barrier. -/
def Team.waitsOn (t : Team) (n : Nat) : Bool :=
  (t.heldWait.onPhase n true || t.heldWait.onPhase n false) ||
    t.threads.any fun th => th.wait.onPhase n true || th.wait.onPhase n false

/-- The wait is on a barrier. -/
def Wait.isBarrier : Wait → Bool | .barrier .. => true | _ => false

/-- Every thread of the team that has not exited waits on a barrier that can never complete (R200; log 61, DEDUCED). -/
def Team.deadlocked (t : Team) : Bool :=
  t.phase == .running && !t.halting && !t.ended
    && (t.threads.all fun th => th.exited || th.wait.isBarrier)
    && (t.bars.all fun b => b.pending == 0)
    && (t.squads.all fun q => q.run == .running && q.park.isNone)

/-- The cause of R200 in every squad with a waiting thread (log 61, DEDUCED). -/
def State.deadlock (s : State) (key : Nat) : State :=
  let t := s.tm key
  if t.deadlocked then
    (List.range t.squads.length).foldl (fun s q =>
      match t.live q with
      | [] => s
      | ln :: _ => s.raise key q (t.lane q ln).pc [{ ln, c := .barrierMisuse, detail := 4 }]) s
  else s

/-- Site and mask of a thread that waits in a squad instruction. -/
def Thread.atSquad (t : Thread) : Option (Dword × Word) :=
  match t.wait with | .squad _ m .. => some (t.pc, m) | _ => none

/-- An arrival that no longer counts: the thread makes it again when it is resumed (R303; log 36, DEDUCED). -/
def Thread.unarrive (t : Thread) : Thread :=
  { t with wait := .none, windows := t.windows.map fun w => { w with since := w.since - 1 } }

/-- `SQSYNC_MISUSE` for lanes of a squad (R303): their arrivals, and those of the threads whose masks name them, are
discarded. `fresh` is a lane whose arrival is being made (log 36, DEDUCED). -/
def State.misuse (s : State) (key q : Nat) (pc : Dword) (bad : List Nat) (fresh : Option Nat) : State :=
  let t := s.tm key
  let drop := (List.range 32).filter fun ln =>
    match (t.lane q ln).atSquad with
    | some (_, m) => bad.contains ln || bad.any fun b => m.getLsbD b
    | none => fresh == some ln
  let s := s.onTm key fun t => t.mapLanes q drop fun _ th => th.unarrive
  s.raise key q pc [{ ln := bad.headD 0, c := .sqsyncMisuse }] (own := s.inHandler key)

/-- The whole squad waits in squad instructions that can never complete (R96). -/
def State.stuck (s : State) (key q : Nat) : State :=
  let t := s.tm key
  let live := t.live q
  match live with
  | [] => s
  | ln :: _ =>
    if t.handling.isNone && live.all fun l => (t.lane q l).atSquad.isSome then s.misuse key q (t.lane q ln).pc live none else s

/-- The engine has ended every operation and fill of a squad (R245). -/
def State.engineIdle (s : State) (key q : Nat) : Bool :=
  let t := s.tm key
  let e := (s.core t.core).engine
  let ofSq : EngineOp → Bool | .mswap k => k == q | .mma k .. => k == q
  e.owner != some key || (!(s.engineOps key t).any ofSq && !(e.fill.any fun f => f.sq == q))

/-- Lanes of a squad end (R300): threads that wait for them in a squad instruction take its misuse (R303; log 23, DEDUCED). -/
def State.exitLanes (s : State) (x : Convoy) (lanes : List Nat) : State :=
  let s := s.onTm x.key fun t => t.mapLanes x.q lanes fun _ th => { th with exited := true }
  let t := s.tm x.key
  let named := (List.range 32).filter fun ln =>
    match (t.lane x.q ln).atSquad with | some (_, m) => lanes.any fun b => m.getLsbD b | none => false
  let s := match named with
    | [] => s
    | ln :: _ => s.misuse x.key x.q (t.lane x.q ln).pc named none
  (s.stuck x.key x.q).deadlock x.key

end Sys2Proof.Machine
end

