-- ==== Sys2Proof/Machine/Access.lean ====
section
/-!
DEFINITION. Accesses to memory and scratchpad: their issue and parking (R152, R158), their performance at the caches and the
home slices (R45, R153, R154, R162 to R164), their replies and completion (R124).
-/
namespace Sys2Proof.Machine

/-- Where a lane's unit of access lies: a place, an absent page, or a failure of that lane. -/
inductive Spot where
  | found (p : Place) (noL1 : Bool)
  | absent
  | bad (f : Fail)
  deriving DecidableEq, Repr

/-- Locate an address of a record for a team (R155, R159). -/
def State.spot (s : State) (key : Nat) (r : Record) (u : Use4) (va n : Nat) : Spot × State :=
  let t := s.tm key
  if r.space != 0 then
    match s.sliceTeam key t r.space with
    | none => (.bad (.permission, 5), s)
    | some k => (.found (.slice k va r.swz.toNat) true, s)
  else
    let l := s.launchOf t
    match s.translate t.core l.world l.asid va u with
    | (.absent, s) => (.absent, s)
    | (.fail f, s) => (.bad f, s)
    | (.ok k leaf, s) =>
      if s.watched l.ctx u va n then (.bad (.watch, 0), s) else (.found (.glob k) (leaf.getLsbD 3 || !isLocal k), s)

/-- What locating the units of an access has found so far: units in place, pages to request, lanes that failed. -/
structure Found where
  accs : List LaneAcc := []
  /-- Absent pages: the lane, its address and the address there. -/
  pages : List (Nat × Dword × Dword) := []
  fails : List Hit := []

/-- What two searches have found, in order. -/
def Found.and (x y : Found) : Found := { accs := x.accs ++ y.accs, pages := x.pages ++ y.pages, fails := x.fails ++ y.fails }

/-- Locate the units of one lane, at offsets from its address; out of bounds units need no place (R151, R349). -/
def State.locate (s : State) (key : Nat) (r : Record) (u : Use4) (n : Nat) (la : LaneAddr) (oob : Nat → Bool)
    (fill : Nat → LaneAcc → LaneAcc) : List Nat → Found × State
  | [] => ({}, s)
  | o :: os =>
    let va := la.addr + BitVec.ofNat 64 o
    let acc : LaneAcc := fill o { ln := la.ln, va, base := la.addr, place := .oob }
    let (x, s) : Found × State := if la.oob || oob o then ({ accs := [{ acc with performed := true }] }, s)
      else match s.spot key r u va.toNat n with
        | (.absent, s) => ({ pages := [(la.ln, la.addr, va)] }, s)
        | (.bad f, s) => ({ fails := [{ ln := la.ln, c := f.1, addr := la.addr, detail := f.2 }] }, s)
        | (.found p noL1, s) => ({ accs := [{ acc with place := p, noL1 }] }, s)
    let (y, s) := s.locate key r u n la oob fill os
    (x.and y, s)

/-- The squad parks on the absent pages of an instruction, with one request for each (R158): `pages` gives the lane, the lane's
address and the address in the page. A page is here a piece of 64 KiB, whatever the level of the absent entry (log 81, DESIGN CHOICE). -/
def State.parkAt (s : State) (x : Convoy) (asid : Nat) (u : Use4) (pages : List (Nat × Dword × Dword)) : State :=
  let step (acc : List (Nat × Nat × Nat × Dword) × State) (p : Nat × Dword × Dword) : List (Nat × Nat × Nat × Dword) × State :=
    let page := p.2.2.toNat / 65536
    match acc.1.find? fun f => f.1 == page with
    | some f => (acc.1 ++ [(page, f.2.1, p.1, p.2.1)], acc.2)
    | none =>
      let (k, s) := acc.2.pageReq asid p.2.2 u
      (acc.1 ++ [(page, k, p.1, p.2.1)], s)
  let (found, s) := pages.foldl step ([], s)
  let faults := found.map (·.2)
  let reqs := (faults.map (·.1)).eraseDups
  s.onTm x.key fun t =>
    let q := t.squad x.q
    t.setSquad x.q { q with park := some { lanes := x.lanes, reqs, faults } }

/-- The key of a unit's place in global memory. -/
def LaneAcc.key? (a : LaneAcc) : Option Nat := match a.place with | .glob k => some k | _ => none
/-- The line of a unit's place in global memory. -/
def LaneAcc.line? (a : LaneAcc) : Option Nat := a.key?.map (· / 128)
/-- The line of another device that a unit lies in. -/
def LaneAcc.farLine? (a : LaneAcc) : Option Nat := (a.key?.filter isRemote).map (· / 128)

/-- The message of the units of an operation that lie in one line of another device (R19, R153): a load asks for the bytes from the lowest up; of two
lanes that store a byte the later counts. -/
def lineMsg (op : FlightOp) (dev : Nat) (w : World) (scp : BitVec 3) (as : List LaneAcc) : FabMsg :=
  let ks := as.filterMap LaneAcc.key?
  let lo := ks.foldl min (ks.headD 0)
  let hi := as.foldl (fun m a => max m (a.key?.getD 0 + max op.size a.data.length)) 0
  let off (a : LaneAcc) : Nat := a.key?.getD 0 % 128
  let data : List Byte := match op with
    | .store _ | .tst .. => storeSlots (lo / 128 * 128) (as.flatMap fun a => cellsAt (a.key?.getD 0) a.data)
    | .atomic .. => operandSlots op.size (as.map fun a => (off a, [a.opb]))
    | .cas .. => operandSlots op.size (as.map fun a => (off a, [a.opb, a.opc]))
    | _ => []
  { src := BitVec.ofNat 20 dev, world := w, addr := BitVec.ofNat 64 (lo - 2 ^ 65), scope := scp.toNat
    op := match op with
      | .store _ | .tst .. => .store
      | .atomic o ty _ => .atomic o ty
      | .cas ty _ => .cas ty
      | _ => .load (hi - lo)
    data, checkLo := (carried data).1, checkHi := (carried data).2 }

/-- Send the requests of the units of an operation that leave the device, one for each line (R15, R20, R31, R153): the lines whose request
cannot be sent, with their failures. -/
def State.sendAll (s : State) (l : Launch) (k : Nat) (op : FlightOp) (scp : BitVec 3) (as : List LaneAcc) :
    List (Nat × Fail) × State :=
  (as.filterMap LaneAcc.farLine?).eraseDups.foldl (fun acc line =>
    let group := as.filter fun a => a.farLine? == some line
    match acc.2.sendReq l.ctx (deviceOf (128 * line)) (lineMsg op acc.2.device l.world scp group)
        (match op with | .load .. | .brload _ | .tld .. => false | _ => true) k with
    | .ok s => (acc.1, s)
    | .error f => (acc.1 ++ [(line, f)], acc.2)) ([], s)

/-- The failure of a unit whose request could not be sent. -/
def LaneAcc.unsent (a : LaneAcc) (bad : List (Nat × Fail)) : Option Fail := (bad.find? fun b => a.farLine? == some b.1).map (·.2)

/-- The parameters of an access instruction after its checks at issue. -/
structure Access where
  i : Instr
  h : Hd
  r : Record
  use : Use4
  op : FlightOp
  ord : BitVec 3
  scp : BitVec 3
  offs : List Nat
  /-- A unit at an offset that is out of bounds on its own (R349). -/
  oob : LaneAddr → Nat → Bool := fun _ _ => false
  fill : Nat → Nat → LaneAcc → LaneAcc := fun _ _ a => a

/-- The order has a release side, an acquire side (R170, R173). -/
def isRel (ord : BitVec 3) : Bool := ord == 3 || ord == 4 || ord == 5
/-- The order has an acquire side. -/
def isAcq (ord : BitVec 3) : Bool := ord == 2 || ord == 4 || ord == 5

/-- The operation acts once for its convoy (R335, R347; log 29, DEDUCED). -/
def FlightOp.once : FlightOp → Bool
  | .brload _ | .tld .. | .tst .. => true
  | _ => false

/-- Locate the units of all lanes of an access, in order (R151, R155). -/
def State.located (s : State) (key : Nat) (p : Access) : List LaneAddr → Found × State
  | [] => ({}, s)
  | la :: las =>
    let (x, s) := s.locate key p.r p.use p.op.size la (p.oob la) (p.fill la.ln) p.offs
    let (y, s) := s.located key p las
    (x.and y, s)

/-- Issue an access in lanes whose checks have passed (R152, R153, R154, R158): a page fault parks the squad and nothing
performs, unless a lane has a cause at issue, which traps (R344); an access that overlaps an uncompleted one of its thread, or a release with earlier loads without their value,
does not issue; lanes that fail keep their PC, and all active lanes where the operation acts once for them (R243); the others
are in flight. `bad` lists lanes with a tag not accepted (log 12, DEDUCED; log 27, DEDUCED; log 29, DEDUCED). -/
def State.accessIn (s0 : State) (x : Convoy) (p : Access) (las : List LaneAddr) (bad : List Nat) : State :=
  let t := s0.tm x.key
  let l := s0.launchOf t
  let (fd, s) := s0.located x.key p (las.filter fun la => !bad.contains la.ln)
  if !fd.pages.isEmpty then
    (if bad.isEmpty then s.parkAt x l.asid p.use fd.pages
     else s.trapAt x (bad.map fun ln => { ln, c := .tagMismatch }))
  else if s.ownOverlap x.key x.q p.op.size fd.accs || (isRel p.ord && las.any fun la => s.loadsOut x.key x.q la.ln) then s0
  else
    let (rel, s) : Option Release × State := if isRel p.ord && !fd.accs.isEmpty then
        (let (r, s) := s.startRelease (some t.core) l.ctx p.scp.toNat; (some r, s)) else (none, s)
    let (lost, s) : List (Nat × Fail) × State := if rel.isSome then ([], s) else s.sendAll l s.fresh p.op p.scp fd.accs
    let fails := fd.fails ++ fd.accs.filterMap fun a =>
      (a.unsent lost).map fun f => ({ ln := a.ln, c := f.1, addr := a.base, detail := f.2 } : Hit)
    let units := (match p.op with | .tst .. => true | _ => false)
    let failed (ln : Nat) : Bool := if p.op.once then !fails.isEmpty && x.act.contains ln else fails.any fun h => h.ln == ln
    let accs := fd.accs.filter fun a => (a.unsent lost).isNone && (units || !failed a.ln)
    let go := x.lanes.filter fun ln => !bad.contains ln && !failed ln
    let s := ((s.issued x go).advance x go p.i.len).launchFlight x p.h p.op accs p.ord p.scp
      (if p.op.once then x.act else [])
    let s : State := match rel with
      | some r => { s with flights := s.flights.map fun f =>
          if f.2.team == x.key && f.2.sq == x.q && f.1 + 1 == s.fresh then (f.1, { f.2 with rel := some r }) else f }
      | none => s
    let hs := fails ++ bad.map fun ln => ({ ln, c := .tagMismatch } : Hit)
    if p.op.once then s.raise x.key x.q x.pc hs (own := s.inHandler x.key)
    else hs.foldl (fun s h => s.raise x.key x.q x.pc [h] (own := s.inHandler x.key)) s

/-- Bytes of a slice through a swizzle. -/
def Team.sliceRead (t : Team) (off swz n : Nat) : List Byte :=
  (List.range n).map fun k => t.slice.look 0 (swizzle swz (off + k))
/-- Write bytes of a slice through a swizzle. -/
def Team.sliceWrite (t : Team) (off swz : Nat) : Nat → List Byte → Team
  | _, [] => t
  | k, b :: bs => Team.sliceWrite { t with slice := t.slice.store 0 (swizzle swz (off + k)) b } off swz (k + 1) bs

/-- Some word of a slice access has an uncorrectable ECC error (R122, R159; log 58, DESIGN CHOICE). -/
def State.sliceEcc (s : State) (k off swz n : Nat) : Bool :=
  s.ecc.any fun e => match e with
    | .slice t w => t == k && (List.range n).any fun j => swizzle swz (off + j) / 4 == w
    | _ => false

/-- A wholly written word of a slice has no ECC error any more. -/
def State.sliceMend (s : State) (k off swz n : Nat) : State :=
  { s with ecc := s.ecc.filter fun e => match e with
      | .slice t w => !(t == k && (List.range 4).all fun b => (List.range n).any fun j => swizzle swz (off + j) == 4 * w + b)
      | _ => true }

/-- Read from a slice for an access (R122, R159, R261). -/
def State.sliceLoad (s : State) (k off swz n : Nat) : Except Fail (List Byte) :=
  match s.teams.find k with
  | none => .error (.permission, 5)
  | some t => if s.sliceEcc k off swz n then .error (.integrity, 2) else .ok (t.sliceRead off swz n)

/-- Write to a slice for an access. -/
def State.sliceStore (s : State) (k off swz : Nat) (bs : List Byte) : Except Fail State :=
  match s.teams.find k with
  | none => .error (.permission, 5)
  | some t => .ok ((s.setTm k (t.sliceWrite off swz 0 bs)).sliceMend k off swz bs.length)

/-- A line of a list of held lines. -/
def lineFind (ls : List CLine) (key : Nat) : Option CLine := ls.find? fun l => l.key == key / 128 * 128
/-- The bytes of a held line from a key. -/
def CLine.part (l : CLine) (key n : Nat) : List Byte := (l.bytes.drop (key % 128)).take n
/-- Enter a line, dropping the oldest beyond the capacity (log 11, DESIGN CHOICE). -/
def lineAdd (cap : Nat) (l : CLine) (ls : List CLine) : List CLine := (l :: ls.filter fun x => x.key != l.key).take cap

/-- Fill a line into a core's L1 where its check values hold (R43, R163). -/
def State.fillL1 (s : State) (c key : Nat) : State :=
  let line := key / 128 * 128
  if s.halfOk line && s.halfOk (line + 64) && !(s.line line).poison then
    let x := s.core c
    s.setCore c { x with l1d := lineAdd 2048 { key := line, bytes := s.read line 128 } x.l1d }
  else s

/-- Drop a line from a core's L1. -/
def State.dropL1 (s : State) (c key : Nat) : State :=
  let x := s.core c
  if x.l1d.any fun l => l.key == key / 128 * 128 then
    s.setCore c { x with l1d := x.l1d.filter fun l => l.key != key / 128 * 128 } else s

/-- A store updates a copy of its line already in the issuing core's L1 (R163). -/
def State.updateL1 (s : State) (c key : Nat) (bs : List Byte) : State :=
  let x := s.core c
  if x.l1d.any fun l => l.key == key / 128 * 128 then
    s.setCore c { x with l1d := x.l1d.map fun l =>
      if l.key == key / 128 * 128 then
        { l with bytes := l.bytes.take (key % 128) ++ bs ++ l.bytes.drop (key % 128 + bs.length) } else l }
  else s

/-- The cache action of an acquire at a scope (R163). -/
def State.acquire (s : State) (c : Nat) (scope : Nat) : State :=
  let s := if 2 ≤ scope then (let x := s.core c; if x.l1d.isEmpty then s else s.setCore c { x with l1d := [] }) else s
  if 4 ≤ scope then { s with remote := [] } else s

/-- The world of a team's accesses. -/
def State.worldOf (s : State) (key : Nat) : World := (s.launchOf (s.tm key)).world

/-- Copies of a line held for a core follow what its load has read at the line's home, so that no later load of the core returns an older
value (R172; log 66, DEDUCED). -/
def State.followRead (s : State) (core key : Nat) (bs : List Byte) : State :=
  let x := s.core core
  if isRemote key then s.follow (cellsAt key bs)
  else if (lineFind x.l1d key).isSome then s.setCore core { x with l1d := patchLines (cellsAt key bs) x.l1d } else s

/-- The remote partition may hold a line (R164): a line of another device of the domain, for a scope below it. -/
def State.partitioned (s : State) (scope key : Nat) : Bool := isRemote key && scope ≤ 3 && s.sameDomain (deviceOf key)

/-- A load of global memory at a scope (R163, R164): served by the core's L1 or the remote partition where the scope allows
and the reply says so, from a remote line of its own world (R33, R36; log 66, DEDUCED), else read at the home, as an `.sc` load always is (R173). -/
def State.loadGlob (s : State) (core : Nat) (w : World) (ord scp : BitVec 3) (noL1 : Bool) (key n : Nat) (hit : Bool)
    (res : FabricRes) : Except Fail (List Byte) × State :=
  let cached := if !hit || ord == 5 then none
    else if isLocal key && scp.toNat ≤ 1 && !noL1 then (lineFind (s.core core).l1d key).filter fun _ => (s.reach w key n).isNone
    else if s.partitioned scp.toNat key then (lineFind s.remote key).filter fun l => l.world == w && s.exists_ w else none
  match cached with
  | some l => (.ok (l.part key n), s)
  | none =>
    match s.load w key n res with
    | .error f => (.error f, s)
    | .ok bs =>
      let s := s.followRead core key bs
      let s := if isLocal key && scp.toNat ≤ 1 && !noL1 then s.fillL1 core key
        else if s.partitioned scp.toNat key then
          { s with remote := lineAdd 4096 { key := key / 128 * 128, bytes := s.read (key / 128 * 128) 128, world := w } s.remote }
        else s
      (.ok bs, s)

/-- An operation accepted earlier by the same core writes bytes of the access and has not performed there (R154, R163). -/
def State.earlierWrite (s : State) (k core : Nat) (p : Place) (n : Nat) : Bool :=
  s.flights.any fun (j, f) => decide (j < k) && f.core == core && f.writes
    && f.lanes.any fun a => !a.performed && placesMeet p n a.place f.op.size

/-- The new value of an atomic in flight; none where a compare fails (R162). -/
def FlightOp.update (op : FlightOp) (a : LaneAcc) (old : Nat) : Option Nat :=
  match op with
  | .atomic o ty _ => some (atomNew o ty old a.opb.toNat)
  | .cas .. => if old = a.opb.toNat then some a.opc.toNat else none
  | _ => none

/-- Perform one atomic (R162, R163): the old value. -/
def State.atomAcc (s : State) (f : Flight) (a : LaneAcc) (res : FabricRes) : Except Fail Nat × State :=
  let n := f.op.size
  match a.place with
  | .oob => (.ok 0, s)
  | .glob key =>
    match s.atomic (s.worldOf f.team) key n (f.op.update a) res with
    | .error e => (.error e, s)
    | .ok (old, s) => (.ok old, s.dropL1 f.core key)
  | .slice k off swz =>
    match s.sliceLoad k off swz n with
    | .error e => (.error e, s)
    | .ok bs =>
      let old := ofBytes bs
      match f.op.update a old with
      | none => (.ok old, s)
      | some v =>
        match s.sliceStore k off swz (toBytes n v) with
        | .error e => (.error e, s)
        | .ok s => (.ok old, s)

/-- Write bytes into the registers from one up, with their tag (R329). -/
def Thread.putBytes (t : Thread) (d : BitVec 8) (tag : Tag) : Nat → List Byte → Thread
  | 0, _ => t
  | n + 1, bs => (t.setReg d (BitVec.ofNat 32 (ofBytes (bs.take 4))) tag).putBytes (d + 1) tag n (bs.drop 4)

/-- Causes of an operation in flight in some lanes (R152, R243): its squad takes them; where a thread has issued nothing since,
its halt PC is the instruction. -/
def State.failHits (s : State) (k : Nat) (f : Flight) (lanes : List Nat) (hs : List Hit) : State :=
  let s := s.onTm f.team fun t =>
    t.mapLanes f.sq lanes fun _ th =>
      if th.windows.any fun w => w.op == k && w.since == 0 then { th with pc := f.pc } else th
  s.raise f.team f.sq f.pc hs (own := f.hnd)

/-- A unit of an operation in flight fails. An operation that acts once takes its causes when it completes. -/
def State.failLane (s : State) (k : Nat) (f : Flight) (a : LaneAcc) (e : Fail) : State :=
  if f.op.once then s else s.failHits k f [a.ln] [{ ln := a.ln, c := e.1, addr := a.base, detail := e.2 }]

/-- A unit that has failed. -/
def LaneAcc.fail (a : LaneAcc) (e : Fail) : LaneAcc := { a with performed := true, failed := true, why := some e }

/-- The results of a lane's units land in its registers (R329, R333). -/
def FlightOp.land (op : FlightOp) (as : List LaneAcc) (th : Thread) : Thread :=
  match op with
  | .load ty d => th.putBytes d (tyTag ty) ((tyBytes ty + 3) / 4) (as.flatMap (·.data))
  | .atomic _ ty (some d) | .cas ty d => th.setBits (tyBytes ty == 8) d ((as.map LaneAcc.old).headD 0).toNat (tyTag ty)
  | _ => th

/-- The operation whose release has performed is sent; units that cannot be sent fail (R25, R31). -/
def State.sendLate (s : State) (k : Nat) (f : Flight) : Flight × State :=
  let (lost, s) := s.sendAll (s.launchOf (s.tm f.team)) k f.op f.scp f.lanes
  let f' := { f with rel := none, lanes := f.lanes.map fun a =>
    (match a.unsent lost with | some e => { a.fail e with replied := true } | none => a) }
  let s := { s with flights := s.flights.put k f' }
  (f', f.lanes.foldl (fun s a => (match a.unsent lost with | some e => s.failLane k f' a e | none => s)) s)

/-- A release that an operation performs before it writes is carried on: whether it has performed (R163, R170). -/
def State.pumpFlight (s : State) (k : Nat) (f : Flight) : Bool × Flight × State :=
  match f.rel with
  | none => (true, f, s)
  | some r =>
    let (r, s) := s.pumpRelease r
    if r.done then (let (f, s) := s.sendLate k f; (true, f, s))
    else
      let f := { f with rel := some r }
      (false, f, { s with flights := s.flights.put k f })

/-- The units of a load that a reply reads perform (R153, R154): those of a line together, those of one place of a slice once. -/
def State.readUnits (s : State) (k : Nat) (f : Flight) (want : LaneAcc → Bool) (hit : Bool) (res : FabricRes) :
    List LaneAcc → List LaneAcc × State
  | [] => ([], s)
  | a :: as =>
    let n := f.op.size
    let (a', s) : LaneAcc × State :=
      if a.performed || !want a then (a, s)
      else
        let r : Except Fail (List Byte) × State := match a.place with
          | .oob => (.ok (List.replicate n 0), s)
          | .slice t off swz => (s.sliceLoad t off swz n, s)
          | .glob key => s.loadGlob f.core (s.worldOf f.team) f.ord f.scp a.noL1 key n hit res
        match r with
        | (.ok bs, s) => ({ a with performed := true, data := bs }, s)
        | (.error e, s) => (a.fail e, s.failLane k f a e)
    let (rest, s) := State.readUnits s k f want hit res as
    (a' :: rest, s)

/-- The units of a store or an atomic to slices that a reply selects perform, in ascending lanes where they meet (R153, R333): `before` are
the units ahead that have not performed, `sel` chooses by the position modulo 32. -/
def State.sliceUnits (s : State) (k : Nat) (f : Flight) (sel : Word) : List LaneAcc → List LaneAcc → Nat → List LaneAcc × State
  | _, [], _ => ([], s)
  | before, a :: as, j =>
    let n := f.op.size
    let (a', s) : LaneAcc × State :=
      if a.performed || !sel.getLsbD (j % 32) || (before.any fun b => placesMeet a.place n b.place n)
          || s.earlierWrite k f.core a.place n then (a, s)
      else match a.place with
      | .glob _ => (a, s)
      | .oob => ({ a with performed := true }, s)
      | .slice t off swz =>
        match f.op with
        | .store _ | .tst .. =>
          (match s.sliceStore t off swz a.data with
            | .ok s => ({ a with performed := true }, s)
            | .error e => (a.fail e, s.failLane k f a e))
        | _ =>
          (match s.atomAcc f a .ok with
            | (.ok v, s) => ({ a with performed := true, old := BitVec.ofNat 64 v }, s)
            | (.error e, s) => (a.fail e, s.failLane k f a e))
    let (rest, s) := State.sliceUnits s k f sel (if a'.performed then before else before ++ [a']) as (j + 1)
    (a' :: rest, s)

/-- Two units of a load share one read (R153): they lie in one line, or at one place of a slice. -/
def LaneAcc.shares (a b : LaneAcc) : Bool := if a.line?.isSome then a.line? == b.line? else a.place == b.place

/-- The units of an operation that perform at a reply, where they have not performed before: loads, and every access of a slice. `sel`
chooses units by their position modulo 32 (log 26, DESIGN CHOICE). -/
def State.performUnits (s : State) (k : Nat) (f : Flight) (sel : Word) (hit : Bool) (res : FabricRes) : List LaneAcc × State :=
  if f.writes then s.sliceUnits k f sel [] f.lanes 0
  else
    let left := f.lanes.filter fun a => !a.performed
    let asked := (f.lanes.mapIdx fun j a => (j, a)).filterMap fun x => if x.2.performed || !sel.getLsbD (x.1 % 32) then none else some x.2
    let free := (asked.foldl (fun (g : List LaneAcc) a => if g.any a.shares then g else g ++ [a]) []).filter fun a =>
      !left.any fun b => a.shares b && s.earlierWrite k f.core b.place f.op.size
    s.readUnits k f (fun a => free.any a.shares) hit res f.lanes

/-- The results of a lane land in its registers once all its units have replied and none has failed (R124, R329). -/
def State.landLanes (s : State) (f : Flight) (new : List LaneAcc) : State :=
  let open_ := (f.lanes.filter fun a => !a.replied).map (·.ln)
  open_.eraseDups.foldl (fun s ln =>
    let us := new.filter fun a => a.ln == ln
    if us.all fun a => a.replied && !a.failed then
      s.onTm f.team fun t => t.setThread (tidOf f.sq ln) (f.op.land us (t.lane f.sq ln))
    else s) s

/-- The replies of some units land (R124): `sel` chooses them by their position modulo 32. -/
def State.landUnits (s : State) (k : Nat) (f : Flight) (sel : Word) (hit : Bool) (res : FabricRes) : List LaneAcc × State :=
  let (us, s) := s.performUnits k f sel hit res
  let new := us.mapIdx fun j a =>
    if a.performed && sel.getLsbD (j % 32) then
      { a with replied := true, data := if a.place == .oob && !f.writes then List.replicate f.op.size 0 else a.data }
    else a
  (new, s.landLanes f new)

/-- The tiles that a suspect result of a team locks (R228). -/
def State.lockedTiles (s : State) (key : Nat) : List (BitVec 6 × Nat) :=
  let e := (s.core (s.tm key).core).engine
  match e.owner == some key, e.suspect with
  | true, some x => x.op.reads ++ x.op.writes
  | _, _ => []

/-- A tile instruction that would write a locked tile (R228, R346). -/
def State.lockHits (s : State) (key ln : Nat) (ts : List (BitVec 6 × Nat)) : List Hit :=
  if tilesMeet ts (s.lockedTiles key) then [{ ln, c := .permission, detail := 3 }] else []

/-- The tag a tile load writes for its type (R348). -/
def tileTag (ty : BitVec 6) : Tag :=
  match ty.toNat with | 28 => 7 | 29 => 8 | 34 => 12 | 35 => 13 | 36 => 14 | _ => tyTag ty

/-- The bytes of words of 4, as the bytes of their low and of their high halves (R348). -/
def dealHalves : List Byte → List Byte × List Byte
  | a :: b :: c :: d :: bs => let r := dealHalves bs; (a :: b :: r.1, c :: d :: r.2)
  | _ => ([], [])

/-- A tile takes bytes, its scales become the unit scale, and its tag is set (R348, R349). -/
def Team.loadTile (t : Team) (d : BitVec 6) (ty : BitVec 6) (bs : List Byte) : Team :=
  let one (t : Team) (k : Nat) (bs : List Byte) : Team := t.setTile k { data := Map.sparse 0 0 bs, scales := [], tag := tileTag ty }
  if ty = 3 then (let h := dealHalves bs; one (one t d.toNat h.1) (d.toNat + 1) h.2) else one t d.toNat bs

/-- An operation in flight whose replies have all landed completes (R124, R170): a record or tile is written, an acquire
applies its cache action, and the operation leaves. A tile that is locked by then is not written (R228). -/
def State.finish (s : State) (k : Nat) (f : Flight) : State :=
  let ok := f.lanes.all fun a => !a.failed
  let bytes := f.lanes.flatMap (·.data)
  let causes : List Hit := f.lanes.filterMap fun a => a.why.map fun e => { ln := a.ln, c := e.1, addr := a.base, detail := e.2 }
  let s := if f.op.once && !ok then s.failHits k f (List.range 32) causes else s
  let s := match f.op with
    | .brload d =>
      if ok then
        let v : BitVec 256 := BitVec.ofNat 256 (ofBytes bytes)
        match s.recordFails (s.tm f.team) v d with
        | [] => s.onTm f.team fun t => t.setBrec d v
        | es => s.failHits k f (List.range 32) (es.map fun (e : Fail) => { c := e.1, detail := e.2 })
      else s
    | .tld ty d =>
      if !ok then s
      else match s.lockHits f.team ((f.lanes.map LaneAcc.ln).headD 0) (tileTy d ty) with
      | [] => s.onTm f.team fun t => t.loadTile d ty bytes
      | hs => s.failHits k f (List.range 32) hs
    | _ => s
  let s := if isAcq f.ord then s.acquire f.core f.scp.toNat else s
  ({ s with flights := s.flights.del k } : State).acked k

/-- The host memory that units of an operation have still to access: keys and lengths. -/
def Flight.hostKeys (f : Flight) : List (Nat × Nat) :=
  f.lanes.filterMap fun a => match a.place with
    | .glob key => if !a.performed && !isLocal key && !isRemote key then some (key, f.op.size) else none
    | _ => none

/-- `MEMORY_REPLY` (R124): the selected units that can perform do, their results land, and an operation all of whose units
have replied completes. Data of the host that fail IDE are discarded (R29): nothing lands. -/
def State.memoryReply (s : State) (sel : Word) (hit : Bool) (res : FabricRes) : State :=
  match s.flights.find s.who with
  | none => s
  | some f =>
    match f.op with
    | .result .. => s
    | _ =>
      let (go, f, s) := s.pumpFlight s.who f
      if !go then s
      else match s.linkFail (if f.writes then [] else f.hostKeys) with
      | some s => s
      | none =>
        let (lanes, s) := s.landUnits s.who f sel hit res
        match s.flights.find s.who with
        | none => s
        | some _ =>
          let f := { f with lanes }
          let s := { s with flights := s.flights.put s.who f }
          if lanes.all (·.replied) then s.finish s.who f else s

/-- Atomics of one request perform one by one, in ascending lanes (R153). -/
def State.atomUnits (s : State) (k : Nat) (f : Flight) (res : FabricRes) (line : Nat) :
    List LaneAcc → List LaneAcc × State
  | [] => ([], s)
  | a :: as =>
    let (a', s) :=
      if a.performed || a.line? != some line then (a, s)
      else match s.atomAcc f a res with
        | (.ok v, s) => ({ a with performed := true, old := BitVec.ofNat 64 v }, s)
        | (.error e, s) => (a.fail e, s.failLane k f a e)
    let (rest, s) := State.atomUnits s k f res line as
    (a' :: rest, s)

/-- `HOME_SLICE_WRITE` (R45, R153): the request of an operation in flight for the line of one of its units performs at the
line's home, after what the core accepted earlier for the same bytes and after the release it makes (log 26, DESIGN CHOICE); an atomic whose
data of the host fail IDE is not performed (R29). -/
def State.homeWrite (s : State) (j : Nat) (res : FabricRes) : State :=
  match s.flights.find s.who with
  | none => s
  | some f =>
    match f.lanes[j]? with
    | none => s
    | some a =>
      match a.line? with
      | none => s
      | some line =>
        let (go, f, s) := s.pumpFlight s.who f
        let group := f.lanes.filter fun b => !b.performed && b.line? == some line
        if !f.writes || !go || group.any fun b => s.earlierWrite s.who f.core b.place f.op.size then s
        else
          let stores := match f.op with | .store _ | .tst .. => true | _ => false
          match s.linkFail (if stores then [] else (group.filterMap LaneAcc.key?).filterMap fun k =>
              if isLocal k || isRemote k then none else some (k, f.op.size)) with
          | some s => s
          | none =>
          let (lanes, s) :=
            if stores then
              let cells := group.flatMap fun b => match b.place with | .glob key => cellsAt key b.data | _ => []
              let mark (bad : Option Fail) : List LaneAcc := f.lanes.map fun b =>
                if !b.performed && b.line? == some line then
                  (match bad with | some e => b.fail e | none => { b with performed := true })
                else b
              match s.store (s.worldOf f.team) cells res with
              | .ok s => (mark none, group.foldl (fun s b => match b.place with
                  | .glob key => s.updateL1 f.core key b.data | _ => s) s)
              | .error e => (mark (some e), group.foldl (fun s b => s.failLane s.who f b e) s)
            else s.atomUnits s.who f res line f.lanes
          match s.flights.find s.who with
          | none => s
          | some _ => { s with flights := s.flights.put s.who { f with lanes } }

/-- A long-latency result is written, with its flags and their enabled exceptions (R144). -/
def State.landResult (s : State) : State :=
  match s.flights.find s.who with
  | none => s
  | some f =>
    match f.op with
    | .result d n tag =>
      let s := f.lanes.foldl (fun s a =>
        let fl := a.opb.setWidth 5
        let cs := fpCauses f.fpctl fl
        let s := s.onTm f.team fun t =>
          let th := (t.lane f.sq a.ln).flag fl
          t.setThread (tidOf f.sq a.ln) (if cs.isEmpty then th.setBits (n == 2) d a.old.toNat tag else th)
        cs.foldl (fun s c => s.failLane s.who f a (c, 0)) s) s
      { s with flights := s.flights.del s.who }
    | _ => s

end Sys2Proof.Machine
end

