-- ==== Sys2Proof/Machine/Control.lean ====
section
/-!
DEFINITION. Control: `NOP`, branches, calls, returns, `EXIT`, `YIELD` (R298 to R301).
-/
namespace Sys2Proof.Machine

/-- The outcome type of every meaning. -/
abbrev Out3 := Host.Outcome State Fault Refusal

/-- An instruction that only advances the PC (R301). -/
def State.idle (s : State) (i : Instr) : State := s.lanewise i fun _ _ th => { th }

/-- `NOP` (R301). -/
def execNop (h : Hd) (s : State) : Out3 := .next (s.idle (.nop h))
/-- `NOP` of 96 bits (R301). -/
def execNop96 (h : Hd) (s : State) : Out3 := .next (s.idle (.nop96 h))
/-- `NOP` of 128 bits (R301). -/
def execNop128 (h : Hd) (s : State) : Out3 := .next (s.idle (.nop128 h))
/-- The one-parcel `NOP` (R263). -/
def execNopOneParcel (h : Hd) (s : State) : Out3 := .next (s.idle (.nopOneParcel h))

/-- The target of a `BRA` or `CALL` (R270, R299). -/
def branchTarget (pc : Dword) (off : BitVec 30) : Dword := pc + (off.signExtend 64 <<< 2)

/-- `BRA` (R299). -/
def execBra (h : Hd) (off : BitVec 30) (s : State) : Out3 :=
  .next (s.lanewise (.bra h off) fun _ _ th => { th, jump := some (branchTarget th.pc off) })

/-- `CALL` (R299): the link is pc + 12. -/
def execCall (h : Hd) (d : BitVec 8) (off : BitVec 30) (s : State) : Out3 :=
  .next (s.lanewise (.call h d off) fun _ _ th =>
    { th := th.set64 d (th.pc + 12) 0, jump := some (branchTarget th.pc off) })

/-- A register target that is not a multiple of 4 (R299). -/
def badTarget (a : BitVec 8) (_ : Team) (ln : Nat) (th : Thread) : List Hit :=
  if (th.r64 a).extractLsb' 0 2 = 0 then [] else [{ ln, c := .align, addr := th.r64 a }]

/-- `BRX` (R299). -/
def execBrx (h : Hd) (a : BitVec 8) (s : State) : Out3 :=
  .next (s.lanewise (.brx h a) (fun _ _ th => { th, jump := some (th.r64 a) }) (badTarget a))

/-- `CALLX` (R299): the target is read before the link is written. -/
def execCallx (h : Hd) (d a : BitVec 8) (s : State) : Out3 :=
  .next (s.lanewise (.callx h d a) (fun _ _ th => { th := th.set64 d (th.pc + 8) 0, jump := some (th.r64 a) })
    (badTarget a))

/-- `RET` (R299): as `BRX`. -/
def execRet (h : Hd) (a : BitVec 8) (s : State) : Out3 :=
  .next (s.lanewise (.ret h a) (fun _ _ th => { th, jump := some (th.r64 a) }) (badTarget a))

/-- `EXIT` (R300, R245): the active lanes end; where no thread of the squad would be left, the instruction waits for the
squad's operations, and does not end the last thread of a squad with a cause (R259; log 68, DEDUCED); in the handler the team is killed with kind 1 (log 23, DEDUCED). -/
def execExit (h : Hd) (s : State) : Out3 :=
  .next (s.issue (.exit h) (fun _ _ => []) fun s x =>
    let t := s.tm x.key
    if x.act.isEmpty then (s.issued x x.lanes).advance x x.lanes 8
    else if s.inHandler x.key then s.kill x.key 1
    else if ((t.live x.q).all fun ln => x.act.contains ln) && (t.squad x.q).causes != 0 then s.cease x.key x.q
    else if ((t.live x.q).all fun ln => x.act.contains ln) && !(s.quiet x.key x.q && s.engineIdle x.key x.q) then s
    else
      let rest := x.lanes.filter fun ln => !x.act.contains ln
      ((s.issued x x.lanes).advance x rest 8).exitLanes x x.act)

/-- `YIELD` (R301): its threads take the newest formation index. -/
def execYield (h : Hd) (s : State) : Out3 :=
  .next (s.issue (.yield h) (fun _ _ => []) fun s x =>
    let s := (s.issued x x.lanes).advance x x.lanes 8
    s.onTm x.key fun t => t.mapLanes x.q x.act fun _ th => { th with lastForm := (t.squad x.q).formIdx })

end Sys2Proof.Machine
end

