-- ==== Sys2Proof/Machine/Fetch.lean ====
section
/-!
DEFINITION. Convoy formation (R94, R118) and instruction fetch (R117, R118, R182 to R184), and what discards held
copies of code (R157, R186, R188, R190).
-/
namespace Sys2Proof.Machine

/-- The threads of a squad that formation can choose (R94, R246). -/
def Team.eligible (t : Team) (q : Nat) : List Nat :=
  (t.live q).filter fun ln =>
    (t.lane q ln).wait == .none && (match t.phase with | .handler h l _ => h == q && l == ln | _ => true)

/-- The block of an address (R117). -/
def blockOf (pc : Dword) : Nat := pc.toNat / 32 * 32

/-- The entry of a loop buffer that holds a block (R118). -/
def Thread.loop (t : Thread) (asid : Nat) (va : Nat) : Option Loop := t.loops.find? fun e => e.va == va && e.asid == asid

/-- A thread takes a block into its loop buffer, in place of the least recently used of six (R118). -/
def Thread.takeBlock (t : Thread) (e : Loop) : Thread :=
  { t with loops := (e :: t.loops.filter fun x => !(x.va == e.va && x.asid == e.asid)).take 6 }

/-- The group the fetch unit chooses (R94): smallest age, then the lowest lane; a thread that fetches alone from its loop
buffer is a group of its own, as is a convoy in the midst of an instruction (R334). While a faulting instruction has to issue again,
its lanes alone issue (R158). -/
def Team.chooseGroup (t : Team) (q : Nat) : List Nat :=
  let x := t.squad q
  let el := t.eligible q
  let own (ln : Nat) : Option (List Nat) :=
    if x.lone && x.convoy.contains ln then some [ln] else (x.amids.find? fun m => m.lanes.contains ln).map (·.lanes)
  let group (ln : Nat) : List Nat :=
    (own ln).getD (el.filter fun k => (own k).isNone && (t.lane q k).pc == (t.lane q ln).pc)
  let age (g : List Nat) : Nat := g.foldl (fun m k => min m (t.lane q k).lastForm) x.formIdx
  match (t.live q).filter fun ln => x.replay.contains ln with
  | r :: rs => (r :: rs).filter fun k => el.contains k && (t.lane q k).pc == (t.lane q r).pc
  | [] =>
    (el.foldl (fun b ln =>
      match b with
      | none => some (group ln)
      | some g => if age (group ln) < age g then some (group ln) else some g) none).getD []

/-- A convoy goes on with the instruction in the midst of which it stands. -/
def Team.toAmid (t : Team) (q : Nat) (m : Amid) : Team := t.setSquad q { t.squad q with convoy := m.lanes, lone := false }

/-- A squad regroups its threads (R94): the chosen group becomes the convoy. One that may not issue ends the instructions in the midst of
which its convoys stand (R158, R243; log 38, DEDUCED). -/
def State.form (s : State) (key q : Nat) : State :=
  match s.teams.find key with
  | none => s
  | some t =>
    if !t.mayIssue q then
      (match (t.squad q).amids with
        | [] => s
        | m :: _ => s.setTm key (t.toAmid q m))
    else
      let x := t.squad q
      let g := t.chooseGroup q
      let asid := (s.launchOf t).asid
      let alone : Option Loop := match g with
        | [ln] => (t.lane q ln).loop asid (blockOf (t.lane q ln).pc)
        | _ => none
      let t := t.mapLanes q g fun _ th =>
        let th := { th with lastForm := x.formIdx + 1 }
        match alone with | some e => th.takeBlock e | none => th
      s.setTm key (t.setSquad q (if g.isEmpty then { x with convoy := [], latch := none, lone := false } else
        { x with convoy := g, formIdx := x.formIdx + 1, sinceForm := 0, latch := alone, lone := alone.isSome }))

/-- The line and its bytes that a core's L1 instruction cache holds for a block. -/
def Core.fetchLine (c : Core) (asid va : Nat) : Option CLine :=
  c.l1i.find? fun l => l.asid == asid && l.va == va / 128 * 128

/-- The block of a line's bytes. -/
def blockBytes (va : Nat) (bytes : List Byte) : List Byte := (bytes.drop (va % 128)).take 32

/-- The checks of a fill in the order of R183, on the line and on the half that holds the block (log 35, DEDUCED). -/
def State.fetchFail (s : State) (w : World) (line block : Nat) : Option Fail :=
  let m := s.line line
  if !s.admits w line then some (.world, 1)
  else if m.ingot then some (.ingotAccess, 0)
  else if m.retracted then some (.retractedCode, 0)
  else if m.poison then some (.poison, 0)
  else if !s.halfOk block then some (.integrity, 1)
  else none

/-- Note that a cluster may hold a line (R182; log 41, DEDUCED). -/
def State.setPresence (s : State) (line core : Nat) : State :=
  { s with presence := s.presence.put (line / 128) ((s.presence.look 0 (line / 128)) ||| (1#32 <<< (core / 16))) }

/-- The group receives a block (R117): every member takes it into its loop buffer. `own` says that it comes from there. -/
def State.deliver (s : State) (key q : Nat) (e : Loop) (own : Bool := false) : State :=
  s.onTm key fun t =>
    let x := t.squad q
    (t.mapLanes q x.convoy fun _ th => th.takeBlock e).setSquad q { x with latch := some e, lone := x.lone && own }

/-- A failed fetch raises its cause in each member of the group (R117). -/
def State.fetchRaise (s : State) (key q : Nat) (lanes : List Nat) (pc : Dword) (addr : Dword) (f : Fail) : State :=
  s.raise key q pc (lanes.map fun ln => { ln, c := f.1, addr, detail := f.2 }) (own := s.inHandler key)

/-- A page fault on fetch parks the members, with one page request (R117, R158). -/
def State.fetchPark (s : State) (key q : Nat) (asid block : Nat) : State :=
  let (k, s) := s.pageReq asid (BitVec.ofNat 64 block) .fetch
  s.onTm key fun t =>
    let x := t.squad q
    (t.mapLanes q x.convoy fun _ th => { th with wait := .fetch block k }).setSquad q { x with convoy := [] }

/-- Fill a line into a core's L1 instruction cache, of 512 lines (R182, log 11, DESIGN CHOICE). -/
def State.fillCode (s : State) (core : Nat) (l : CLine) : State :=
  let c := s.core core
  (s.setCore core { c with l1i := (l :: c.l1i).take 512 }).setPresence l.key core

/-- The convoy of a squad fetches the block at its PC (R117, R182, R183; log 35, DEDUCED). -/
def State.fetch (s : State) (key q : Nat) : State :=
  match s.teams.find key with
  | none => s
  | some t =>
    let lanes := (t.squad q).convoy
    match lanes with
    | [] => s
    | ln :: _ =>
      if !t.mayIssue q then s
      else
        let pc := (t.lane q ln).pc
        let va := blockOf pc
        let l := s.launchOf t
        let addr := BitVec.ofNat 64 va
        let own := if (t.squad q).lone then (t.lane q ln).loop l.asid va else none
        if 2 ^ 57 ≤ pc.toNat then s.fetchRaise key q lanes pc pc (.pageUnresolved, 4)
        else match own with
        | some e => s.deliver key q e true
        | none =>
          match (s.core t.core).fetchLine l.asid va with
          | some c =>
            (s.setPresence c.key t.core).deliver key q { va, asid := l.asid, line := c.key, bytes := blockBytes va c.bytes }
          | none =>
            match s.translate t.core l.world l.asid va .fetch with
            | (.absent, s) => s.fetchPark key q l.asid va
            | (.fail f, s) => s.fetchRaise key q lanes pc addr f
            | (.ok k _, s) =>
              let line := k / 128 * 128
              if !isLocal k then s.fetchPark key q l.asid va
              else match s.fetchFail l.world line k with
              | some f => s.fetchRaise key q lanes pc addr f
              | none =>
                let bytes := s.read line 128
                let s := if s.halfOk line && s.halfOk (line + 64) then
                    s.fillCode t.core { asid := l.asid, va := va / 128 * 128, key := line, bytes }
                  else s.setPresence line t.core
                s.deliver key q { va, asid := l.asid, line, bytes := blockBytes va bytes }

/-- Discard held blocks of code in the threads and squads of a core: loop-buffer entries, and blocks not yet decoded. -/
def State.dropLoops (s : State) (core : Nat) (p : Loop → Bool) : State :=
  { s with teams := s.teams.map fun (k, t) => (k, if t.core != core then t else
      { t with threads := t.threads.map fun th => { th with loops := th.loops.filter fun e => !p e }
               squads := t.squads.map fun q => { q with latch := q.latch.filter fun e => !p e } }) }

/-- Discard a physical line from a core's instruction cache and loop buffers (R186, R190). -/
def State.dropCodeLine (s : State) (core line : Nat) : State :=
  let c := s.core core
  (s.setCore core { c with l1i := c.l1i.filter fun l => l.key != line }).dropLoops core fun e => e.line == line

/-- `CONVOY_FORMATION` (R94; log 34, DESIGN CHOICE). -/
def execConvoyFormation (s : State) : Host.Outcome State Fault Refusal := .next (s.form s.team s.sq)

/-- `FETCH_BLOCK` (R117). -/
def execFetchBlock (s : State) : Host.Outcome State Fault Refusal := .next (s.fetch s.team s.sq)

end Sys2Proof.Machine
end

