-- ==== Sys2Proof/Machine/Memory.lean ====
section
/-!
DEFINITION. Loads, stores, atomics, fences, record instructions and cache hints (R327 to R339), and the events of
memory: replies (R124), writes at the home slices (R45) and replies of the migration service (R158).
-/
namespace Sys2Proof.Machine

/-- The cause of an address that ends a tile access (R276, R349): a pair that is none, a missing right, then ALIGN, then BOUNDS. -/
def firstTrap (hs : List Hit) : List Hit :=
  match [Cause.operandAlign, .permission, .align, .bounds].findSome? fun c => hs.find? fun h => h.c == c with
  | some h => [h]
  | none => []

/-- The units of a load or store (R168): one, or the two halves of 16 bytes. -/
def unitsOf (ty : BitVec 6) : List Nat := if tyBytes ty = 16 then [0, 8] else [0]

/-- The meaning of an instruction that accesses memory through a record (R151, R152): `size` bytes at each lane's address
are checked against the record, `unit` is the alignment; `lowest` says that it acts once, in its lowest active lane;
`tags` says that a lane's data has an accepted tag, `extra` gives further causes at issue, `split` that out-of-bounds
units are judged one by one and that the first cause of the address ends the instruction (R276, R349; log 12, DEDUCED; log 27, DEDUCED;
log 59, DEDUCED). -/
def State.accessOp (s : State) (i : Instr) (ad : MemAddr) (right : Right) (size unit : Nat) (lowest : Bool)
    (tags : Thread → Bool) (extra : Team → Record → List Fail) (p : Team → Convoy → Record → Access) (split : Bool := false) :
    State :=
  let act (x : Convoy) : List Nat := if lowest then x.act.take 1 else x.act
  let addrs (t : Team) (x : Convoy) : List LaneAddr :=
    (act x).map fun ln =>
      let a := (recordOf (t.brec ad.brec)).lane right size unit ad.idx ad.imm.toInt ln (t.lane x.q ln)
      { a with oob := a.oob && !split }
  let bad (t : Team) (x : Convoy) : List Nat := (act x).filter fun ln => !tags (t.lane x.q ln)
  s.issue i
    (fun s x =>
      let t := s.tm x.key
      let r := recordOf (t.brec ad.brec)
      let at_ : List Hit := (addrs t x).flatMap fun a => a.hits
      let more : List Hit := (act x).flatMap fun ln => (extra t r).map fun f => ({ ln, c := f.1, detail := f.2 } : Hit)
      let hs := if split then (match firstTrap at_ with | [] => more | hs => hs) else at_ ++ more
      if hs.isEmpty then [] else hs ++ (bad t x).map fun ln => { ln, c := .tagMismatch })
    fun s x =>
      let t := s.tm x.key
      s.accessIn x (p t x (recordOf (t.brec ad.brec))) (addrs t x) (bad t x)

/-- `LD` (R328 to R330). -/
def execLd (h : Hd) (ty : BitVec 6) (d : BitVec 8) (ad : MemAddr) (ord scp : BitVec 3) (s : State) : Out3 :=
  let i : Instr := .ld h ty d ad ord scp
  .next (s.accessOp i ad .read (tyBytes ty) (tyBytes ty) false (fun _ => true) (fun _ _ => []) fun _ _ r =>
    { i, h, r, use := .load, op := .load ty d, ord, scp, offs := unitsOf ty })

/-- The low bytes of a register group, as a store writes them (R329). -/
def Thread.lowBytes (t : Thread) (c : BitVec 8) (n : Nat) : List Byte :=
  ((t.group c ((n + 3) / 4)).flatMap fun w => toBytes 4 w.toNat).take n

/-- `ST` (R328 to R330): tags are checked for TY 1 to 23. -/
def execSt (h : Hd) (ty : BitVec 6) (ad : MemAddr) (c : BitVec 8) (ord scp : BitVec 3) (s : State) : Out3 :=
  let i : Instr := .st h ty ad c ord scp
  let tags (th : Thread) : Bool := !(1 ≤ ty.toNat && ty.toNat ≤ 23) || th.tagged ty c
  .next (s.accessOp i ad .write (tyBytes ty) (tyBytes ty) false tags (fun _ _ => []) fun t x r =>
    { i, h, r, use := .store, op := .store ty, ord, scp, offs := unitsOf ty
      fill := fun ln o a => { a with data := (((t.lane x.q ln).lowBytes c (tyBytes ty)).drop o).take 8 } })

/-- The tags of an atomic's data operand (R332). -/
def atomTags (op : AtomOp) (ty : BitVec 6) (c : BitVec 8) (th : Thread) : Bool :=
  match op with
  | .and | .or | .xor | .exch => true
  | _ => th.tagged ty c

/-- The size of an atomic (R332). -/
def atomBytes (ty : BitVec 6) : Nat := if tyBytes ty = 8 then 8 else 4

/-- The 64-bit adder of floats is not in the scratchpad (R332). -/
def atomSpace (op : AtomOp) (ty : BitVec 6) (_ : Team) (r : Record) : List Fail :=
  if op = .add ∧ ty = 6 ∧ r.scratch then [(.reservedField, 0)] else []

/-- `ATOM` and `RED` (R331 to R333). -/
def State.atomOp (s : State) (i : Instr) (h : Hd) (op : AtomOp) (ty : BitVec 6) (d : Option (BitVec 8)) (ad : MemAddr)
    (c : BitVec 8) (ord scp : BitVec 3) : State :=
  s.accessOp i ad .atomic (atomBytes ty) (atomBytes ty) false (atomTags op ty c) (atomSpace op ty) fun t x r =>
    { i, h, r, use := .atomic, op := .atomic op ty d, ord, scp, offs := [0]
      fill := fun ln _ a => { a with opb := BitVec.ofNat 64 ((t.lane x.q ln).bits (wide ty) c) } }

/-- `ATOM` (R333). -/
def execAtom (h : Hd) (op : AtomOp) (ty : BitVec 6) (d : BitVec 8) (ad : MemAddr) (c : BitVec 8) (ord scp : BitVec 3)
    (s : State) : Out3 :=
  .next (s.atomOp (.atom h op ty d ad c ord scp) h op ty (some d) ad c ord scp)

/-- `RED` (R333). -/
def execRed (h : Hd) (op : AtomOp) (ty : BitVec 6) (ad : MemAddr) (c : BitVec 8) (ord scp : BitVec 3) (s : State) :
    Out3 :=
  .next (s.atomOp (.red h op ty ad c ord scp) h op ty none ad c ord scp)

/-- `CAS` (R333). -/
def execCas (h : Hd) (ty : BitVec 6) (d : BitVec 8) (ad : MemAddr) (c : BitVec 8) (ord scp : BitVec 3) (y : BitVec 8)
    (s : State) : Out3 :=
  let i : Instr := .cas h ty d ad c ord scp y
  .next (s.accessOp i ad .atomic (atomBytes ty) (atomBytes ty) false (fun _ => true) (fun _ _ => []) fun t x r =>
    { i, h, r, use := .atomic, op := .cas ty d, ord, scp, offs := [0]
      fill := fun ln _ a =>
        { a with opb := BitVec.ofNat 64 ((t.lane x.q ln).bits (wide ty) c), opc := BitVec.ofNat 64 ((t.lane x.q ln).bits (wide ty) y) } })

/-- Carry the releases that the active lanes of a convoy perform at an instruction, beginning those not begun: whether all
have performed, and the lanes whose release is lost (R163, R27). -/
def State.pumpLanes (s : State) (x : Convoy) (scope : Nat) : Bool × List Nat × State :=
  x.act.foldl (fun acc ln =>
    let s := acc.2.2
    let t := s.tm x.key
    let th := t.lane x.q ln
    let (r, s) := match th.rel with
      | some r => (r, s)
      | none => s.startRelease (some t.core) (s.launchOf t).ctx scope
    let (r, s) := s.pumpRelease r
    let s := s.onTm x.key fun t => t.setThread (tidOf x.q ln) { t.lane x.q ln with rel := some r }
    (acc.1 && r.done, if r.lost then acc.2.1 ++ [ln] else acc.2.1, s)) (true, [], s)

/-- The lanes' releases are over. -/
def State.dropRels (s : State) (x : Convoy) : State :=
  s.onTm x.key fun t => t.mapLanes x.q x.act fun _ th => { th with rel := none }

/-- Some active lane has an earlier load without its value (R198, R334; log 33, DEDUCED). -/
def State.anyLoads (s : State) (x : Convoy) : Bool := x.act.any fun ln => s.loadsOut x.key x.q ln

/-- The convoy is in the midst of an instruction that it has issued (R334). -/
def State.inAmid (s : State) (x : Convoy) : Option Amid := ((s.tm x.key).squad x.q).amids.find? fun m => m.lanes == x.lanes

/-- The convoy has issued an instruction that waits (R126, R334; log 38, DEDUCED). -/
def State.enterAmid (s : State) (x : Convoy) (i : Instr) (spans : List CodeSpan) : State :=
  let m : Amid := { i, lanes := x.lanes, act := x.act, pc := x.pc, spans }
  (s.issued x x.lanes).onTm x.key fun t => t.setSquad x.q { t.squad x.q with amids := (t.squad x.q).amids ++ [m] }

/-- The wait of the instruction is over, and so are the lanes' releases. -/
def State.leaveAmid (s : State) (x : Convoy) : State :=
  (s.dropRels x).onTm x.key fun t =>
    t.setSquad x.q { t.squad x.q with amids := (t.squad x.q).amids.filter fun m => m.lanes != x.lanes }

/-- Lanes that stay at an instruction which has issued: it does not count in their windows and skids (R123, R126); what a handling thread's
record says stays as its handler found it (R247). -/
def State.uncount (s : State) (x : Convoy) (lanes : List Nat) : State :=
  let own := s.inHandler x.key
  s.onTm x.key fun t => t.mapLanes x.q lanes fun _ th =>
    { th with skid := if own then th.skid else th.skid - 1, windows := th.windows.map fun w => { w with since := w.since - 1 } }

/-- A release at an instruction of a convoy that issues its next instruction only when it has performed: the instruction issues, its convoy
stays in its midst until then, and until it is `ready`, and goes on with `body`, or takes the lost-path cause where a path is lost (R27,
R334). -/
def State.releasing (s : State) (x : Convoy) (i : Instr) (scope : Nat) (body : State → State) (spans : List CodeSpan := [])
    (ready : State → Bool × State := fun s => (true, s)) : State :=
  let s := if (s.inAmid x).isSome then s else s.enterAmid x i spans
  let (done, lost, s) := s.pumpLanes x scope
  if !lost.isEmpty then
    ((s.leaveAmid x).uncount x x.lanes).raise x.key x.q x.pc (lost.map fun ln => { ln, c := .integrity, detail := 4 })
      (own := s.inHandler x.key)
  else if done then (let (ok, s) := ready s; if ok then body (s.leaveAmid x) else s) else s

/-- `FENCE` (R334). -/
def execFence (h : Hd) (ord scp : BitVec 3) (s : State) : Out3 :=
  let i : Instr := .fence h ord scp
  .next (s.issue i (fun _ _ => []) fun s x =>
    let go (s : State) : State :=
      let s := if isAcq ord && !x.act.isEmpty then s.acquire (s.tm x.key).core scp.toNat else s
      s.advance x x.lanes i.len
    if (s.inAmid x).isNone && s.anyLoads x then s
    else if ord = 2 then go (s.issued x x.lanes)
    else s.releasing x i scp.toNat go)

/-- `BRLOAD` (R335): four units of 8 bytes, once for the convoy. -/
def execBrload (h : Hd) (d : BitVec 4) (ad : MemAddr) (ord scp : BitVec 3) (s : State) : Out3 :=
  let i : Instr := .brload h d ad ord scp
  .next (s.accessOp i ad .read 32 8 true (fun _ => true) (fun _ _ => []) fun _ _ r =>
    { i, h, r, use := .load, op := .brload d, ord, scp, offs := [0, 8, 16, 24] })

/-- The eight registers of a record. -/
def Thread.record (t : Thread) (a : BitVec 8) : BitVec 256 :=
  BitVec.ofNat 256 (ofBytes ((t.group a 8).flatMap fun w => toBytes 4 w.toNat))

/-- `BRSET` to a record (R336): once for the convoy, checked under R149; a group that is no operand (R121) has no value. -/
def execBrset (h : Hd) (d : BitVec 4) (a : BitVec 8) (s : State) : Out3 :=
  .next (s.once (.brset h d a)
    (fun s x ln =>
      let t := s.tm x.key
      if a.toNat % 4 ≠ 0 then [] else
      (s.recordFails t ((t.lane x.q ln).record a) d).map fun f => { ln, c := f.1, detail := f.2 })
    fun s x ln => s.onTm x.key fun t => t.setBrec d ((t.lane x.q ln).record a))

/-- The words of a record. -/
def recordWords (r : BitVec 256) : List Word := (List.range 8).map fun k => r.extractLsb' (32 * k) 32

/-- `BRSET` to registers (R336). -/
def execBrsetToRegisters (h : Hd) (d : BitVec 8) (a : BitVec 4) (s : State) : Out3 :=
  .next (s.lanewise (.brsetToRegisters h d a) fun t _ th => { th := th.setGroup d (recordWords (t.brec a)) })

/-- The place of a cache hint in a lane, or none where the lane is dropped (R338). -/
def State.hintPlace (s : State) (key : Nat) (r : Record) (ad : MemAddr) (ln : Nat) : Option (Nat × Bool) × State :=
  let t := s.tm key
  let l := s.launchOf t
  let la := r.lane .read 1 1 ad.idx ad.imm.toInt (ln % 32) (t.thread ln)
  if !la.hits.isEmpty || la.oob || r.space != 0 then (none, s)
  else
    match s.translate t.core l.world l.asid la.addr.toNat .load with
    | (.ok k leaf, s) =>
      if isLocal k && (s.reach l.world k 1).isSome then (none, s) else (some (k, leaf.getLsbD 3 || !isLocal k), s)
    | (_, s) => (none, s)

/-- A cache hint acts in each active lane that is not dropped (R338, R339). -/
def State.hint (s : State) (i : Instr) (ad : MemAddr) (f : State → Convoy → Nat → Nat → Bool → State) : State :=
  s.issue i (fun _ _ => []) fun s x =>
    let t := s.tm x.key
    let s := (s.issued x x.lanes).advance x x.lanes i.len
    x.act.foldl (fun s ln =>
      match s.hintPlace x.key (recordOf (t.brec ad.brec)) ad (tidOf x.q ln) with
      | (some (k, noL1), s) => f s x ln k noL1
      | (none, s) => s) s

/-- Ask the home of a line of another device, at an address, for it, for the remote partition (R164, R338); nothing is asked where the request
cannot be sent. -/
def State.askLine (s : State) (l : Launch) (va k : Nat) : State :=
  let line := k / 128 * 128
  let (n, s') := s.take
  match s'.sendReq l.ctx (deviceOf k) (s'.agentMsg l.world { key := line, n := 128, op := .load 128 }) false n with
  | .error _ => s
  | .ok s => { s with areqs := s.areqs.put n { agent := 0, key := line, op := .load 128, world := l.world, page := some (l.asid, va) } }

/-- `PREFETCH` (R338): lines of this device may be filled into the core's L1; lines of others are asked for, and filled into the remote
partition when their home has answered (log 39, DESIGN CHOICE). -/
def execPrefetch (h : Hd) (ad : MemAddr) (ord scp : BitVec 3) (s : State) : Out3 :=
  .next (s.hint (.prefetch h ad ord scp) ad fun s x ln k noL1 =>
    let t := s.tm x.key
    let la := (recordOf (t.brec ad.brec)).lane .read 1 1 ad.idx ad.imm.toInt ln (t.lane x.q ln)
    if scp.toNat ≤ 1 && !noL1 && isLocal k && (lineFind (s.core t.core).l1d k).isNone then s.fillL1 t.core k
    else if 4 ≤ scp.toNat && s.partitioned 0 k && !(lineFind s.remote k).any fun l => l.world == (s.launchOf t).world then
      s.askLine (s.launchOf t) la.addr.toNat k
    else s)

/-- The answer to a request of an agent, or to one of a line for the remote partition: its fill where the home has not refused it (R338;
log 56, DESIGN CHOICE). -/
def State.areqReply (s : State) (n : Nat) (r : AgentReq) (res : FabricRes) : State :=
  let res := s.outcome r.key res
  if r.agent = 0 then
    let s := ({ s with areqs := s.areqs.del n } : State).acked n
    if res == .ok && !(lineFind s.remote r.key).any fun l => l.world == r.world then
      { s with remote := lineAdd 4096 { key := r.key, bytes := s.read r.key 128, world := r.world } s.remote }
    else s
  else if r.res.isSome then s
  else State.logPump (({ s with areqs := s.areqs.put n { r with res := some res } } : State).acked n)

/-- Loads of a thread that have not read a line give no copy of it to the L1 (R344). -/
def State.spareL1 (s : State) (x : Convoy) (ln k : Nat) : State :=
  { s with flights := s.flights.map fun (j, f) => (j,
      if f.team == x.key && f.sq == x.q && !f.writes then
        { f with lanes := f.lanes.map fun a =>
          if a.ln == ln && !a.performed && a.line? == some (k / 128) then { a with noL1 := true } else a }
      else f) }

/-- `CCTL` (R339): the core's L1 copy of the line is dropped, also one that a load of the thread is about to fill (R344); the home slice's write to HBM changes nothing that can be
read (log 10, DESIGN CHOICE; log 39, DESIGN CHOICE). -/
def execCctl (h : Hd) (ad : MemAddr) (ord scp : BitVec 3) (s : State) : Out3 :=
  .next (s.hint (.cctl h ad ord scp) ad fun s x ln k _ => (s.spareL1 x ln k).dropL1 (s.tm x.key).core k)

/-- `MEMORY_REPLY` (R124): for an operation in flight, or for a request of an agent; what answers a request of neither is acknowledged. -/
def execMemoryReply (lanes : Word) (hit : Bool) (res : FabricRes) (s : State) : Out3 :=
  .next (match s.areqs.find s.who with
    | some r => s.areqReply s.who r res
    | none => if (s.flights.find s.who).isSome then s.memoryReply lanes hit res else s.acked s.who)

/-- `HOME_SLICE_WRITE` (R45). -/
def execHomeSliceWrite (ln : Nat) (res : FabricRes) (s : State) : Out3 := .next (s.homeWrite ln res)

/-- `LONG_LATENCY_RESULT` (R124). -/
def execLongLatencyResult (s : State) : Out3 := .next s.landResult

/-- A parked squad after the reply to one of its requests (R158): with the last page resolved the faulting instruction issues
again, alone. -/
def Team.unpark (t : Team) (q k : Nat) : Team :=
  let x := t.squad q
  match x.park with
  | none => t
  | some p =>
    let reqs := p.reqs.filter (· != k)
    if reqs.isEmpty then t.setSquad q { x with park := none, replay := p.lanes, convoy := [] }
    else t.setSquad q { x with park := some { p with reqs } }

/-- Threads that wait for a page of their fetch go on (R117, R158). -/
def Team.unfetch (t : Team) (k : Nat) : Team :=
  let isOver (w : Wait) : Bool := match w with | .fetch _ r => r == k | _ => false
  { t with threads := t.threads.map fun th => if isOver th.wait then { th with wait := .none } else th
           heldWait := if isOver t.heldWait then .none else t.heldWait }

/-- The lanes of a squad that wait for a page request of their fetch. -/
def Team.fetching (t : Team) (q k : Nat) : List Nat :=
  (List.range 32).filter fun ln => match (t.lane q ln).wait with | .fetch _ r => r == k | _ => false

/-- A page of a team resolved (R158); a fault that its handler holds is kept until the handler ends (R246). -/
def Team.resolved (t : Team) (k : Nat) : Team :=
  let t := (List.range t.squads.length).foldl (fun t q =>
    match (t.squad q).park with | some p => if p.reqs.contains k then t.unpark q k else t | none => t) (t.unfetch k)
  match t.heldPark with
  | none => t
  | some p =>
    let reqs := p.reqs.filter (· != k)
    { t with heldPark := some { p with reqs } }

/-- A page of a team that cannot be resolved (R158): the squad takes `PAGE_UNRESOLVED` at the faulting instruction; a lane of a `SPAWN` gives up
its bin slot (R357). A fault of the handling
thread is its handler's own where it arose in the handler (R249). -/
def State.unresolved (s : State) (key k : Nat) : State :=
  let t := s.tm key
  let hit (ln : Nat) (addr : Dword) : Hit := { ln, c := .pageUnresolved, addr, detail := 1 }
  let parked (p : Park) : List Hit := (p.faults.filter fun f => f.1 == k).map fun f => hit f.2.1 f.2.2
  let fetched (ln : Nat) (w : Wait) : Hit := hit ln (match w with | .fetch b _ => BitVec.ofNat 64 b | _ => 0)
  let s := (List.range t.squads.length).foldl (fun s q =>
    match (t.squad q).park with
    | some p =>
      if p.reqs.contains k then
        let s := (parked p).foldl (fun s h => s.voidLane key q h.ln) s
        (s.onTm key fun t => t.setSquad q { t.squad q with park := none }).raise key q (t.lane q (p.lanes.headD 0)).pc
          (parked p) (own := t.handling.any fun h => h.1 == q)
      else s
    | none => s) s
  let s := (List.range t.squads.length).foldl (fun s q =>
    match t.fetching q k with
    | [] => s
    | ln :: ls => (s.onTm key (·.unfetch k)).raise key q (t.lane q ln).pc ((ln :: ls).map fun ln => fetched ln (t.lane q ln).wait)
      (own := t.handling.any fun h => h.1 == q && (ln :: ls).contains h.2)) s
  let heldFetch := match t.heldWait with | .fetch _ r => r == k | _ => false
  let heldHere := match t.heldPark with | some p => p.reqs.contains k | none => false
  match t.phase with
  | .handler q ln _ =>
    if heldFetch || heldHere then
      let s : State := s.onTm key fun t => { t with heldPark := if heldHere then none else t.heldPark
                                                    heldWait := if heldFetch then .none else t.heldWait }
      let s := ((t.heldPark.filter fun _ => heldHere).map parked).getD [] |>.foldl (fun s h => s.voidLane key q h.ln) s
      let at_ := match t.heldPark with | some p => if heldHere then p.lanes.headD ln else ln | none => ln
      s.raise key q (t.lane q at_).haltPc (((t.heldPark.filter fun _ => heldHere).map parked).getD [fetched ln t.heldWait])
    else s
  | _ => s

/-- `PAGE_REQUEST_REPLY` (R158, R365): the migration service answers a page request. -/
def execPageRequestReply (ok : Bool) (s : State) : Out3 :=
  .next (match s.reqs.find s.who with
    | none => s
    | some r =>
      if r.agent != 0 then
        if r.reply.isSome then s else State.logPump { s with reqs := s.reqs.put s.who { r with reply := some ok } }
      else
        let s := { s with reqs := s.reqs.del s.who }
        if ok then { s with teams := s.teams.map fun (k, t) => (k, t.resolved s.who) }
        else (s.teams.map (·.1)).foldl (fun s k => s.unresolved k s.who) s)

end Sys2Proof.Machine
end

