-- ==== Sys2Proof/Machine/Barriers.lean ====
section
/-!
DEFINITION. The barrier instructions (R195 to R201, R341).
-/
namespace Sys2Proof.Machine

/-- The causes that every barrier instruction but `BARINIT` and `BARQUERY` has at issue: used in the handler (R249), barrier not
valid (R197). A barrier the team does not have is not in a state (R265). -/
def State.barHits (s : State) (x : Convoy) (n : Nat) (ln : Nat) (needsValid : Bool) : List Hit :=
  if s.inHandler x.key then [{ ln, c := .barrierMisuse, detail := 5 }]
  else if needsValid && s.hasBar x.key n && !((s.tm x.key).bar n).valid then [{ ln, c := .barrierMisuse, detail := 1 }]
  else []

/-- Lanes wait on a barrier or a copy holds it (R199). -/
def Team.barBusy (t : Team) (n : Nat) : Bool := t.waitsOn n || (t.bar n).pending != 0

/-- `BARINIT` with a count (R197, R199). -/
def State.barinitOp (s : State) (i : Instr) (n : BitVec 4) (b : Opb) : State :=
  s.once i
    (fun s x ln =>
      let t := s.tm x.key
      let busy : List Hit := if t.barBusy n.toNat then [{ ln, c := .barrierBusy }] else []
      let excess : List Hit :=
        if 32 * t.squads.length < (b.word (t.lane x.q ln)).toNat then [{ ln, c := .barrierMisuse, detail := 2 }] else []
      match s.barHits x n.toNat ln false with | [] => busy ++ excess | hs => hs)
    fun s x ln => s.onTm x.key fun t =>
      t.setBar n.toNat { valid := true, phase := false, pending := 0, expected := (b.word (t.lane x.q ln)).toNat, arrived := 0 }

/-- `BARINIT` with a register count. -/
def execBarinit (h : Hd) (d : BitVec 4) (b : BitVec 8) (s : State) : Out3 := .next (s.barinitOp (.barinit h d b) d (.reg b))
/-- `BARINIT` with an immediate count. -/
def execBarinitImm (h : Hd) (d : BitVec 4) (imm : Word) (s : State) : Out3 :=
  .next (s.barinitOp (.barinitImm h d imm) d (.imm imm))

/-- A lane waits for the phase of a token to be over, or goes on where it is (R197). -/
def Team.waitFor (t : Team) (q ln n : Nat) (token sync : Bool) : Team :=
  let th := t.lane q ln
  t.setThread (tidOf q ln) (if (t.bar n).phase = token then { th with wait := .barrier n token sync } else th.past)

/-- The causes of an arriving instruction (R198). -/
def State.arriveHits (s : State) (x : Convoy) (n : Nat) : List Hit :=
  match x.act with
  | [] => []
  | ln :: _ =>
    match s.barHits x n ln true with
    | [] => if s.hasBar x.key n && ((s.tm x.key).bar n).expected == 0 then [{ ln, c := .barrierMisuse, detail := 3 }] else []
    | hs => hs

/-- `BARARRIVE` (R197, R198): each active lane arrives in ascending order, and takes its token. -/
def execBararrive (h : Hd) (d : BitVec 8) (a : BitVec 4) (s : State) : Out3 :=
  let i : Instr := .bararrive h d a
  .next (s.issue i (fun s x => s.arriveHits x a.toNat) fun s x =>
    if s.anyLoads x then s
    else
      ((s.issued x x.lanes).advance x x.lanes i.len).onTm x.key fun t =>
        x.act.foldl (fun t ln =>
          let (tok, t) := t.arrive a.toNat
          t.setThread (tidOf x.q ln) ((t.lane x.q ln).setReg d (if tok then 1 else 0) 0)) t)

/-- `BARSYNC` and `TEAMSYNC` (R197, R198): each active lane arrives and waits. -/
def State.barsyncOp (s : State) (i : Instr) (n : Nat) : State :=
  s.issue i (fun s x => s.arriveHits x n) fun s x =>
    if s.anyLoads x then s
    else
      let s := (s.issued x x.lanes).advance x (x.lanes.filter fun ln => !x.act.contains ln) i.len
      (s.onTm x.key fun t =>
        x.act.foldl (fun t ln =>
          let (tok, t) := t.arrive n
          t.waitFor x.q ln n tok true) t).deadlock x.key

/-- `BARSYNC`. -/
def execBarsync (h : Hd) (a : BitVec 4) (s : State) : Out3 := .next (s.barsyncOp (.barsync h a) a.toNat)
/-- `TEAMSYNC`. -/
def execTeamsync (h : Hd) (s : State) : Out3 := .next (s.barsyncOp (.teamsync h) 0)

/-- `BARWAIT` (R197): each active lane waits until PHASE differs from its token. -/
def execBarwait (h : Hd) (a : BitVec 4) (b : BitVec 8) (s : State) : Out3 :=
  let i : Instr := .barwait h a b
  .next (s.issue i (fun s x => match x.act with | [] => [] | ln :: _ => s.barHits x a.toNat ln true) fun s x =>
    let s := (s.issued x x.lanes).advance x (x.lanes.filter fun ln => !x.act.contains ln) i.len
    (s.onTm x.key fun t =>
      x.act.foldl (fun t ln => t.waitFor x.q ln a.toNat (((t.lane x.q ln).r32 b).getLsbD 0) false) t).deadlock x.key)

/-- `BARINVAL` (R197, R199). -/
def execBarinval (h : Hd) (a : BitVec 4) (s : State) : Out3 :=
  .next (s.once (.barinval h a)
    (fun s x ln =>
      match s.barHits x a.toNat ln true with
      | [] => if (s.tm x.key).barBusy a.toNat then [{ ln, c := .barrierBusy }] else []
      | hs => hs)
    fun s x _ => s.onTm x.key fun t => t.setBar a.toNat { t.bar a.toNat with valid := false })

/-- The word of a barrier (R195). -/
def Barrier.word (b : Barrier) : Word :=
  BitVec.ofNat 32 (b.valid.toNat * 2 ^ 31 + b.phase.toNat * 2 ^ 30 + b.pending % 256 * 2 ^ 22 + b.expected % 2048 * 2 ^ 11
    + b.arrived % 2048)

/-- `BARQUERY` (R195, R197). -/
def execBarquery (h : Hd) (d : BitVec 8) (a : BitVec 4) (s : State) : Out3 :=
  .next (s.lanewise (.barquery h d a) fun t _ th => { th := th.setReg d (t.bar a.toNat).word 0 })

end Sys2Proof.Machine
end

