-- ==== Sys2Proof/Machine/Code.lean ====
section
/-!
DEFINITION. Publishing, adopting and retracting code (R185 to R191, R340).
-/
namespace Sys2Proof.Machine

/-- The region that a lane of a code instruction names, with its causes at issue (R185). -/
structure Span where
  ln : Nat
  start : Dword
  len : Nat
  hits : List Hit
  deriving DecidableEq, Repr

/-- Form and check the region of a lane (R185): the window always bounds it, a scratchpad record lacks the right, the limit is
2^30 bytes, or 2^24 in multiples of 32 when measured. -/
def regionOf (r : Record) (right : Right) (meas : Bool) (ad : MemAddr) (len : Nat) (ln : Nat) (th : Thread) : Span :=
  let la := r.lane right (max 1 len) 1 ad.idx ad.imm.toInt ln th
  let hit (c : Cause) (detail : Word) : Hit := { ln, c, addr := la.addr, detail }
  let limit := if meas then 2 ^ 24 else 2 ^ 30
  { ln, start := la.addr, len
    hits := la.hits ++ (if la.oob || limit < len then [hit .bounds 0] else [])
      ++ (if r.space != 0 then [hit .permission 1] else [])
      ++ (if meas && r.pairOk ad.idx && (la.addr.toNat % 32 != 0 || len % 32 != 0) then [hit .align 0] else []) }

/-- The pieces of a region in their pages. -/
def Span.pages (g : Span) : List (Nat × Nat) := if g.len = 0 then [] else pagesOf g.start.toNat g.len

/-- What translating a region gives: its pieces in memory, the absent pages, and the failure that stops the lane. -/
structure Pieces where
  keys : List (Nat × Nat) := []
  absent : List Dword := []
  fail : Option (Fail × Dword) := none

/-- Translate a piece with the first right it has of some (R186, R190). -/
def State.translateAny (s : State) (c : Nat) (w : World) (asid va : Nat) : List Use4 → Xlat × State
  | [] => (.fail (.permission, 2), s)
  | u :: us =>
    match s.translate c w asid va u with
    | (.fail f, s') => if us.isEmpty then (.fail f, s') else s'.translateAny c w asid va us
    | r => r

/-- Translate a region (R155, R186): each page must have one of the rights, must not be writable when measured, and its lines
must be open to the world and not of an ingot. -/
def State.piecesOf (s : State) (key : Nat) (g : Span) (us : List Use4) (meas : Bool) : Pieces × State :=
  let t := s.tm key
  let l := s.launchOf t
  g.pages.foldl (fun acc p =>
    let fail (f : Fail) : Option (Fail × Dword) := acc.1.fail.or (some (f, BitVec.ofNat 64 p.1))
    match acc.2.translateAny t.core l.world l.asid p.1 us with
    | (.absent, s) => ({ acc.1 with absent := acc.1.absent ++ [BitVec.ofNat 64 p.1] }, s)
    | (.fail f, s) => ({ acc.1 with fail := fail f }, s)
    | (.ok k leaf, s) =>
      let bad : Option Fail := if meas && leaf.getLsbD 5 then some (.permission, 2)
        else if isLocal k then s.reach l.world k p.2 else none
      ({ acc.1 with keys := acc.1.keys ++ [(k, p.2)], fail := match bad with | some f => fail f | none => acc.1.fail }, s))
    ({}, s)

/-- The cores that a scope reaches (R185). -/
def State.scopeCores (s : State) (t : Team) (scp : BitVec 3) (core : Nat) : Bool :=
  match scp.toNat with
  | 0 | 1 => core == t.core
  | 2 => s.teams.any fun u => u.2.launch == t.launch && u.2.ens == t.ens && u.2.core == core
  | _ => true

/-- A core may hold a line of code in its instruction cache or in a loop buffer. -/
def State.holdsCode (s : State) (cluster line : Nat) : Bool :=
  (s.cores.any fun (c, x) => c / 16 == cluster && x.l1i.any fun l => l.key == line)
    || s.teams.any fun (_, t) => t.core / 16 == cluster && t.threads.any fun th => th.loops.any fun e => e.line == line

/-- Drop a line of code from the cores of a scope whose cluster's presence bit is set; a cluster that then holds it nowhere
clears its bit (R182, R186, R190). -/
def State.dropCode (s : State) (inScope : Nat → Bool) (line : Nat) : State :=
  let bits := s.presence.look 0 (line / 128)
  let hit (core : Nat) : Bool := bits.getLsbD (core / 16) && inScope core
  let fromCore (e : Nat × Core) : Nat × Core :=
    (e.1, if hit e.1 then { e.2 with l1i := e.2.l1i.filter fun l => l.key != line } else e.2)
  let fromTeam (e : Nat × Team) : Nat × Team := (e.1, if !hit e.2.core then e.2 else
    { e.2 with threads := e.2.threads.map fun th => { th with loops := th.loops.filter fun e => e.line != line }
               squads := e.2.squads.map fun q => { q with latch := q.latch.filter fun e => e.line != line } })
  let s1 : State := { s with cores := (s.cores.map fromCore).filter fun e => e.2 != ({} : Core), teams := s.teams.map fromTeam }
  let left := (List.range 32).foldl (fun (w : Word) c =>
    if bits.getLsbD c && s1.holdsCode c line then w ||| (1#32 <<< c) else w) 0
  { s1 with presence := s1.presence.store 0 (line / 128) left }

/-- The local lines of the pieces of a region. -/
def localLines (keys : List (Nat × Nat)) : List Nat :=
  ((keys.filter fun k => isLocal k.1).flatMap fun k => linesOf k.1 k.2).eraseDups

/-- Set or clear the RETRACTED mark of lines, then drop their copies (R186, R190; log 41, DEDUCED). -/
def State.markCode (s : State) (retracted : Bool) (inScope : Nat → Bool) (lines : List Nat) : State :=
  let s := lines.foldl (fun s l => s.setLine l { s.line l with retracted }) s
  lines.foldl (fun s l => s.dropCode inScope l) s

/-- The identity of a launch whose measured regions were revoked (R187). -/
def revokedIdentity : List Byte := List.replicate 48 0xFF

/-- A measured publication enters the launch (R187). -/
def Launch.measure (l : Launch) (touchmark : List Byte) (start len : Nat) : Launch :=
  { l with
    table := l.table ++ [(start, len)]
    identity := if l.identity = revokedIdentity then l.identity
      else if l.identity.all (· == 0) then touchmark else sha384 (l.identity ++ touchmark) }

/-- The touchmark of a region's bytes (R187). -/
def touchmarkOf (bytes : List Byte) : List Byte := sha384 (toBytes 8 bytes.length ++ bytes)

/-- The reads of a region that a thread measures. -/
def CodeSpan.parts (g : CodeSpan) : List AgentPart := g.keys.map fun k => { key := k.1, n := k.2, op := .load k.2, scope := 3 }

/-- Reads of the regions that the lanes of `PUBLISH.m` measure are requested where they lie in other devices (R15, R20): whether all have their
answers. Lines of the host that fail IDE are discarded, to be read again (R29). -/
def State.codeAsk (s : State) (x : Convoy) (gs : List CodeSpan) : Bool × State :=
  let gs := gs.filter fun g => g.fail.isNone
  match s.linkFail ((gs.flatMap CodeSpan.keys).filter fun k => !isLocal k.1 && !isRemote k.1) with
  | some s => (false, s)
  | none =>
    let l := s.launchOf (s.tm x.key)
    gs.foldl (fun acc g =>
      let (ok, s) := acc.2.agentAwait (codeAgent x.key (tidOf x.q g.ln)) l.world l.asid g.parts
      (acc.1 && ok, s)) (true, s)

/-- The requests of the lanes that measure are over. -/
def State.codeOver (s : State) (x : Convoy) : State :=
  s.askOver fun r => x.act.any fun ln => r.agent == codeAgent x.key (tidOf x.q ln)

/-- The measuring step of `PUBLISH.m` in a lane (R187): the failure, or the state after (log 40, DEDUCED). -/
def State.publishMeasured (s : State) (x : Convoy) (d : BitVec 8) (g : CodeSpan) : Except Fail State :=
  let t := s.tm x.key
  let l := s.launchOf t
  if g.len = 0 then .ok s
  else if 8 ≤ l.table.length then .error (.permission, 7)
  else
    match s.answerFail (codeAgent x.key (tidOf x.q g.ln)) g.parts with
    | some f => .error f
    | none =>
    match g.keys.mapM fun k => s.load l.world k.1 k.2 with
    | .error f => .error f
    | .ok bss =>
      let mark := touchmarkOf bss.flatten
      let words := (List.range 12).map fun k => BitVec.ofNat 32 (ofBytes ((mark.drop (4 * k)).take 4))
      .ok ((s.setLaunch t.launch (l.measure mark g.start.toNat g.len)).onTm x.key fun t =>
        t.setThread (tidOf x.q g.ln) ((t.lane x.q g.ln).setGroup d words))

/-- One lane of `PUBLISH` or `RETRACT` (R186, R187, R190): a lane with a failure performs nothing (R240; log 40, DEDUCED). -/
def State.codeLane (s : State) (x : Convoy) (scp : BitVec 3) (retract : Bool) (meas : Option (BitVec 8)) (g : CodeSpan) :
    List Hit × State :=
  let hit (f : Fail) : List Hit := [{ ln := g.ln, c := f.1, addr := g.start, detail := f.2 }]
  match g.fail with
  | some f => (hit f, s)
  | none =>
    match (match meas with | none => Except.ok s | some d => s.publishMeasured x d g) with
    | .error f => (hit f, s)
    | .ok s => ([], s.markCode retract (s.scopeCores (s.tm x.key) scp) (localLines g.keys))

/-- The lanes of a code instruction that has issued, in ascending order, with what each region gave. -/
def State.codeLanes (s : State) (x : Convoy) (i : Instr) (scp : BitVec 3) (retract : Bool) (meas : Option (BitVec 8))
    (gs : List CodeSpan) : State :=
  let (hs, s) := gs.foldl (fun (acc : List Hit × State) g =>
    let (h, s) := acc.2.codeLane x scp retract meas g
    (acc.1 ++ h, s)) ([], s)
  let bad := x.lanes.filter fun ln => hs.any fun h => h.ln == ln
  let s := (s.uncount x bad).advance x (x.lanes.filter fun ln => !bad.contains ln) i.len
  hs.foldl (fun s h => s.raise x.key x.q x.pc [h] (own := s.inHandler x.key)) s

/-- The regions of the active lanes. -/
def State.regions (s : State) (x : Convoy) (right : Right) (meas : Bool) (ad : MemAddr) (c : BitVec 8) : List Span :=
  let t := s.tm x.key
  x.act.map fun ln => regionOf (recordOf (t.brec ad.brec)) right meas ad ((t.lane x.q ln).r32 c).toNat ln (t.lane x.q ln)

/-- `PUBLISH` and `RETRACT` (R185, R186, R190): an absent page parks the squad before any step; `PUBLISH` then waits, with the regions as
read at issue, for the stores that its core has accepted. -/
def State.codeOp (s : State) (i : Instr) (ad : MemAddr) (c : BitVec 8) (scp : BitVec 3) (retract : Bool)
    (meas : Option (BitVec 8)) : State :=
  let right : Right := if retract then .write else .read
  let us : List Use4 := if retract then [.fetch, .store] else [.fetch]
  s.issue i (fun s x => (s.regions x right meas.isSome ad c).flatMap (·.hits)) fun s x =>
    match s.inAmid x with
    | some m => s.releasing x i 3 (fun s => (s.codeLanes x i scp false meas m.spans).codeOver x) (ready := fun s => if meas.isSome then s.codeAsk x m.spans else (true, s))
    | none =>
    let (gs, s) := (s.regions x right meas.isSome ad c).foldl (fun (acc : List (Span × Pieces) × State) g =>
      let (p, s) := acc.2.piecesOf x.key g us meas.isSome
      (acc.1 ++ [(g, p)], s)) ([], s)
    let absent := gs.flatMap fun g => g.2.absent.map fun va => (g.1.ln, g.1.start, va)
    if !absent.isEmpty then s.parkAt x (s.launchOf (s.tm x.key)).asid (us.headD .fetch) absent
    else
      let spans : List CodeSpan := gs.map fun g =>
        { ln := g.1.ln, start := g.1.start, len := g.1.len, keys := g.2.keys, fail := g.2.fail.map (·.1) }
      if retract then (s.issued x x.lanes).codeLanes x i scp true none spans
      else s.releasing x i 3 (fun s => (s.codeLanes x i scp false meas spans).codeOver x) spans fun s => if meas.isSome then s.codeAsk x spans else (true, s)

/-- `PUBLISH` (R186). -/
def execPublish (h : Hd) (ad : MemAddr) (c : BitVec 8) (ord scp : BitVec 3) (s : State) : Out3 :=
  .next (s.codeOp (.publish h ad c ord scp) ad c scp false none)

/-- `PUBLISH.m` (R187). -/
def execPublishM (h : Hd) (d : BitVec 8) (ad : MemAddr) (c : BitVec 8) (ord scp : BitVec 3) (s : State) : Out3 :=
  .next (s.codeOp (.publishM h d ad c ord scp) ad c scp false (some d))

/-- `RETRACT` (R190). -/
def execRetract (h : Hd) (ad : MemAddr) (c : BitVec 8) (ord scp : BitVec 3) (s : State) : Out3 :=
  .next (s.codeOp (.retract h ad c ord scp) ad c scp true none)

/-- A block or line of code overlaps a region. -/
def Span.covers (g : Span) (va n : Nat) : Bool := g.len != 0 && decide (va < g.start.toNat + g.len) && decide (g.start.toNat < va + n)

/-- `ADOPT` in a lane (R188). -/
def State.adoptLane (s : State) (x : Convoy) (g : Span) : State :=
  let t := s.tm x.key
  let asid := (s.launchOf t).asid
  let c := s.core t.core
  (s.setCore t.core { c with l1i := c.l1i.filter fun l => !(l.asid == asid && g.covers l.va 128) }).onTm x.key fun t =>
    let th := t.lane x.q g.ln
    let q := t.squad x.q
    (t.setThread (tidOf x.q g.ln) { th with loops := th.loops.filter fun e => !(e.asid == asid && g.covers e.va 32) }).setSquad x.q
      { q with latch := q.latch.filter fun e => !(e.asid == asid && g.covers e.va 32) }

/-- `ADOPT` (R188): it translates nothing. -/
def execAdopt (h : Hd) (ad : MemAddr) (c : BitVec 8) (ord scp : BitVec 3) (s : State) : Out3 :=
  let i : Instr := .adopt h ad c ord scp
  .next (s.issue i (fun s x => (s.regions x .read false ad c).flatMap (·.hits)) fun s x =>
    (s.regions x .read false ad c).foldl (fun s g => s.adoptLane x g) ((s.issued x x.lanes).advance x x.lanes i.len))

end Sys2Proof.Machine
end

