-- ==== Sys2Proof/Machine/Copies.lean ====
section
/-!
DEFINITION. The copy unit (R203 to R212, R342, R343): the issue of copies, the transfer of their units, and their end.
-/
namespace Sys2Proof.Machine

/-- Copies that a core's journal may hold (R203). -/
def journalSize : Nat := 128
/-- The most bytes that a copy moves (R204). -/
def copyLimit : Nat := 2 ^ 28 - 16

/-- The side of a copy at an address of a record. -/
def State.sideOf (s : State) (key : Nat) (r : Record) (start : Nat) : Side :=
  { team := if r.space = 0 then none else s.sliceTeam key (s.tm key) r.space, start }

/-- Form and check one side of a copy in a lane (R205): the whole range lies in the window, and OOBZ does not apply. -/
def State.sideHits (s : State) (key : Nat) (r : Record) (right : Right) (size : Nat) (idx : BitVec 8) (imm : Int) (ln : Nat)
    (th : Thread) : Dword × List Hit :=
  let la := r.lane right size 16 idx imm ln th
  let hit (c : Cause) (detail : Word) : Hit := { ln, c, addr := la.addr, detail }
  (la.addr, la.hits ++ (if la.oob then [hit .bounds 0] else [])
    ++ (if r.space != 0 && (s.sliceTeam key (s.tm key) r.space).isNone then [hit .permission 5] else []))

/-- The causes of an operand that must be a multiple of 16 within limits (R205). -/
def limitHits (ln lo hi v : Nat) : List Hit :=
  (if v < lo ∨ hi < v then [{ ln, c := .bounds }] else []) ++ (if v % 16 != 0 then [{ ln, c := .align }] else [])

/-- The causes of a count (R205). -/
def countHits (ln v : Nat) : List Hit := if v < 1 ∨ 65536 < v then [{ ln, c := .bounds }] else []

/-- A copy of a lane and the causes that its operands raise. -/
structure CopyForm where
  kind : CopyKind
  units : Nat
  srcSize : Nat
  dstSize : Nat
  gather : Bool := false
  hits : List Hit

/-- The shape of a copy in a lane, from its length or group registers (R204, R205). -/
def copyForm (i : Instr) (key : Nat) (s : State) (ln : Nat) (th : Thread) : CopyForm :=
  let t := s.tm key
  let v (r : BitVec 8) (k : Nat) : Nat := (th.r32 (r + BitVec.ofNat 8 k)).toNat
  match i with
  | .copy2d _ k _ =>
    let row := v k.len 0
    let rows := v k.len 1
    let sp := v k.len 2
    let dp := v k.len 3
    let excess (c : Bool) : List Hit := if c then [{ ln, c := .bounds }] else []
    { kind := .rows row rows sp dp, units := row / 16 * rows
      srcSize := (rows - 1) * sp + row, dstSize := (rows - 1) * dp + row
      hits := limitHits ln 16 65536 row ++ limitHits ln 0 (2 ^ 32) sp ++ limitHits ln 0 (2 ^ 32) dp ++ countHits ln rows
        ++ excess (sp < row) ++ excess (dp < row) ++ excess (copyLimit < row * rows) }
  | .copyg _ k _ =>
    let elem := v k.len 0
    let count := v k.len 1
    let idx := v k.len 2
    let r := recordOf (t.brec k.sRec)
    let excess (c : Bool) : List Hit := if c then [{ ln, c := .bounds }] else []
    { kind := .gather elem count idx (max r.stride 1) k.sImm.toNat r.extent r.base, units := elem / 16 * count
      srcSize := 0, dstSize := elem * count, gather := true
      hits := limitHits ln 16 4096 elem ++ countHits ln count ++ excess (copyLimit < elem * count)
        ++ excess ((s.launchOf t).hdr.scratch * 4096 < idx + 4 * count) ++ (if idx % 4 != 0 then [{ ln, c := .align }] else []) }
  | .copyrem _ k scp _ _ =>
    let n := v k.len 0
    { kind := .put scp 0, units := n / 16, srcSize := n, dstSize := n, hits := limitHits ln 0 copyLimit n }
  | .copy _ k _ =>
    let n := v k.len 0
    { kind := .linear, units := n / 16, srcSize := n, dstSize := n, hits := limitHits ln 0 copyLimit n }
  | _ => { kind := .linear, units := 0, srcSize := 0, dstSize := 0, hits := [] }

/-- The counter of a `COPYREM` (R204, R205): a global record with ATOMIC, 8 bytes, aligned. -/
def counterOf (i : Instr) (t : Team) (ln : Nat) (th : Thread) : Nat × List Hit :=
  match i with
  | .copyrem _ _ _ cRec cOff =>
    let r := recordOf (t.brec cRec)
    let la := r.lane .atomic 8 8 255 (8 * cOff.toNat) ln th
    let hit (c : Cause) (detail : Word) : Hit := { ln, c, addr := la.addr, detail }
    (la.addr.toNat, la.hits ++ (if la.oob then [hit .bounds 0] else []) ++ (if r.space != 0 then [hit .permission 1] else []))
  | _ => (0, [])

/-- The copy that a lane issues, with the causes at issue (R204, R205). -/
def State.copyLane (s : State) (x : Convoy) (i : Instr) (k : CopyArgs) (bar : Option Nat) (ln : Nat) : Copy × List Hit :=
  let t := s.tm x.key
  let th := t.lane x.q ln
  let f := copyForm i x.key s ln th
  let sr := recordOf (t.brec k.sRec)
  let dr := recordOf (t.brec k.dRec)
  let (sa, sh) := s.sideHits x.key sr .read f.srcSize k.vJ k.sImm.toInt ln th
  let (da, dh) := s.sideHits x.key dr .write f.dstSize k.vK k.dImm.toInt ln th
  let sh := if f.gather then sh.filter fun h => h.c != .bounds else sh
  let (counter, ch) := counterOf i t ln th
  let kind : CopyKind := match f.kind with | .put scp _ => .put scp counter | kd => kd
  ({ team := x.key, tid := tidOf x.q ln, core := t.core, pc := x.pc, vS := k.vS, kind
     asid := (s.launchOf t).asid, world := (s.launchOf t).world, ctx := (s.launchOf t).ctx
     src := s.sideOf x.key sr (if f.gather then sr.base else sa.toNat), dst := s.sideOf x.key dr da.toNat
     units := f.units, bar }, f.hits ++ sh ++ dh ++ ch)

/-- The causes of a copy instruction at issue (R205). -/
def State.copyHits (s : State) (x : Convoy) (i : Instr) (k : CopyArgs) (bar : Option Nat) : List Hit :=
  let t := s.tm x.key
  let ln := x.act.headD 0
  if x.act.isEmpty then []
  else (if (s.launchOf t).hdr.producers.getLsbD x.q then [] else [{ ln, c := .producerOnly }])
    ++ (match bar with
        | some n => if (t.bar n).valid || !s.hasBar x.key n then [] else [{ ln, c := .barrierMisuse, detail := 1 }]
        | none => [])
    ++ x.act.flatMap fun ln => (s.copyLane x i k bar ln).2

/-- A copy enters the journal (R203, R209): it attaches to its barrier, and its lookahead window opens. -/
def State.enterCopy (s : State) (x : Convoy) (h : Hd) (ord : Bool) (c : Copy) : State :=
  let (k, s) := s.take
  let after := if ord then (s.copies.filter fun e => e.2.team == c.team && e.2.tid == c.tid).map (·.1) else []
  let s := { s with copies := s.copies.put k { c with after } }
  s.onTm x.key fun t =>
    let t := match c.bar with
      | some n => t.setBar n { t.bar n with pending := (t.bar n).pending + 1 }
      | none => t
    t.setThread c.tid ((t.thread c.tid).window k h.la)

/-- The meaning of a copy instruction (R203, R205): each active lane issues a copy, in ascending order; it is not ready while the
journal or its barrier has no room. -/
def State.copyOp (s : State) (i : Instr) (h : Hd) (k : CopyArgs) (bar : Option Nat) : State :=
  s.issue i (fun s x => s.copyHits x i k bar) fun s x =>
    let t := s.tm x.key
    let n := x.act.length
    let full := journalSize < (s.copies.filter fun e => e.2.core == t.core).length + n
    let held := match bar with | some b => 128 < (t.bar b).pending + n | none => false
    if full || held then s
    else
      let cs := x.act.map fun ln => (s.copyLane x i k bar ln).1
      let s := (s.issued x x.lanes).advance x x.lanes i.len
      cs.foldl (fun s c => s.enterCopy x h k.ord c) s

/-- The barrier of a copy. -/
def CopyBar.num (b : CopyBar) : Option Nat := if b.arr then some b.nb.toNat else none

/-- `COPY` (R204). -/
def execCopy (h : Hd) (k : CopyArgs) (bar : CopyBar) (s : State) : Out3 := .next (s.copyOp (.copy h k bar) h k (CopyBar.num bar))
/-- `COPY2D` (R204). -/
def execCopy2d (h : Hd) (k : CopyArgs) (bar : CopyBar) (s : State) : Out3 :=
  .next (s.copyOp (.copy2d h k bar) h k (CopyBar.num bar))
/-- `COPYG` (R204). -/
def execCopyg (h : Hd) (k : CopyArgs) (bar : CopyBar) (s : State) : Out3 := .next (s.copyOp (.copyg h k bar) h k (CopyBar.num bar))
/-- `COPYREM` (R204, R210). -/
def execCopyrem (h : Hd) (k : CopyArgs) (scp : BitVec 3) (cRec : BitVec 4) (cOff : BitVec 6) (s : State) : Out3 :=
  .next (s.copyOp (.copyrem h k scp cRec cOff) h k none)

/-- The address or offset that a unit is read from; none for an index out of the source record's window (R204, R208). -/
def Copy.srcAt (c : Copy) (u : Nat) : Option Nat :=
  match c.kind with
  | .linear | .put .. => some (c.src.start + 16 * u)
  | .rows row _ sp _ => some (c.src.start + u / (row / 16) * sp + 16 * (u % (row / 16)))
  | .gather elem _ _ stride imm extent _ =>
    let o : Int := (c.indices.getD (u / (elem / 16)) 0 * stride : Nat) + (BitVec.ofNat 24 imm).toInt
    if o < 0 ∨ (extent : Int) < o + elem then none else some (c.src.start + o.toNat + 16 * (u % (elem / 16)))

/-- The address or offset that a unit is written to. -/
def Copy.dstAt (c : Copy) (u : Nat) : Nat :=
  match c.kind with
  | .rows row _ _ dp => c.dst.start + u / (row / 16) * dp + 16 * (u % (row / 16))
  | _ => c.dst.start + 16 * u

/-- The error code of a failure that is not one of translation (R208; log 42, DEDUCED). -/
def copyErr (f : Fail) : Nat :=
  match f.1 with
  | .world => 1
  | .integrity => if f.2 = 1 ∨ f.2 = 2 then 2 else 7
  | .poison => 3
  | .ingotAccess => 4
  | _ => 6

/-- The error code of a failed translation (R208). -/
def xlatErr (f : Fail) : Nat := if f.1 = .permission then 5 else 6

/-- What a copy finds when it reaches for a unit. -/
inductive Unit16 where
  | wait
  | err (code : Nat)
  | bytes (bs : List Byte)
  deriving DecidableEq, Repr

/-- The agent number of a copy (R365). -/
def copyAgent (k : Nat) : Nat := agentNum .copy k

/-- The pieces of a unit of a copy that it accesses at keys: what lies in another device is requested there, and the unit waits for the answer
(R20, R31). None while it waits, or the error code. -/
def State.copyAsk (s : State) (k : Nat) (c : Copy) (ps : List AgentPart) : Option (Option Nat) × State :=
  match s.agentAwait (copyAgent k) c.world c.asid ps with
  | (false, s) => (none, s)
  | (true, s) => (some ((s.answerFail (copyAgent k) ps).map copyErr), s)

/-- Read unit u, 16 bytes of a side of a copy; only the pages it lies in need be present (R206, R365). -/
def State.copyRead (s : State) (k : Nat) (c : Copy) (u : Nat) (side : Option Nat) (at_ : Nat) : Unit16 × State :=
  match side with
  | some t => (match s.sliceLoad t at_ 0 16 with | .ok bs => .bytes bs | .error f => .err (copyErr f), s)
  | none =>
    match s.agentKeys (copyAgent k) c.world c.asid .load (pagesOf at_ 16) with
    | (.wait, s) => (.wait, s)
    | (.fail f, s) => (.err (xlatErr f), s)
    | (.ok ks, s) =>
    match s.linkFail ks with
    | some s => (.wait, s)
    | none =>
      match s.copyAsk k c (ks.map fun p => { key := p.1, n := p.2, op := .load p.2, scope := 3, unit := u }) with
      | (none, s) => (.wait, s)
      | (some (some e), s) => (.err e, s)
      | (some none, s) =>
        match ks.mapM fun p => s.load c.world p.1 p.2 with
        | .error f => (.err (copyErr f), s)
        | .ok bss => (.bytes bss.flatten, s)

/-- Write bytes from an offset of a unit on (R206, R208): after a failed source, a global line takes POISON and scratchpad stays unchanged. The
request for another device has no field for the mark, which stands beside the remote line alone (R19, R44; log 67, DESIGN CHOICE). The L1
copy of the line in the issuing core goes (R177). True where the bytes were written. -/
def State.copyWrite (s : State) (k : Nat) (c : Copy) (u off : Nat) (bs : List Byte) (poison : Bool) : Unit16 × Bool × State :=
  let at_ := c.dstAt u + off
  match c.dst.team with
  | some t =>
    if poison then (.bytes bs, false, s)
    else match s.sliceStore t at_ 0 bs with
      | .ok s => (.bytes bs, true, s)
      | .error f => (.err (copyErr f), false, s)
  | none =>
    match s.agentXlat (copyAgent k) c.world c.asid at_ .store with
    | (.wait, s) => (.wait, false, s)
    | (.fail f, s) => (.err (xlatErr f), false, s)
    | (.ok key, s) =>
      match s.copyAsk k c [{ key, n := bs.length, op := .store, data := bs, scope := 3, unit := u }] with
      | (none, s) => (.wait, false, s)
      | (some (some e), s) => (.err e, false, s)
      | (some none, s) =>
        match s.store c.world (cellsAt key bs) with
        | .error f => (.err (copyErr f), false, s)
        | .ok s =>
          let s := if poison then s.setLine key { s.line key with poison := true } else s
          (.bytes bs, true, s.dropL1 c.core key)

/-- Read a source unit of a copy. -/
def State.copyFetch (s : State) (k : Nat) (c : Copy) (u : Nat) : Unit16 × State :=
  match c.srcAt u with
  | none => (.err 8, s)
  | some a => s.copyRead k c u c.src.team a

/-- The source and destination of a copy overlap in one space (R206). -/
def Copy.overlap (c : Copy) : Bool :=
  let us := List.range c.units
  let ss := us.filterMap c.srcAt
  let ds := us.map c.dstAt
  c.src.team == c.dst.team && ss.any fun a => ds.any fun b => decide (a < b + 16) && decide (b < a + 16)

/-- What precedes a copy is done (R176): the accesses its core accepted before it, and under `.ord` the earlier copies of its
thread. -/
def State.copyReady (s : State) (k : Nat) (c : Copy) : Bool :=
  !(s.flights.any fun (j, f) => decide (j < k) && f.core == c.core && f.pending)
    && !(c.after.any fun j => (s.copies.find j).isSome)

/-- A unit fails (R208): the code of the failed unit at the lowest destination offset stands. -/
def Copy.fail (c : Copy) (u code : Nat) : Copy :=
  if c.err = 0 ∨ u < c.errUnit then { c with err := code, errUnit := u } else c

/-- A unit fails in a way that stops the copy. -/
def Copy.stop (c : Copy) (u code : Nat) : Copy :=
  let c := c.fail u code
  { c with stopAt := some (match c.stopAt with | some v => min u v | none => u), handled := u :: c.handled }

/-- The bytes of a source unit whose check failed or whose line is poisoned: as they stand, or stood at the start of an overlapping copy. -/
def State.rawUnit (s : State) (k : Nat) (c : Copy) (u : Nat) : List Byte :=
  if u < c.snap.length then (c.snap.getD u ([], 0)).1
  else match c.src.team, c.srcAt u with
  | some t, some a => (s.tm t).sliceRead a 0 16
  | none, some a =>
    match s.agentKeys (copyAgent k) c.world c.asid .load (pagesOf a 16) with
    | (.ok ks, _) => ks.flatMap fun p => s.read p.1 p.2
    | _ => List.replicate 16 0
  | _, none => List.replicate 16 0

/-- A unit fails with a code whose copy goes on (R208): its source fails its check or is poisoned. -/
def goesOn (code : Nat) : Bool := code == 2 || code == 3

/-- Read the units of an overlapping copy from one on, for its snapshot (R206): a unit that stops the copy ends the reading. The copy with what
was read, and whether no unit waits for its page. -/
def State.snapshot (s : State) (k : Nat) : List Nat → Bool → Copy → Copy × Bool × State
  | [], full, c => (c, full, s)
  | u :: us, full, c =>
    if c.stopAt.any fun v => decide (v ≤ u) then (c, full, s)
    else match s.copyFetch k c u with
    | (.wait, s) => s.snapshot k us false c
    | (.bytes bs, s) => s.snapshot k us full { c with snap := c.snap ++ [(bs, 0)] }
    | (.err e, s) => s.snapshot k us full (if goesOn e then { c with snap := c.snap ++ [(s.rawUnit k c u, e)] } else c.stop u e)

/-- Start a copy (R206): a gather reads its indices, an overlapping copy its whole source; it has not started while it waits for a page or for
another device. -/
def State.startCopy (s : State) (k : Nat) (c : Copy) : Copy × State :=
  let c := match c.kind with
    | .gather _ count idx _ _ _ _ =>
      match s.sliceLoad c.team idx 0 (4 * count) with
      | .ok bs => { c with indices := (List.range count).map fun j => ofBytes ((bs.drop (4 * j)).take 4) }
      | .error f => c.stop 0 (copyErr f)
    | _ => c
  if !c.overlap then ({ c with started := true }, s)
  else
    let (c', full, s) := s.snapshot k (List.range c.units) true c
    if full then ({ c' with started := true }, s.askOver fun r => r.agent == copyAgent k) else (c, s)

/-- The unit as read: from the source as it was at the start where it overlaps, else from the source now. A unit with a failed check
or a poisoned line is still copied, with the bytes as they stand (R208). -/
def State.copySource (s : State) (k : Nat) (c : Copy) (u : Nat) : Unit16 × State :=
  if c.snap.isEmpty then s.copyFetch k c u
  else
    let p := c.snap.getD u ([], 6)
    (if p.2 = 0 then .bytes p.1 else .err p.2, s)

/-- A unit of a copy is over: its requests are too. -/
def State.unitOver (s : State) (k u : Nat) (c : Copy) : State :=
  { s.askOver fun r => r.agent == copyAgent k && r.unit == u with copies := s.copies.put k { c with part := c.part.del u } }

/-- A part of a unit that the copy unit writes: the bytes from an offset on, and the failure of the source. The last part ends the unit. -/
def State.copyPart (s : State) (k : Nat) (c : Copy) (u off : Nat) (bs : List Byte) (code : Nat) : State :=
  match s.copyWrite k c u off bs (code != 0) with
  | (.wait, _, s) => s
  | (.err e, _, s) => s.unitOver k u (c.stop u e)
  | (.bytes _, ok, s) =>
    let c := if code = 0 then c else c.fail u code
    if off + bs.length < 16 then { s with copies := s.copies.put k { c with part := c.part.put u (c.part.look 0 u + 1) } }
    else s.unitOver k u { c with handled := u :: c.handled, written := c.written + ok.toNat }

/-- Transfer the next 4-byte part of a unit of a started copy (R168, R206, R208; log 42, DEDUCED). -/
def State.copyUnit (s : State) (k : Nat) (c : Copy) (u : Nat) : State :=
  if c.units ≤ u || c.handled.contains u || (c.stopAt.any fun v => decide (v ≤ u)) then s
  else
    let off := 4 * c.part.look 0 u
    let part (bs : List Byte) : List Byte := (bs.drop off).take 4
    match s.copySource k c u with
    | (.wait, s) => s
    | (.bytes bs, s) => s.copyPart k c u off (part bs) 0
    | (.err e, s) => if goesOn e then s.copyPart k c u off (part (s.rawUnit k c u)) e else s.unitOver k u (c.stop u e)

/-- A copy of a team that a freeze has halted stops (R102); one whose ranges overlap runs on. -/
def State.copyHeld (s : State) (c : Copy) : Bool :=
  (s.ctx c.ctx).phase == .freezing && (s.tm c.team).squads.all (·.run == .stopped) && !c.overlap

/-- `COPY_TRANSFER` (R206): the copy unit starts a copy, or transfers a part of a unit of a started copy; a unit of a held copy goes on only where
its requests are out. Requests of the unit to other devices that have no answer take the outcome that the step brings (log 56, DESIGN CHOICE). -/
def State.copyTransfer (s : State) (u : Nat) (res : FabricRes) : State :=
  match s.copies.find s.who with
  | none => s
  | some c =>
    let asked := s.areqs.any fun r => r.2.agent == copyAgent s.who && r.2.unit == u
    if !s.copyReady s.who c || (s.copyHeld c && !asked) then s
    else
      let s := if c.handled.contains u then s else s.answerUnit (copyAgent s.who) u res
      if c.started then s.copyUnit s.who c u
      else
        let (c', s') := s.startCopy s.who c
        { s' with copies := s'.copies.put s.who c' }

/-- `COPY_TRANSFER` (R206). -/
def execCopyTransfer (n : Nat) (res : FabricRes) (s : State) : Out3 := .next (s.copyTransfer n res)

/-- Every unit that the copy still has to move has been moved or has failed. -/
def Copy.over (c : Copy) : Bool := c.started && (List.range (c.stopAt.getD c.units)).all fun u => c.handled.contains u

/-- The status word (R207). -/
def Copy.status (c : Copy) : Word := BitVec.ofNat 32 (2 ^ 31 + c.err % 128 * 2 ^ 24 + c.written % 2 ^ 24)

/-- The counter add of a `COPYREM` whose data units have all been acknowledged (R210, R177): the copy with the outcome, or none
while it waits for its release, a page or the home's answer. The core's L1 copy of the counter goes too. -/
def State.copyCount (s : State) (k : Nat) (c : Copy) : Option Copy × State :=
  match c.kind with
  | .put scp counter =>
    if c.err != 0 || c.counted then (some c, s)
    else
      let (r, s) := match c.rel with
        | some r => (r, s)
        | none => s.startRelease none c.ctx scp.toNat
      let (r, s) := s.pumpRelease r
      if r.lost then (some { c with err := 9, counted := true, rel := none }, s)
      else if !r.done then (none, { s with copies := s.copies.put k { c with rel := some r } })
      else
        let s := { s with copies := s.copies.put k { c with rel := some r } }
        match s.agentAdd (copyAgent k) c.world c.asid counter 1 true scp.toNat with
        | (.wait, s) => (none, s)
        | (.fail _, s) => (some { c with err := 9, counted := true, rel := none }, s)
        | (.ok _, s) =>
          let s := match s.agentXlat (copyAgent k) c.world c.asid counter .atomic with
            | (.ok key, s) => s.dropL1 c.core key
            | (_, s) => s
          (some { c with counted := true, rel := none }, s)
  | _ => (some c, s)

/-- `COPY_COMPLETE` (R209, R210): a copy that is over makes its counter add, writes its status word, and arrives. -/
def State.copyComplete (s : State) : State :=
  match s.copies.find s.who with
  | none => s
  | some c =>
    let put : Bool := match c.kind with | .put .. => true | _ => false
    if !c.over || (put && s.copyHeld c && !s.areqs.any fun r => r.2.agent == copyAgent s.who) then s
    else match s.copyCount s.who c with
      | (none, s) => s
      | (some c, s) =>
        let s := ({ s with copies := s.copies.del s.who } : State).askOver fun r => r.agent == copyAgent s.who
        (s.onTm c.team fun t =>
          let t := t.setThread c.tid ((t.thread c.tid).setReg c.vS c.status 0)
          match c.bar with
          | some n => t.copyArrive n
          | none => t).deadlock c.team

/-- `COPY_COMPLETE` (R209). -/
def execCopyComplete (s : State) : Out3 := .next s.copyComplete

end Sys2Proof.Machine
end

