-- ==== Sys2Proof/Machine/Keys.lean ====
section
/-!
DEFINITION. The device's keys and what leaves its dies under them (R38, R39, R47): data keys and the lines that the stacks hold, the keystreams
of the die-to-stack links, the identity, alias and wrapping keys, and what the alias key signs (R47, R56).
-/
namespace Sys2Proof.Machine

/-- The data key of the region that holds a local address (R38): the two keys of XTS, derived from the root key of the region's world, the
region index and GEN (log 10, DESIGN CHOICE). -/
def State.dataKeys (s : State) (pa : Nat) : List Byte × List Byte :=
  let x := s.region pa
  let root := drawn 64 (s.worlds.look (0, 0) x.world.toNat).1
  let out := kdf (root.take 32) [] (root.drop 32 ++ toBytes 4 (pa / 2 ^ 21) ++ toBytes 4 x.gen) 512
  (out.take 32, out.drop 32)

/-- The line at a local address as its stack holds it (R38): the tweak is address bits [43:7]. -/
def State.storedLine (s : State) (pa : Nat) : List Byte :=
  xtsEnc (s.dataKeys pa).1 (s.dataKeys pa).2 (pa / 128) (s.read (pa / 128 * 128) 128)

/-- The metadata word of a line (R41). -/
def LineMeta.word (m : LineMeta) : Nat :=
  m.checkLo.toNat + 2 ^ 24 * m.checkHi.toNat + 2 ^ 48 * ((if m.poison then 1 else 0) + (if m.ingot then 2 else 0) + (if m.retracted then 4 else 0))

/-- The metadata line of the 16 lines that hold a local address, as its stack holds it (R38): the tweak is its carve-out address with bit 127
set; metadata lines lie in the order of their data (log 10, DESIGN CHOICE). -/
def State.storedMeta (s : State) (pa : Nat) : List Byte :=
  let g := pa / 2048
  xtsEnc (s.dataKeys pa).1 (s.dataKeys pa).2 (2 ^ 127 + 128 * g)
    ((List.range 16).flatMap fun j => toBytes 8 (s.line (2048 * g + 128 * j)).word)

/-- The link number and the direction of a direction of a die-to-stack link, as bytes (R39). -/
def linkDir (k : Nat) : List Byte := toBytes 1 (k / 2) ++ toBytes 1 (k % 2)

/-- Key i of a direction of a link (R39), and IV i (log 17, PRESUMED: the IV's bytes lie as the key's context does). -/
def State.linkKey (s : State) (k i : Nat) : List Byte :=
  kdf (drawn 32 (s.boot.links + k / 2)) [0x43, 0x5A, 0x2D, 0x4C, 0x49, 0x4E, 0x4B] (linkDir k ++ toBytes 8 i) 80
def linkIv (k i : Nat) : List Byte := linkDir k ++ toBytes 8 i

/-- The bytes that a direction moves with one key: 2^40 bits (R39). -/
def rekeyAfter : Nat := 2 ^ 40 / 8

/-- What crosses a direction of a link, from the byte `at_` of its present key's use on: bytes under the keystream (R39). -/
def State.crossing (s : State) (k at_ : Nat) (bs : List Byte) : List Byte :=
  let x := s.linkKeys.look (0, 0) k
  xorBytes bs (trivium (s.linkKey k x.1) (linkIv k x.2) at_ bs.length)

/-- A private key by the handle of its draw: a factor from 1 to the order (log 17, PRESUMED). -/
def privateKey (handle : Nat) : Nat := 1 + Config.random handle % (ecN - 1)
/-- The public half of a private key. -/
def publicKey (d : Nat) : List Byte := match ecMul d (some ecG) with | some p => ecBytes p | none => []

/-- The device identity key (R47): derived from the fused device secret; how is not said (log 17, PRESUMED). -/
def State.identityKey (s : State) : Nat := privateKey (2 ^ 64 * (1 + 2 * s.fuseSecret))
/-- The measurements of the boot chain (R46). -/
def State.bootMeas (s : State) : List (List Byte) := (List.range 8).map fun k => s.meas.look (List.replicate 48 0) k
/-- The alias key (R47): derived from the device secret and `MEAS0` to `MEAS7` (log 17, PRESUMED). -/
def State.aliasKey (s : State) : Nat := privateKey (2 ^ 64 * (2 + 2 * (ofBytes s.bootMeas.flatten + 2 ^ 3072 * s.fuseSecret)))
/-- The ingot wrapping key (R47). -/
def State.wrapSecret (s : State) : Nat := privateKey s.boot.wrap

/-- The alias key signs bytes (R47): 48 bytes of each part of the signature (log 17, PRESUMED). -/
def State.sign (s : State) (m : List Byte) : List Byte × State :=
  (ecdsa s.aliasKey (privateKey s.entropy) (sha384 m), { s with entropy := s.entropy + 1 })

/-- The tag of the last chunk of an image (R54). -/
def lastTag (chunks : List (List Byte)) : List Byte :=
  match chunks.getLast? with | some b => b.drop (b.length - 16) | none => []

/-- What the destination of a handover signs (R56): SERIAL, last tag and device identifier (log 71, DESIGN CHOICE: their form). -/
def handoverBytes (serial : Nat) (tag : List Byte) (dev : Nat) : List Byte := toBytes 8 serial ++ tag ++ toBytes 4 dev

/-- The destination's answer to PREPARE (R56): COMMIT or ABORTED, signed. -/
def State.handover (s : State) (c : Nat) (m : Image) (ok : Bool) : State :=
  let tag := lastTag m.chunks
  let (sig, s) := s.sign (handoverBytes m.serial tag s.device ++ if ok then [] else [0])
  s.send (.handover c ok m.serial tag s.device sig)

end Sys2Proof.Machine
end

