-- ==== Sys2Proof/Machine/Queues.lean ====
section
/-!
DEFINITION. Queues and the sprue (R58 to R75): their commands, notify records, status records, slots, the acceptance of
packets, and the packets that the sprue itself completes. The queue an event concerns is `who`; of a command, the function.
-/
namespace Sys2Proof.Machine

/-- The place of a function among those to which the firmware allots queues and ASIDs (R58, log 7, DESIGN CHOICE): physical function 0, virtual
functions 1 to 254, then the VM of control core k as function 0x100 + k. -/
def fnPlace (f : Nat) : Option Nat := if f ≤ 254 then some f else if 256 ≤ f ∧ f < 272 then some (f - 1) else none
/-- A number lies in a range (log 7, DESIGN CHOICE). -/
def inRange (r : Nat × Nat) (x : Nat) : Bool := decide (r.1 ≤ x) && decide (x < r.1 + r.2)
/-- A queue number lies in the range of a function (R58, log 7, DESIGN CHOICE). -/
def State.ownsQueue (s : State) (f q : Nat) : Bool :=
  match s.allot.find f, fnPlace f with
  | some r, _ => inRange r.1 q
  | none, some k => q / 15 == k
  | none, none => false
/-- An ASID lies in the range of a function (R58, log 7, DESIGN CHOICE). -/
def State.ownsAsid (s : State) (f a : Nat) : Bool :=
  match s.allot.find f, fnPlace f with
  | some r, _ => inRange r.2 a
  | none, some k => a / 240 == k
  | none, none => false

/-- The context that a queue's launches belong to (R97). -/
def Queue.ctx (q : Queue) : Nat := q.fn * 65536 + q.asid
/-- The queue is in an error state (R64). -/
def Queue.err (q : Queue) : Bool := 3 ≤ q.state
/-- DONEIDX (R63): every packet below it has completed. -/
def Queue.done (q : Queue) : Nat := q.running.foldl min (match q.held with | some p => p.idx | none => q.rdidx)
/-- The status record is owed (R63). -/
def Queue.owe (q : Queue) : Queue := { q with statusDue := some (q.statusDue.getD 0), doneidx := max q.doneidx q.done }

/-- The queue may start a packet now (R69 to R71, R101): its context is not being pre-empted, and earlier packets do not hold
the packet back. -/
def State.canStart (s : State) (q : Queue) (p : Packet) : Bool :=
  (s.ctx q.ctx).phase == .running && !(s.ctx q.ctx).resuming && (!p.barrier || q.running.isEmpty)
    && (match p.body with | .wait .. => p.ready == some true | .signal .. => q.running.isEmpty | _ => true)

/-- The queue may read a packet (R64, R72); one without the key it needs cannot progress (log 72, DEDUCED). -/
def Queue.canRead (q : Queue) : Bool :=
  q.held.isNone && decide (q.rdidx < q.wridx) && q.geom && (!q.auth || q.key.isSome) && !q.destroy
/-- The queue can progress (R64). -/
def State.canProgress (s : State) (q : Queue) : Bool :=
  q.canRead || (match q.held with | some p => s.canStart q p && !q.destroy | none => false)

/-- A queue without a slot is IDLE, or READY where it can progress (R64). -/
def State.refresh (s : State) (q : Queue) : Queue :=
  if q.state ≤ 1 then
    let st := if s.canProgress q then 1 else 0
    if st = q.state then q else { q with state := st }.owe
  else q

/-- Change a queue, where it exists. -/
def State.onQueue (s : State) (n : Nat) (f : Queue → Queue) : State :=
  match s.queue? n with
  | some q => s.setQueue n (s.refresh (f q))
  | none => s

/-- A fresh number that the specification does not give (log 19, DESIGN CHOICE). -/
def State.freeNat (s : State) (bound : Nat) : Nat × State := (Config.freeValue s.free % bound, { s with free := s.free + 1 })

/-- The queue enters an error state (R64): the slot is released, the status record is owed and ERRVEC follows it; with no valid
STATUSADDR ERRVEC is raised alone. `erridx` is the packet that stopped it, `seq` the sequence number it carried where it was
read (log 19, DESIGN CHOICE). -/
def State.stopQueue (s : State) (n code erridx : Nat) (seq : Option Nat) : State :=
  match s.queue? n with
  | none => s
  | some q =>
    if q.err then s
    else
      let (errseq, s) := match seq with | some v => (v, s) | none => s.freeNat (2 ^ 64)
      let held := match q.held with | some p => if p.idx = erridx then none else some p | none => none
      let q := { q with state := code, slot := none, held, erridx, errseq, running := q.running.filter (· != erridx) }
      if q.geom then s.setQueue n { q.owe with errDue := true }
      else (s.setQueue n q).send (.msi q.fn q.errvec)

/-- STAT of a function's `QCMD` (R58): 0 done, 1 busy, 2 refused. -/
def State.qcmdStat (s : State) (f stat : Nat) : State :=
  let x := s.fn f
  s.setFn f { x with qcmd := (x.qcmd &&& 0xC800FFFF07FF0FFF) ||| (BitVec.ofNat 64 stat <<< 60) }

/-- The fields of a busy `QCMD` (R58). -/
structure QCmd where
  oper : Nat
  auth : Bool
  asid : Nat
  errvec : Nat
  num : Nat

/-- Read a function's `QCMD` while it is busy. -/
def State.qcmd? (s : State) (f oper : Nat) : Option QCmd :=
  let v := (s.fn f).qcmd
  if (v.extractLsb' 60 2).toNat = 1 ∧ (v.extractLsb' 62 2).toNat = oper then
    some { oper, auth := v.getLsbD 59, asid := (v.extractLsb' 32 16).toNat, errvec := (v.extractLsb' 16 11).toNat
           num := (v.extractLsb' 0 12).toNat }
  else none

/-- `QUEUE_CREATE` (R58, R59). -/
def execQueueCreate (s : State) : Out3 :=
  let f := s.who
  .next (match s.qcmd? f 1 with
    | none => s
    | some c =>
      let x := s.fn f
      let bad := (s.queue? c.num).isSome || !s.ownsQueue f c.num || !s.ownsAsid f c.asid
        || (!c.auth && 1 ≤ f && f ≤ 254 && 2 ≤ x.world.toNat)
      if bad then s.qcmdStat f 2
      else (s.setQueue c.num { fn := f, asid := c.asid, world := x.world, auth := c.auth, errvec := c.errvec }).qcmdStat f 0)

/-- Unstarted packets of a queue are discarded, and it starts no more (R64). -/
def Queue.ending (q : Queue) : Queue := { q with destroy := true, held := none, slot := none, statusDue := none, errDue := false }

/-- A destroyed queue whose started packets have all completed is gone; its `QCMD` reports done (R64). -/
def State.finishDestroy (s : State) (n : Nat) : State :=
  match s.queue? n with
  | none => s
  | some q =>
    if q.destroy && q.running.isEmpty then
      let s : State := { s with queues := s.queues.del n }
      match s.qcmd? q.fn 2 with
      | some c => if c.num = n then s.qcmdStat q.fn 0 else s
      | none => s
    else s

/-- `QUEUE_DESTROY` (R59, R64): STAT stays busy until every started packet has completed. -/
def execQueueDestroy (s : State) : Out3 :=
  let f := s.who
  .next (match s.qcmd? f 2 with
    | none => s
    | some c =>
      match s.queue? c.num with
      | some q =>
        if !s.ownsQueue f c.num then s.qcmdStat f 2
        else if q.destroy then s
        else (s.setQueue c.num q.ending).finishDestroy c.num
      | none => s.qcmdStat f 2)

/-- `QUEUE_DESTROY_COMPLETE` (R64). -/
def execQueueDestroyComplete (s : State) : Out3 := .next (s.finishDestroy s.who)

/-- `QUEUE_RESTART` (R59, R64): RDIDX stays where the stop left it. A queue in `ERROR_EXHAUSTED` restarts too (log 72, DEDUCED). -/
def execQueueRestart (s : State) : Out3 :=
  let f := s.who
  .next (match s.qcmd? f 3 with
    | none => s
    | some c =>
      match s.queue? c.num with
      | some q =>
        if !s.ownsQueue f c.num || !q.err || q.destroy then s.qcmdStat f 2
        else (s.onQueue c.num fun q => { q with state := 0 }.owe).qcmdStat f 0
      | none => s.qcmdStat f 2)

/-- A notify record (R61). -/
structure Notify where
  wridx : Nat
  ring : Nat
  log : Nat
  prio : Nat
  status : Nat

/-- Bytes of a block as a number (R2). -/
def fieldAt (bs : List Byte) (off n : Nat) : Nat := ofBytes ((bs.drop off).take n)
/-- Bytes of a block that must be zero. -/
def zeroAt (bs : List Byte) (off n : Nat) : Bool := ((bs.drop off).take n).all (· == 0)

/-- The form check of a notify record (R62). -/
def notifyForm (d : List Byte) : Option Notify :=
  let x : Notify := { wridx := fieldAt d 0 8, ring := fieldAt d 8 8, log := fieldAt d 16 1, prio := fieldAt d 17 1, status := fieldAt d 24 8 }
  if x.log < 4 ∨ 16 < x.log ∨ 7 < x.prio ∨ !zeroAt d 18 6 ∨ !zeroAt d 32 32 ∨ x.ring % (2 ^ x.log * 128) ≠ 0 ∨ x.status % 64 ≠ 0 then none
  else some x

/-- The write index of a queue rises (R62, R64); the queue counts as notified when it last rose (R65; log 78, DESIGN CHOICE). -/
def State.raiseWr (s : State) (n wr : Nat) : State :=
  s.onQueue n fun q => if q.wridx < wr then { q with wridx := wr, notified := s.ticks } else q

/-- A well-formed notify record reaches its queue (R62): geometry, then overrun, then the write index and PRIO, which
holds at once (log 63, DEDUCED; log 72, DEDUCED). -/
def State.notify (s : State) (n : Nat) (x : Notify) : State :=
  match s.queue? n with
  | none => s
  | some q =>
    let other := q.geom && (x.ring != q.ringBase.toNat || x.log != q.logSize || x.status != q.statusAddr.toNat)
    if other || decide (q.rdidx + 2 ^ x.log < x.wridx) then s.stopQueue n 7 q.rdidx none
    else
      (s.setQueue n { q with ringBase := BitVec.ofNat 64 x.ring, logSize := x.log, statusAddr := BitVec.ofNat 64 x.status
                             geom := true, prio := x.prio }).raiseWr n x.wridx

/-- `NOTIFY_RECORD` (R61, R62): a write to the notify page of a queue (log 63, DEDUCED); of a function that serves no request none is taken
(R36). One for a queue that is being destroyed is dropped, is not counted and stops no queue (log 78, DESIGN CHOICE). -/
def execNotifyRecord (off : Nat) (data : List Byte) (s : State) : Out3 :=
  let n := s.who
  .next (match s.queue? n with
    | none => s
    | some q =>
      if q.destroy || !(s.fn q.fn).serving then s
      else if off != 0 || data.length != 64 then s.onQueue n fun q => { q with drops := min 0xFFFF (q.drops + 1) }.owe
      else match notifyForm data with
        | some x => s.notify n x
        | none => s.stopQueue n 7 q.rdidx none)

/-- A write index delivered by a thread (R74): the record that the held geometry and PRIO make of it. It is dropped where the queue is being
destroyed (log 78, DESIGN CHOICE). -/
def State.deviceNotify (s : State) (n wr : Nat) : State :=
  match s.queue? n with
  | none => s
  | some q =>
    if q.destroy then s
    else if !q.geom then s.onQueue n fun q => { q with drops := min 0xFFFF (q.drops + 1) }.owe
    else s.notify n { wridx := wr, ring := q.ringBase.toNat, log := q.logSize, prio := q.prio, status := q.statusAddr.toNat }

/-- The bytes of a status record (R63). -/
def Queue.record (q : Queue) : List Byte :=
  toBytes 8 q.rdidx ++ toBytes 8 q.doneidx ++ toBytes 1 q.state ++ toBytes 1 0 ++ toBytes 2 q.drops ++ toBytes 4 0
    ++ toBytes 8 q.erridx ++ toBytes 8 q.errseq ++ toBytes 8 q.expseq ++ toBytes 16 0

/-- The status record is out, or cannot be written: ERRVEC follows a stop (R64). -/
def State.statusOut (s : State) (n : Nat) : State :=
  match s.queue? n with
  | none => s
  | some q =>
    let s := s.setQueue n { q with statusDue := none, errDue := false }
    if q.errDue then s.send (.msi q.fn q.errvec) else s

/-- A status record that cannot be written stops the queue in `ERROR_FAULT` (R64). -/
def State.statusFail (s : State) (n : Nat) : State :=
  match s.queue? n with
  | none => s
  | some q => if q.err then s.statusOut n else (s.stopQueue n 8 q.rdidx none).statusOut n

/-- `STATUS_RECORD_WRITE` (R63): with system-scope release; it waits for that, and for its page (R365). -/
def execStatusRecordWrite (s : State) : Out3 :=
  let n := s.who
  let s := s.onQueue n id
  .next (match s.queue? n with
    | none => s
    | some q =>
      if q.statusDue.isNone then s
      else if !q.geom then s.statusOut n
      else match s.agentRelease (agentNum .status n) q.ctx 5 with
        | (none, s) => s
        | (some false, s) => s.statusFail n
        | (some true, s) =>
          match s.agentWrite (agentNum .status n) q.world q.asid q.statusAddr.toNat q.record with
          | (.wait, s) => s
          | (.fail _, s) => s.statusFail n
          | (.ok _, s) => s.statusOut n)

/-- A slot of a die that a queue may use (R65). -/
def slotFor (q : Queue) (k : Nat) : Bool := k < 32 && (k != 0 || q.prio == 7)
/-- The queues mapped on a die. -/
def State.mapped (s : State) (die : Nat) : List (Nat × Queue) := s.queues.filter fun x => x.1 % 2 == die && x.2.state == 2

/-- The queue is idle (R65). -/
def Queue.idle (q : Queue) : Bool := q.held.isNone && decide (q.wridx ≤ q.rdidx)
/-- The queue is parked (R65). -/
def Queue.parked (q : Queue) : Bool :=
  match q.held with
  | some p => (match p.body with | .wait .. => p.ready == some false | .signal .. => !q.running.isEmpty | _ => false)
  | none => false

/-- The queue of a list that was active least recently (R65); of equals the one of the lowest number (log 78, DESIGN CHOICE). -/
def oldest : List (Nat × Queue) → Option (Nat × Queue)
  | [] => none
  | x :: xs => match oldest xs with | some y => if y.2.active < x.2.active then some y else some x | none => some x

/-- Another READY queue of the die is mapped first: higher PRIO, then notified earlier (R65), then a lower number (log 78,
DESIGN CHOICE). -/
def State.mapBefore (s : State) (n : Nat) (q : Queue) : Bool :=
  s.queues.any fun (m, o) => m % 2 == n % 2 && m != n && (s.refresh o).state == 1 && !o.destroy
    && (q.prio < o.prio || (o.prio == q.prio && (o.notified < q.notified || (o.notified == q.notified && m < n))))

/-- `QUEUE_MAP` (R64 to R66): a READY queue takes the lowest free slot that it may take (log 78, DESIGN CHOICE), or that of an idle or
a parked queue, which is evicted. -/
def execQueueMap (s : State) : Out3 :=
  let n := s.who
  let s := s.onQueue n id
  .next (match s.queue? n with
    | none => s
    | some q =>
      if q.state != 1 || q.destroy || s.mapBefore n q then s
      else
        let used := s.mapped (n % 2)
        let free := (List.range 32).find? fun k => slotFor q k && !used.any fun u => u.2.slot == some k
        let take (k : Nat) (s : State) : State := s.onQueue n fun q => { q with state := 2, slot := some k }.owe
        match free with
        | some k => take k s
        | none =>
          let may := used.filter fun u => slotFor q (u.2.slot.getD 32)
          match (oldest (may.filter fun u => u.2.idle)).or (oldest (may.filter fun u => u.2.parked)) with
          | none => s
          | some (m, o) => take (o.slot.getD 0) (s.onQueue m fun o => { o with state := 0, slot := none }.owe))

/-- The form of a packet (R68 to R70): none where it is malformed (log 46, DEDUCED). -/
def packetForm (idx : Nat) (d : List Byte) : Option Packet :=
  let b (off n : Nat) : Nat := fieldAt d off n
  let scopeOk (k : Nat) : Bool := 3 ≤ k && k ≤ 5
  let body : Option PktBody :=
    match b 0 1 with
    | 0 => if zeroAt d 8 96 then some .nop else none
    | 1 =>
      if b 8 8 % 256 = 0 ∧ b 24 8 % 8 = 0 ∧ scopeOk (b 40 1) ∧ b 41 1 ≤ 1 ∧ zeroAt d 44 60 then
        some (.launch (BitVec.ofNat 64 (b 8 8)) (BitVec.ofNat 64 (b 16 8)) (BitVec.ofNat 64 (b 24 8)) (BitVec.ofNat 64 (b 32 8))
          (b 40 1) (b 41 1 == 1) (b 42 2))
      else none
    | 2 =>
      if b 8 8 % 8 = 0 ∧ scopeOk (b 24 1) ∧ zeroAt d 25 79 then
        some (.wait (BitVec.ofNat 64 (b 8 8)) (BitVec.ofNat 64 (b 16 8)) (b 24 1))
      else none
    | 3 =>
      if b 8 8 % 8 = 0 ∧ b 24 1 ≤ 1 ∧ scopeOk (b 25 1) ∧ b 26 1 ≤ 1 ∧ zeroAt d 27 1 ∧ zeroAt d 30 74 then
        some (.signal (BitVec.ofNat 64 (b 8 8)) (BitVec.ofNat 64 (b 16 8)) (b 24 1 == 1) (b 25 1) (b 26 1 == 1) (b 28 2))
      else none
    | _ => none
  if b 1 1 ≤ 1 ∧ zeroAt d 2 6 then body.map fun body => { idx, seq := b 0x68 8, barrier := b 1 1 == 1, body } else none

/-- The check of a packet's authentication field (R73): the error state, or none. -/
def Queue.authFail (q : Queue) (n : Nat) (d : List Byte) : Option Nat :=
  let seq := fieldAt d 0x68 8
  if q.auth then
    if q.exhausted then some 6
    else if gmac (q.key.getD []) (toBytes 4 n ++ toBytes 8 seq) (d.take 0x70) != d.drop 0x70 then some 5
    else if seq < q.expseq then some 3
    else if q.expseq < seq then some 4
    else none
  else if zeroAt d 0x68 24 then none else some 7

/-- `PACKET_ACCEPT` (R73): the sprue reads the next packet of a mapped queue and accepts it, or the queue stops. -/
def execPacketAccept (s : State) : Out3 :=
  let n := s.who
  .next (match s.queue? n with
    | none => s
    | some q =>
      if q.state != 2 || !q.canRead then s
      else match s.agentRead (agentNum .ring n) q.world q.asid (q.ringBase.toNat + 128 * (q.rdidx % 2 ^ q.logSize)) 128 with
        | (.wait, s) => s
        | (.fail _, s) => s.stopQueue n 8 q.rdidx none
        | (.ok d, s) =>
          let seq := fieldAt d 0x68 8
          match q.authFail n d, packetForm q.rdidx d with
          | some code, _ => s.stopQueue n code q.rdidx (some seq)
          | none, none => s.stopQueue n 7 q.rdidx (some seq)
          | none, some p =>
            let last := q.expseq + 1 = 2 ^ 64
            s.setQueue n { q with
              rdidx := q.rdidx + 1, held := some p, active := s.ticks
              exhausted := q.exhausted || (q.auth && last)
              expseq := if q.auth && !last then q.expseq + 1 else q.expseq }.owe)

/-- The mapped queues whose first unstarted packet can start. -/
def State.starters (s : State) : List (Nat × Queue) :=
  s.queues.filter fun x => x.2.state == 2 && !x.2.destroy && x.2.held.any fun p => s.canStart x.2 p

/-- The queue's packet is the next to start (R67): highest PRIO, in rotation within one PRIO: the next higher queue number after the last
that started, over both dies (log 78, DESIGN CHOICE). -/
def State.chosen (s : State) (n : Nat) (q : Queue) : Bool :=
  let xs := s.starters
  let last := s.rotation.look 4096 q.prio
  let key (m : Nat) : Nat := (m + 4096 - (last + 1) % 4096) % 4096
  xs.any (fun x => x.1 == n) && xs.all fun (m, o) => o.prio < q.prio || (o.prio == q.prio && decide (key n ≤ key m))

/-- A packet starts (R67): it leaves the queue's hold, and runs where it does not complete at once. -/
def State.startPacket (s : State) (n : Nat) (p : Packet) (runs : Bool) : State :=
  match s.queue? n with
  | none => s
  | some q =>
    { s.setQueue n { q with held := none, running := if runs then q.running ++ [p.idx] else q.running }.owe with
      rotation := s.rotation.put q.prio n }

/-- A started packet of a queue completes (R63). -/
def State.packetDone (s : State) (n idx : Nat) : State :=
  s.onQueue n fun q => { q with running := q.running.filter (· != idx) }.owe

/-- The packet a queue may start now, by a test of its body. -/
def State.nextPacket (s : State) (n : Nat) : Option (Queue × Packet) :=
  match s.queue? n with
  | none => none
  | some q => match q.held with | some p => if s.chosen n q then some (q, p) else none | none => none

/-- `NOP_PACKET` (R70). -/
def execNopPacket (s : State) : Out3 :=
  .next (match s.nextPacket s.who with
    | some (_, p) => (match p.body with | .nop => s.startPacket s.who p false | _ => s)
    | none => s)

/-- The sprue reads the counter of a held `WAIT` (R70, R71), with acquire at its scope (R163, R164): a failed access stops the queue after
acceptance. -/
def State.evaluate (s : State) (n : Nat) : State :=
  match s.queue? n with
  | none => s
  | some q =>
    match q.held with
    | some p =>
      (match p.body with
      | .wait addr value scope =>
        if q.destroy || q.err then s
        else match s.agentRead (agentNum .packet n) q.world q.asid addr.toNat 8 with
          | (.wait, s) => s
          | (.fail _, s) => s.stopQueue n 8 p.idx (some p.seq)
          | (.ok bs, s) =>
            let s : State := if 4 ≤ scope then { s with remote := [] } else s
            s.onQueue n fun q => { q with held := some { p with ready := some (decide (value.toNat ≤ ofBytes bs)), polled := 0 } }
      | _ => s)
    | none => s

/-- Every parked `WAIT` of the device is evaluated, after a completion write (R71). -/
def State.evaluateAll (s : State) : State :=
  (s.queues.filter fun x => x.2.held.any fun p => p.ready == some false).foldl (fun s x => s.evaluate x.1) s

/-- The ticks that may pass until the sprue must evaluate a queue's parked `WAIT` (R71) or write its status record (R63), where nothing else holds
it (log 69, DEDUCED). -/
def State.queueSlack (s : State) (n : Nat) (q : Queue) : Option Nat :=
  let poll := match q.held with
    | some p => if p.ready == some false && !q.destroy && !q.err && !s.agentBusy (agentNum .packet n) then some ((if q.state = 2 then 1000 else 10000) - p.polled) else none
    | none => none
  let write := match q.statusDue with
    | some k => if q.geom && !s.agentBusy (agentNum .status n) then some (1000 - k) else none
    | none => none
  match poll, write with
  | some a, some b => some (min a b)
  | a, b => a.or b

/-- `WAIT` (R70, R71): the packet at the head of a mapped queue reads its counter, and completes or parks the queue. -/
def execWait (s : State) : Out3 :=
  let n := s.who
  .next (match s.queue? n with
    | none => s
    | some q =>
      match q.held with
      | some p =>
        (match p.body with
          | .wait .. =>
            if q.state != 2 || (p.barrier && !q.running.isEmpty) then s
            else
              let s := s.evaluate n
              match s.nextPacket n with
              | some (_, p) => s.startPacket n p false
              | none => s
          | _ => s)
      | none => s)

/-- `WAIT_EVALUATE` (R71): also for an evicted queue, which becomes READY where the condition holds. -/
def execWaitEvaluate (s : State) : Out3 := .next (s.evaluate s.who)

/-- `SIGNAL` (R70): after every earlier packet, with release at SCOPE; a failed access stops the queue after acceptance. -/
def execSignal (s : State) : Out3 :=
  let n := s.who
  .next (match s.nextPacket n with
    | some (q, p) =>
      (match p.body with
        | .signal addr value add scope intr vector =>
          (match s.agentRelease (agentNum .packet n) q.ctx scope with
            | (none, s) => s
            | (some false, s) => s.stopQueue n 8 p.idx (some p.seq)
            | (some true, s) =>
              match s.agentAdd (agentNum .packet n) q.world q.asid addr.toNat value add scope with
              | (.wait, s) => s
              | (.fail _, s) => s.stopQueue n 8 p.idx (some p.seq)
              | (.ok _, s) =>
                let s := (s.startPacket n p false).evaluateAll
                if intr then s.send (.msi q.fn vector) else s)
        | _ => s)
    | none => s)

end Sys2Proof.Machine
end

