-- ==== Sys2Proof/Machine/Tasks.lean ====
section
/-!
DEFINITION. `SPAWN` and the bins it writes (R87, R356, R357), and `NOTIFY` (R74, R358).
-/
namespace Sys2Proof.Machine

/-- A bin is full when the ring slot that its next record takes is not freed (R87; log 44, DEDUCED). -/
def binFull (g : Stage) (d : StageDesc) : Bool := 2 ^ d.binLog ≤ g.tail && (g.slots.find (g.tail - 2 ^ d.binLog)).isSome

/-- Reserve the next slot of a launch's bin, unless it is full (log 44, DEDUCED). -/
def State.reserveSlot (s : State) (lk st : Nat) : Option (Nat × State) :=
  let l := s.launch lk
  let g := l.stages.getD st {}
  if binFull g (l.hdr.stages.getD st {}) then none
  else some (g.tail, s.setLaunch lk (l.onStage st fun g => { g with tail := g.tail + 1, slots := g.slots.put g.tail .reserved }))

/-- The address of a bin slot (R357). -/
def slotAddr (d : StageDesc) (k : Nat) : Nat := d.binBase.toNat + 16 * d.recSize * (k % 2 ^ d.binLog)

/-- The outcome of a write of a record. -/
inductive BinWrite where
  | ok
  | absent (pages : List Dword)
  | fail (f : Fail) (va : Dword)
  deriving DecidableEq, Repr

/-- The failure that another device answers to the write of a record, taken in the step that sends it: a free value
(R31, R357; log 56, DESIGN CHOICE). -/
def State.farBinFail (s : State) (key : Nat) : Option Fail × State :=
  if !isRemote key then (none, s)
  else
    let (v, s) := s.freeNat 7
    (({ key, n := 0, op := .store } : AgentPart).failed (match v with
      | 0 => .ok | 1 => .world | 2 => .lost | 3 => .tagFail | 4 => .checkFail | 5 => .poison | _ => .ingot), s)

/-- Write the pieces of a record where they lie. -/
def State.binStore (s : State) (t : Team) (va : Dword) : List Byte → List (Nat × Nat) → BinWrite × State
  | _, [] => (.ok, s)
  | bs, (k, n) :: ks =>
    let l := s.launchOf t
    let accs : List LaneAcc := (linesOf k n).map fun line =>
      { ln := 0, va, place := .glob (max k line), data := (bs.take (min n (line + 128 - k))).drop (line - k) }
    let (tag, s) := s.take
    match s.sendAll l tag (.store 0) 3 accs with
    | ((_, f) :: _, s) => (.fail f va, s)
    | ([], s) =>
      match (s.acked tag).farBinFail k with
      | (some f, s) => (.fail f va, s)
      | (none, s) =>
      match s.store l.world (cellsAt k (bs.take n)) with
      | .error f => (.fail f va, s)
      | .ok s => ((linesOf k n).foldl (fun s line => s.dropL1 t.core line) s).binStore t va (bs.drop n) ks

/-- Write a record into its bin slot: a store of the thread in the launch's ASID and world (R357). -/
def State.binWrite (s : State) (t : Team) (va : Nat) (bs : List Byte) : BinWrite × State :=
  let l := s.launchOf t
  let addr := BitVec.ofNat 64 va
  let (ks, pages, bad, s) := (pagesOf va bs.length).foldl (fun (acc : List (Nat × Nat) × List Dword × Option (Fail × Dword) × State) p =>
    let (ks, pages, bad, s) := acc
    match s.translate t.core l.world l.asid p.1 .store with
    | (.absent, s) => (ks, pages ++ [BitVec.ofNat 64 p.1], bad, s)
    | (.fail f, s) => (ks, pages, bad.or (some (f, BitVec.ofNat 64 p.1)), s)
    | (.ok k _, s) => (ks ++ [(k, p.2)], pages, bad, s)) ([], [], none, s)
  if !pages.isEmpty then (.absent pages, s)
  else match bad with
    | some (f, a) => (.fail f a, s)
    | none =>
      if s.watched l.ctx .store va bs.length then (.fail (.watch, 0) addr, s) else s.binStore t addr bs ks

/-- The record that a lane spawns (R356). -/
def Thread.spawnRecord (th : Thread) (a : BitVec 8) (recSize : Nat) : List Byte :=
  (th.group a (4 * recSize)).flatMap fun w => toBytes 4 w.toNat

/-- A lane's record is in its bin: it continues. -/
def State.spawned (s : State) (x : Convoy) (ln : Nat) : State :=
  s.onTm x.key fun t =>
    let th := t.lane x.q ln
    t.setThread (tidOf x.q ln) { th with slot := none, pc := x.pc + 8 }

/-- `SPAWN` in the lanes from one on, in ascending order (R357): a lane without a free slot waits alone; a page fault parks the
lanes whose records are not written; another failure voids the lane's slot and ends the instruction. -/
def State.spawnLanes (s : State) (x : Convoy) (op st : Nat) (a : BitVec 8) : List Nat → State
  | [] => s
  | ln :: lns =>
    let t := s.tm x.key
    let th := t.lane x.q ln
    let d := (s.launchOf t).hdr.stages.getD st {}
    let got : Option (Nat × State) := match th.slot with
      | some (_, k) => some (k, s)
      | none => s.reserveSlot t.launch st
    match got with
    | none =>
      ((s.uncount x [ln]).onTm x.key fun t => t.setThread (tidOf x.q ln) { t.lane x.q ln with wait := .bin st op }).spawnLanes x op st a lns
    | some (k, s) =>
      let s := s.onTm x.key fun t => t.setThread (tidOf x.q ln) { t.lane x.q ln with slot := some (st, k) }
      match s.binWrite t (slotAddr d k) (th.spawnRecord a d.recSize) with
      | (.ok, s) => ((s.settleSlot t.launch st k .written).spawned x ln).spawnLanes x op st a lns
      | (.absent ps, s) => (s.uncount x (ln :: lns)).parkAt { x with lanes := ln :: lns } (s.launchOf t).asid .store (ps.map fun va => (ln, BitVec.ofNat 64 (slotAddr d k), va))
      | (.fail f _, s) =>
        ((s.voidLane x.key x.q ln).uncount x (ln :: lns)).raise x.key x.q x.pc [{ ln, c := f.1, addr := BitVec.ofNat 64 (slotAddr d k), detail := f.2 }] (own := s.inHandler x.key)

/-- The causes of `SPAWN` at issue (R87, R357; log 51, DEDUCED). -/
def State.spawnHits (s : State) (x : Convoy) (st : Nat) (a : BitVec 8) : List Hit :=
  let t := s.tm x.key
  let hdr := (s.launchOf t).hdr
  match x.act with
  | [] => []
  | ln :: _ =>
    if !(hdr.stages.getD t.stage {}).spawns || st ≤ t.stage || hdr.stages.length ≤ st then [{ ln, c := .spawnFault }]
    else if 254 < a.toNat + 4 * (hdr.stages.getD st {}).recSize - 1 then [{ ln, c := .operandAlign }]
    else []

/-- `SPAWN` (R357): a release at device scope, then the lanes in ascending order. -/
def execSpawn (h : Hd) (d : BitVec 4) (a : BitVec 8) (s : State) : Out3 :=
  let i : Instr := .spawn h d a
  .next (s.issue i (fun s x => s.spawnHits x d.toNat a) fun s x =>
    let idle := x.lanes.filter fun ln => !x.act.contains ln
    let go (s : State) : State :=
      let (op, s) := s.take
      (s.advance x idle i.len).spawnLanes x op d.toNat a x.act
    if x.act.isEmpty then go (s.issued x x.lanes)
    else if (s.inAmid x).isNone && s.anyLoads x then s
    else s.releasing x i 3 go)

/-- `SPAWN_SLOT_RESERVE` (R357): a waiting lane, the lowest of its instruction, reserves a slot and takes part in formation
again, to write its record. -/
def execSpawnSlotReserve (tid : Nat) (s : State) : Out3 :=
  let t := s.tm s.who
  .next (match (t.thread tid).wait with
    | .bin st op =>
      let first := !((List.range (tid % 32)).any fun ln => (t.lane (tid / 32) ln).wait == .bin st op)
      let may := match t.phase with
        | .running => !t.halting
        | .handler q ln _ => tidOf q ln == tid && (t.squad q).run == .running
        | .killed => false
      if !may || !first then s
      else match s.reserveSlot t.launch st with
        | none => s
        | some (k, s) => s.onTm s.who fun t => t.setThread tid { t.thread tid with wait := .none, slot := some (st, k) }
    | _ => s)

/-- `NOTIFY` in the active lanes, after the release (R358): the lanes that fail. -/
def State.notifyLanes (s : State) (x : Convoy) (a b : BitVec 8) : List Hit × State :=
  let t := s.tm x.key
  let w := (s.launchOf t).world
  x.act.foldl (fun (acc : List Hit × State) ln =>
    let th := t.lane x.q ln
    let n := (th.r32 a).toNat % 4096
    match acc.2.queue? n with
    | none => acc
    | some q =>
      if q.world != w then (acc.1 ++ [{ ln, c := .world, detail := 3 }], acc.2)
      else (acc.1, acc.2.deviceNotify n (th.r64 b).toNat)) ([], s)

/-- `NOTIFY` (R74, R358): a release at system scope, then a delivery for each active lane in ascending order. -/
def execNotify (h : Hd) (a b : BitVec 8) (s : State) : Out3 :=
  let i : Instr := .notify h a b
  .next (s.issue i
    (fun s x => x.act.flatMap fun ln =>
      if 4096 ≤ (((s.tm x.key).lane x.q ln).r32 a).toNat then [{ ln, c := .bounds }] else [])
    fun s x =>
      let go (s : State) : State :=
        let (hs, s) := s.notifyLanes x a b
        let bad := x.lanes.filter fun ln => hs.any fun h => h.ln == ln
        ((s.uncount x bad).advance x (x.lanes.filter fun ln => !bad.contains ln) i.len).raise x.key x.q x.pc hs (own := s.inHandler x.key)
      if x.act.isEmpty then go (s.issued x x.lanes)
      else if (s.inAmid x).isNone && s.anyLoads x then s
      else s.releasing x i 5 go)

end Sys2Proof.Machine
end

