-- ==== Sys2Proof/Machine/Images.lean ====
section
/-!
DEFINITION. The controls of contexts (R97 to R99): `CTXCMD`, image descriptors, the end of a command, and the pod pool's directory
(R113).
-/
namespace Sys2Proof.Machine

/-- The answer to a vendor-defined request of a function (R49): CODE, STATUS, LENGTH and body. -/
def State.answer (s : State) (f code status : Nat) (body : List Byte) : State :=
  s.send (.spdm f 0x7E status (toBytes 2 code ++ toBytes 2 status ++ toBytes 4 body.length ++ body))

/-- The world of a context (R31). -/
def State.ctxWorld (s : State) (c : Nat) : World := (s.fn (c / 65536)).world
/-- Change a context. -/
def State.onCtx (s : State) (c : Nat) (f : Ctx → Ctx) : State := s.setCtx c (f (s.ctx c))
/-- The launches of a context, by key, in the order they started. -/
def State.ctxLaunches (s : State) (c : Nat) : List (Nat × Launch) := s.launches.filter fun l => l.2.ctx == c
/-- The resident teams of a context. -/
def State.ctxTeams (s : State) (c : Nat) : List (Nat × Team) := s.teams.filter fun t => (s.launchOf t.2).ctx == c

/-- Set STAT of a function's `CTXCMD` (R98). -/
def State.ctxStat (s : State) (f stat : Nat) : State :=
  let x := s.fn f
  s.setFn f { x with ctxcmd := (x.ctxcmd &&& 0xF0000000FFFFFFFF) ||| (BitVec.ofNat 64 stat <<< 58) }

/-- The context that a function's busy `CTXCMD` names (R98). -/
def State.ctxcmd? (s : State) (f oper : Nat) : Option Nat :=
  let v := (s.fn f).ctxcmd
  if (v.extractLsb' 58 2).toNat = 1 ∧ (v.extractLsb' 60 4).toNat = oper then some (v.extractLsb' 0 32).toNat else none

/-- A function may name the context (R99). -/
def mayName (f c : Nat) : Bool := f == 0 || c / 65536 == f

/-- An image descriptor (R99). -/
structure Desc where
  addr : Nat
  size : Nat
  host : Bool
  serial : Nat

/-- The form of a descriptor (R99): none where a reserved byte is not zero or a field is out of range. -/
def descForm (d : List Byte) : Option Desc :=
  let x : Desc := { addr := fieldAt d 0 8, size := fieldAt d 8 8, host := fieldAt d 16 1 == 0, serial := fieldAt d 32 8 }
  if x.addr % 64 = 0 ∧ fieldAt d 16 1 ≤ 1 ∧ zeroAt d 17 15 ∧ zeroAt d 0x34 12 then some x else none

/-- A descriptor read for a command (R99, R365): none while it waits for its page. -/
def State.readDesc (s : State) (c : Nat) (va : Nat) : Option (Option Desc) × State :=
  if va % 64 != 0 then (some none, s)
  else match s.agentRead (agentNum .image c) (s.ctxWorld c) (c % 65536) va 64 with
    | (.wait, s) => (none, s)
    | (.fail _, s) => (some none, s)
    | (.ok d, s) => (some (descForm d), s)

/-- The command of a context ends with a STAT. -/
def State.endCmd (s : State) (c stat : Nat) : State :=
  let x := s.ctx c
  let s := s.setCtx c { x with ending := none, cmd := none }
  match x.cmd with
  | some f => s.ctxStat f stat
  | none => s

/-- The placing of a restored context's teams ends, as its command does (R55, R101): it is pre-empted anew, and what it was frozen for before
resumes it no more (R111). -/
def State.stopPlacing (s : State) (c : Nat) : State :=
  if (s.ctx c).restored then
    (s.endCmd c 0).onCtx c fun x => { x with resuming := false, restored := false, victimOf := [], d3 := false, pod := false }
  else s

/-- The bytes that have been written of an image. -/
def Image.length (m : Image) : Nat := m.chunks.foldl (fun n c => n + c.length) 0

/-- The directory entry of an image in the pod pool (R113). -/
def dirEntry (c result : Nat) (m : Image) (base : Nat) : List Byte :=
  toBytes 4 c ++ toBytes 4 result ++ toBytes 8 (m.addr.toNat - base) ++ toBytes 8 m.length ++ toBytes 8 m.serial ++ toBytes 32 0

/-- The base and size of the pod pool in bytes (R113). -/
def State.pool (s : State) : Nat × Nat := (s.podpool.toNat / 4096 * 4096, s.podsize.toNat / 4096 * 4096)

/-- The entry of a context's image in the pod pool's directory, as host memory holds it (R113): the image's offset in the pool. -/
def State.poolFind (s : State) (c serial : Nat) : Option Nat :=
  (List.range 64).findSome? fun k =>
    let e := s.read (hostKey (s.pool.1 + 64 * k)) 64
    if fieldAt e 0 4 = c ∧ fieldAt e 24 8 = serial then some (fieldAt e 8 8) else none

/-- The descriptor of an end cannot be written (R114, R365): a freeze ends by forced reset, a drain is refused; a reset has its STAT. -/
def State.endFails (s : State) (c : Nat) (e : Ending) : State :=
  if e.result = 0 then s.onCtx c fun x => { x with resetDue := some 3, ending := none }
  else s.endCmd c (if e.result = 1 then 2 else e.stat)

/-- The end of a freeze, a drain or a forced reset is made known (R99, R113), after its chunks are zeroed where it is a reset (R114): the
descriptor or the directory entry is written with system-scope release, then STAT is set. It waits for its release and its page. Where there is no
image the SERIAL written is open (log 19, DESIGN CHOICE). -/
def State.finishCtx (s : State) (c : Nat) : State :=
  let x := s.ctx c
  match x.ending with
  | none => s
  | some e =>
    let entry := e.image.bind (·.dir)
    if x.wipe.isSome then s
    else if x.desc.toNat ≤ 1 && entry.isNone then s.endCmd c e.stat
    else match s.agentRelease (agentNum .image c) c 5 with
      | (none, s) => s
      | (some false, s) => s.endFails c e
      | (some true, s) =>
        match e.image, entry with
        | some m, some k =>
          (s.poke (cellsAt (hostKey (s.pool.1 + 64 * k)) (dirEntry c e.result m s.pool.1))).endCmd c e.stat
        | m, _ =>
          let (serial, s) := match m with | some m => (m.serial, s) | none => s.freeNat (2 ^ 64)
          let len := match m with | some m => m.length | none => 0
          match s.agentWrite (agentNum .image c) (s.ctxWorld c) (c % 65536) (x.desc.toNat + 32)
              (toBytes 8 serial ++ toBytes 8 len ++ toBytes 4 e.result) with
          | (.wait, s) => s
          | (.fail _, s) => s.endFails c e
          | (.ok _, s) => s.endCmd c e.stat

/-- A context's pre-emption ends with a result and a STAT, and the image that it had. -/
def State.conclude (s : State) (c : Nat) (e : Ending) : State := (s.onCtx c fun x => { x with ending := some e }).finishCtx c

/-- A draining context without a resident or a captured team is drained (R101): it holds no core state and no image. -/
def State.checkDrained (s : State) (c : Nat) : State :=
  let x := s.ctx c
  if x.phase == .draining && (s.ctxTeams c).isEmpty && x.saved.isEmpty then
    let room := match x.image with | some m => m.room | none => 0
    let s : State := { s with reserveUsed := s.reserveUsed - room }
    (s.onCtx c fun x => { x with phase := .drained, image := none }).conclude c { result := 1, stat := 0 }
  else s

end Sys2Proof.Machine
end

