-- ==== Sys2Proof/Machine/Special.lean ====
section
/-!
DEFINITION. The special-function instructions (R145, R146, R312): the special results and flags, a reference value of
at least 100 correct bits, and the result: a free value held to the bound of R145 (log 13, DESIGN CHOICE).
-/
namespace Sys2Proof.Float

/-- The special functions. -/
inductive Sfu where | rcp | rsq | exp2 | log2 | sin | cos
  deriving DecidableEq, Repr

/-- The number of a function in the free value of Config. -/
def Sfu.num : Sfu → Nat | .rcp => 0 | .rsq => 1 | .exp2 => 2 | .log2 => 3 | .sin => 4 | .cos => 5

/-- The results of R146 that no rounding touches, with their flags; none for the other inputs. -/
def Sfu.specialCase (op : Sfu) (x : XNum) : Option (XNum × Flags) :=
  match x with
  | .nan s => some (.nan false, if s then INV else 0)
  | .inf n =>
    match op with
    | .rcp => some (.fin n 0 0, 0)
    | .rsq => some (if n then (.nan false, INV) else (.fin false 0 0, 0))
    | .exp2 => some (if n then .fin false 0 0 else .inf false, 0)
    | .log2 => some (if n then (.nan false, INV) else (.inf false, 0))
    | .sin | .cos => some (.nan false, INV)
  | .fin n m _ =>
    if m = 0 then
      match op with
      | .rcp | .rsq => some (.inf n, DZ)
      | .exp2 => some (.fin false 1 0, 0)
      | .log2 => some (.inf true, DZ)
      | .sin => some (.fin n 0 0, 0)
      | .cos => some (.fin false 1 0, 0)
    else match op with
      | .rsq | .log2 => if n then some (.nan false, INV) else none
      | _ => none

/-- Fixed point of the reference computations: 160 and 256 fraction bits, 1,300 for the trigonometric reduction. -/
def one160 : Nat := 2 ^ 160

/-- 2^f for f the 128 fraction bits of `bits`, most significant first, as a product of roots of 2 (160 bits). -/
def exp2Frac (bits : Nat) : Nat → Nat → Nat → Nat
  | 0, _, acc => acc
  | k + 1, root, acc =>
    let root' := isqrt (root * one160) 161 0
    exp2Frac bits k root' (if bits.testBit k then acc * root' / one160 else acc)

/-- 2^x; the exponent is held within ±5,000, far beyond every format. -/
def refExp2 (n : Bool) (m : Nat) (e : Int) : Exact :=
  let v := scaled n m e (min e (-1100))
  let den : Int := (2 : Int) ^ (-(min e (-1100))).toNat
  let fl := Int.fdiv v den
  let fr := (Int.fmod v den * 2 ^ 128 / den).toNat
  ⟨false, exp2Frac fr 128 (2 * one160) one160, max (-5000) (min 5000 fl) - 160, true⟩

/-- Fraction bits of log2 of y in [1, 2) with 256 fraction bits, by repeated squaring. -/
def log2Frac : Nat → Nat → Nat → Nat
  | 0, _, acc => acc
  | k + 1, y, acc =>
    let y2 := y * y / 2 ^ 256
    if 2 ^ 257 ≤ y2 then log2Frac k (y2 / 2) (2 * acc + 1) else log2Frac k y2 (2 * acc)

/-- log2 x of a positive value: a bound of the magnitude from below, as every reference. -/
def refLog2 (m : Nat) (e : Int) : Exact :=
  let l := Nat.log2 m
  let y := m * 2 ^ 256 / 2 ^ l
  let z : Int := ((l : Int) + e) * 2 ^ 200 + (log2Frac 200 y 0 : Nat)
  ⟨z < 0, if z < 0 then z.natAbs - 1 else z.natAbs, -200, true⟩

/-- Fraction bits of the trigonometric fixed point. -/
def trigBits : Nat := 1300

/-- The arc tangent of 1/q, by its series. -/
def atanInv (q : Nat) : Nat → Nat → Nat → Int → Int
  | 0, _, _, acc => acc
  | n + 1, k, t, acc =>
    atanInv q n (k + 1) (t / (q * q)) (acc + (if k % 2 = 0 then 1 else -1) * ((t / (2 * k + 1) : Nat) : Int))

/-- π with `trigBits` + 64 fraction bits (Machin's formula). -/
def piFixed : Nat :=
  let u := 2 ^ (trigBits + 64)
  (16 * atanInv 5 320 0 (u / 5) 0 - 4 * atanInv 239 100 0 (u / 239) 0).toNat

/-- The terms of sin or cos from term k on (argument and terms with `trigBits` fraction bits). -/
def trigSeries (x : Nat) : Nat → Nat → Nat → Int → Int
  | 0, _, _, acc => acc
  | n + 1, k, t, acc =>
    trigSeries x n (k + 2) (t * x / 2 ^ trigBits * x / 2 ^ trigBits / ((k + 1) * (k + 2)))
      (acc + (if (k / 2) % 2 = 0 then 1 else -1) * (t : Int))

/-- sin or cos of a finite non-zero value; the sine of a value below 2^−200 lies just below it. -/
def refTrig (isCos n : Bool) (m : Nat) (e : Int) : Exact :=
  if !isCos && decide (ilog2 m e < -200) then ⟨n, m * 2 ^ 300 - 1, e - 300, true⟩ else
  let x := m * pow2 (e + trigBits) / 2 ^ (-(e + trigBits)).toNat
  let halfPi := piFixed / 2 ^ 65
  let wide := x * 2 ^ 64
  let quad := wide * 2 / piFixed
  let r := (wide * 2 % piFixed) / 2 ^ 65
  let q := quad + (if isCos then 1 else 0)
  let r' := if q % 2 = 0 then r else halfPi - r
  let s := if isCos && quad % 2 = 1 then r else if isCos then halfPi - r else r'
  let v := trigSeries s 220 1 s 0
  let neg := (q % 4 = 2 || q % 4 = 3) != (n && !isCos)
  ⟨neg, v.toNat - (if quad = 0 then 2 ^ 12 else 2 ^ 970), -(trigBits : Int), true⟩

/-- The reference value of a function at a finite non-zero input of its domain (log 13, DESIGN CHOICE). -/
def Sfu.ref (op : Sfu) (n : Bool) (m : Nat) (e : Int) : Exact :=
  match op with
  | .rcp => match div (.fin false 1 0) (.fin n m e) with
    | (.fin n' m' e', more, _) => ⟨n', m', e', more⟩
    | _ => ⟨n, 1, 0, false⟩
  | .rsq =>
    let k : Nat := 600 + (if (e + 600) % 2 = 0 then 0 else 1)
    let q := 2 ^ k / m
    let r := isqrt q 310 0
    ⟨false, r, (-e - k) / 2, r * r ≠ q || 2 ^ k % m ≠ 0⟩
  | .exp2 => if 0 ≤ e || m % 2 ^ (-e).toNat = 0 then
      let v := scaled n (m / 2 ^ (-e).toNat) e 0
      ⟨false, 1, max (-5000) (min 5000 (if 0 ≤ e then scaled n m (min e 20) 0 else v)), false⟩
    else refExp2 n m e
  | .log2 => if m = 2 ^ Nat.log2 m then
      let z := (Nat.log2 m : Int) + e
      ⟨z < 0, z.natAbs, 0, false⟩
    else refLog2 m e
  | .sin => refTrig false n m e
  | .cos => refTrig true n m e

/-- Bounds of R145 per function and format: ulps, and the exponent of the absolute bound. -/
def Sfu.bound (op : Sfu) (ft : BitVec 3) : Nat × Option Int :=
  match op with
  | .rcp | .rsq => (1, none)
  | .exp2 => (if ft = 1 then 1 else 2, none)
  | .log2 => if ft = 1 then (1, some (-11)) else (2, some (if ft = 0 then -22 else -51))
  | .sin | .cos => if ft = 1 then (1, some (-11)) else (2, some (if ft = 0 then -22 else -52))

/-- A candidate value lies within the bound around the exact result, which lies just above the reference where more bits follow; an
infinity stands for the first value beyond the largest finite one. -/
def withinBound (f : Fmt) (ulps : Nat) (abs : Option Int) (cand : Nat) (ref : Exact) : Bool :=
  let lead := if ref.m = 0 then f.emin else ilog2 ref.m ref.e
  let q := max lead f.emin - f.mb
  let check := fun (n : Bool) (m : Nat) (e : Int) =>
    let e0 := min (min e ref.e) (q - 1)
    let z := scaled n m e e0 - scaled ref.neg ref.m ref.e e0
    let inner := ref.more && decide ((if ref.neg then -z else z) ≤ 0)
    let d := z.natAbs + inner.toNat
    d ≤ ulps * pow2 (q - e0) || (match abs with | some a => d ≤ pow2 (a - e0) | none => false)
  match f.decode cand with
  | .nan _ => false
  | .inf n => check n 1 (f.bias + 1)
  | .fin n m e => check n m e

/-- The result and flags of a special function (R145, R146, R312; log 13, DESIGN CHOICE). -/
def Sfu.result (op : Sfu) (ft : BitVec 3) (f : Fmt) (bits : Nat) : Nat × Flags :=
  let x := f.decode bits
  match op.specialCase x with
  | some (r, fl) => ((f.round .rn false r).1, fl)
  | none =>
    match x with
    | .fin n m e =>
      let ref := op.ref n m e
      let (near, fl) := f.round .rn false (.fin ref.neg ref.m ref.e) ref.more
      if fl = 0 then (near, 0)
      else
        let cand := Config.special op.num ft.toNat bits % 2 ^ f.width
        let (ulps, abs) := op.bound ft
        let code := if fl &&& OVF ≠ 0 then near
          else if withinBound f ulps abs cand ref then cand else near
        let tiny := ref.m = 0 || ilog2 ref.m ref.e < f.emin
        (code, if isInf (f.decode code) then OVF ||| INX else if tiny then INX ||| UNF else INX)
    | _ => (0, 0)

end Sys2Proof.Float
end

