-- ==== Sys2Proof/Machine/FloatOps.lean ====
section
/-!
DEFINITION. The float instructions (R307 to R315).
-/
namespace Sys2Proof.Machine


/-- The element format of a float type FT (R267). -/
def ftFmt (ft : BitVec 3) : Float.Fmt :=
  match ft.toNat with | 0 => Float.f32 | 1 | 4 => Float.f16 | 3 => Float.f64 | _ => Float.bf16
/-- The tag of a float type FT (R137). -/
def ftTag (ft : BitVec 3) : Tag := match ft.toNat with | 0 => 3 | 1 => 4 | 2 => 5 | 3 => 6 | 4 => 10 | _ => 11
/-- A tag that a source of FT accepts: its own or raw (R138). -/
def ftTagOk (ft : BitVec 3) (tag : Tag) : Bool := tag == 0 || tag == ftTag ft
/-- Every register of a float source holds an accepted tag. -/
def Thread.ftTagged (t : Thread) (ft : BitVec 3) (r : BitVec 8) : Bool :=
  ftTagOk ft (t.reg r).2 && (ft != 3 || ftTagOk ft (t.reg (r + 1)).2)
/-- The number of elements of FT (R307). -/
def ftCount (ft : BitVec 3) : Nat := if 4 ≤ ft.toNat then 2 else 1
/-- The code of an element of an operand (R135, R136, R307). -/
def Thread.ftCode (t : Thread) (ft : BitVec 3) (r : BitVec 8) (e : Nat) : Nat :=
  t.bits (ft == 3) r / 2 ^ (16 * e) % 2 ^ (ftFmt ft).width
/-- The value of an element of an operand. -/
def Thread.ftVal (t : Thread) (ft : BitVec 3) (r : BitVec 8) (e : Nat := 0) : XNum := (ftFmt ft).decode (t.ftCode ft r e)
/-- The bits of a result from its elements' codes. -/
def ftJoin (cs : List Nat) : Nat := match cs with | [a, b] => a + 2 ^ 16 * b | a :: _ => a | [] => 0

/-- A float instruction in each active lane (R309, R310): each element gives a code and flags. -/
def State.floatOp (s : State) (i : Instr) (ft : BitVec 3) (d : BitVec 8) (srcs : List (BitVec 8))
    (f : Float.Fmt → List XNum → Nat × Float.Flags) : State :=
  s.lanewise i fun t ln th =>
    let rs := (List.range (ftCount ft)).map fun e => f (ftFmt ft) (srcs.map fun r => th.ftVal ft r e)
    let fl := rs.foldl (fun x r => x ||| r.2) 0
    LaneOut.checked (srcs.all (th.ftTagged ft)) ln th
      (fpOut t.fpctl ln th fl fun th => th.setBits (ft == 3) d (ftJoin (rs.map (·.1))) (ftTag ft))

/-- A result rounded into the format, with the flags of the operation and of the rounding (R139 to R144). -/
def rounded (rm : BitVec 3) (f : Float.Fmt) (x : XNum × Float.Flags) : Nat × Float.Flags :=
  let r := f.round (Float.rmOf rm 0) false x.1
  (r.1, x.2 ||| r.2)

/-- The sign of an exact zero from operands of unlike signs (R309). -/
def zeroNeg (rm : BitVec 3) : Bool := rm == 4

/-- `a + b`, `a - b`, `a * b` (R309). -/
def addOf (rm : BitVec 3) (f : Float.Fmt) : List XNum → Nat × Float.Flags
  | [a, b] => rounded rm f (Float.add (zeroNeg rm) a b)
  | _ => (0, 0)
/-- `a - b` (R309). -/
def subOf (rm : BitVec 3) (f : Float.Fmt) : List XNum → Nat × Float.Flags
  | [a, b] => rounded rm f (Float.add (zeroNeg rm) a (Float.negate b))
  | _ => (0, 0)
/-- `a * b` (R309). -/
def mulOf (rm : BitVec 3) (f : Float.Fmt) : List XNum → Nat × Float.Flags
  | [a, b] => rounded rm f (Float.mul a b)
  | _ => (0, 0)
/-- `a * b + c`, rounded once (R309). -/
def fmaOf (rm : BitVec 3) (f : Float.Fmt) : List XNum → Nat × Float.Flags
  | [a, b, c] => rounded rm f (Float.fma (zeroNeg rm) a b c)
  | _ => (0, 0)
/-- The smaller or the larger operand (R310). -/
def minmaxOf (isMax : Bool) (f : Float.Fmt) : List XNum → Nat × Float.Flags
  | [a, b] => rounded 0 f (Float.minmax isMax a b)
  | _ => (0, 0)
/-- roundToIntegral (R314). -/
def integralOf (rm : BitVec 3) (f : Float.Fmt) : List XNum → Nat × Float.Flags
  | [a] => rounded rm f (Float.roundIntegral (Float.rmOf rm 0) a)
  | _ => (0, 0)
/-- `a / b` (R309). -/
def divOf (rm : BitVec 3) (f : Float.Fmt) (a b : XNum) : Nat × Float.Flags :=
  let q := Float.div a b
  let r := f.round (Float.rmOf rm 0) false q.1 q.2.1
  (r.1, q.2.2 ||| r.2)
/-- The square root (R309). -/
def sqrtOf (rm : BitVec 3) (f : Float.Fmt) (a : XNum) : Nat × Float.Flags :=
  let q := Float.sqrt a
  let r := f.round (Float.rmOf rm 0) false q.1 q.2.1
  (r.1, q.2.2 ||| r.2)
/-- `a * 2^n`, rounded to nearest even (R315); beyond ±5,000 the exponent makes no further difference. -/
def ldexpOf (f : Float.Fmt) (a : XNum) (n : Int) : Nat × Float.Flags :=
  match a with
  | .nan s => ((f.round .rn false (.nan s)).1, if s then Float.INV else 0)
  | .inf g => (f.infCode g, 0)
  | .fin g m e => f.round .rn false (.fin g m (e + max (-5000) (min 5000 n)))

/-- A long-latency float instruction (R309, R312): the result and its flags land later (R144). -/
def State.floatLater (s : State) (i : Instr) (h : Hd) (ft : BitVec 3) (d : BitVec 8) (srcs : List (BitVec 8))
    (f : Thread → Nat × Float.Flags) : State :=
  s.longLatency i h d (if ft = 3 then 2 else 1) (ftTag ft) fun th =>
    if srcs.all (th.ftTagged ft) then some (f th) else none

/-- A special-function instruction (R312). -/
def State.special (s : State) (i : Instr) (h : Hd) (op : Float.Sfu) (ft : BitVec 3) (d a : BitVec 8) : State :=
  s.floatLater i h ft d [a] fun th => op.result ft (ftFmt ft) (th.ftCode ft a 0)

/-- `FADD` (R309). -/
def execFadd (h : Hd) (ft rm : BitVec 3) (d a b : BitVec 8) (s : State) : Out3 :=
  .next (s.floatOp (.fadd h ft rm d a b) ft d [a, b] (addOf rm))
/-- `FSUB` (R309). -/
def execFsub (h : Hd) (ft rm : BitVec 3) (d a b : BitVec 8) (s : State) : Out3 :=
  .next (s.floatOp (.fsub h ft rm d a b) ft d [a, b] (subOf rm))
/-- `FMUL` (R309). -/
def execFmul (h : Hd) (ft rm : BitVec 3) (d a b : BitVec 8) (s : State) : Out3 :=
  .next (s.floatOp (.fmul h ft rm d a b) ft d [a, b] (mulOf rm))
/-- `FFMA` (R309). -/
def execFfma (h : Hd) (ft rm : BitVec 3) (d a b c : BitVec 8) (s : State) : Out3 :=
  .next (s.floatOp (.ffma h ft rm d a b c) ft d [a, b, c] (fmaOf rm))
/-- `FMIN` (R310). -/
def execFmin (h : Hd) (ft rm : BitVec 3) (d a b : BitVec 8) (s : State) : Out3 :=
  .next (s.floatOp (.fmin h ft rm d a b) ft d [a, b] (minmaxOf false))
/-- `FMAX` (R310). -/
def execFmax (h : Hd) (ft rm : BitVec 3) (d a b : BitVec 8) (s : State) : Out3 :=
  .next (s.floatOp (.fmax h ft rm d a b) ft d [a, b] (minmaxOf true))
/-- `FCMP` (R311). -/
def execFcmp (h : Hd) (cmp : FCmp) (ft rm : BitVec 3) (d : BitVec 3) (a b : BitVec 8) (s : State) : Out3 :=
  .next (s.lanewise (.fcmp h cmp ft rm d a b) fun t ln th =>
    let r := Float.compare cmp (th.ftVal ft a) (th.ftVal ft b)
    LaneOut.checked (th.ftTagged ft a && th.ftTagged ft b) ln th
      (fpOut t.fpctl ln th r.2 fun th => th.setPred d r.1))
/-- `FRCP` (R312). -/
def execFrcp (h : Hd) (ft rm : BitVec 3) (d a : BitVec 8) (s : State) : Out3 :=
  .next (s.special (.frcp h ft rm d a) h .rcp ft d a)
/-- `FRSQ` (R312). -/
def execFrsq (h : Hd) (ft rm : BitVec 3) (d a : BitVec 8) (s : State) : Out3 :=
  .next (s.special (.frsq h ft rm d a) h .rsq ft d a)
/-- `FSQRT` (R309). -/
def execFsqrt (h : Hd) (ft rm : BitVec 3) (d a : BitVec 8) (s : State) : Out3 :=
  .next (s.floatLater (.fsqrt h ft rm d a) h ft d [a] fun th => sqrtOf rm (ftFmt ft) (th.ftVal ft a))
/-- `FDIV` (R309). -/
def execFdiv (h : Hd) (ft rm : BitVec 3) (d a b : BitVec 8) (s : State) : Out3 :=
  .next (s.floatLater (.fdiv h ft rm d a b) h ft d [a, b] fun th => divOf rm (ftFmt ft) (th.ftVal ft a) (th.ftVal ft b))
/-- `FEXP2` (R312). -/
def execFexp2 (h : Hd) (ft rm : BitVec 3) (d a : BitVec 8) (s : State) : Out3 :=
  .next (s.special (.fexp2 h ft rm d a) h .exp2 ft d a)
/-- `FLOG2` (R312). -/
def execFlog2 (h : Hd) (ft rm : BitVec 3) (d a : BitVec 8) (s : State) : Out3 :=
  .next (s.special (.flog2 h ft rm d a) h .log2 ft d a)
/-- `FSIN` (R312). -/
def execFsin (h : Hd) (ft rm : BitVec 3) (d a : BitVec 8) (s : State) : Out3 :=
  .next (s.special (.fsin h ft rm d a) h .sin ft d a)
/-- `FCOS` (R312). -/
def execFcos (h : Hd) (ft rm : BitVec 3) (d a : BitVec 8) (s : State) : Out3 :=
  .next (s.special (.fcos h ft rm d a) h .cos ft d a)
/-- `FCLASS` (R313). -/
def execFclass (h : Hd) (ft rm : BitVec 3) (d a : BitVec 8) (s : State) : Out3 :=
  .next (s.lanewise (.fclass h ft rm d a) fun _ ln th =>
    LaneOut.checked (th.ftTagged ft a) ln th
      { th := th.setReg d (1#32 <<< Float.classBit (ftFmt ft) (th.ftVal ft a)) 0 })
/-- `FROUND` (R314). -/
def execFround (h : Hd) (ft rm : BitVec 3) (d a : BitVec 8) (s : State) : Out3 :=
  .next (s.floatOp (.fround h ft rm d a) ft d [a] (integralOf rm))
/-- `FLDEXP` (R315). -/
def execFldexp (h : Hd) (ft rm : BitVec 3) (d a b : BitVec 8) (s : State) : Out3 :=
  .next (s.lanewise (.fldexp h ft rm d a b) fun t ln th =>
    let r := ldexpOf (ftFmt ft) (th.ftVal ft a) (th.r32 b).toInt
    let tag := (th.reg b).2
    LaneOut.checked (th.ftTagged ft a && (tag == 0 || tag == 1)) ln th
      (fpOut t.fpctl ln th r.2 fun th => th.setBits (ft == 3) d r.1 (ftTag ft)))

end Sys2Proof.Machine
end

