-- ==== Sys2Proof/Machine/Integer.lean ====
section
/-!
DEFINITION. Integer arithmetic, comparison, logic, shifts and bit fields (R283 to R292).
-/
namespace Sys2Proof.Machine

/-- The bits of a result: saturated to the type's range under `.sat`, wrapped modulo 2^w otherwise (R287). -/
def intResult (ty : BitVec 6) (sat : Bool) (z : Int) : Nat :=
  let r := Float.intRange (signedTy ty) (tyWidth ty)
  wrap (tyWidth ty) (if sat then max r.1 (min r.2 z) else z)

/-- An integer operation of two operands in each active lane (R287). -/
def State.intOp (s : State) (i : Instr) (ty : BitVec 6) (sat : Bool) (d a : BitVec 8) (b : Opb) (f : Int → Int → Int) :
    State :=
  s.lanewise i fun _ ln th =>
    LaneOut.checked (th.tagged ty a && b.tagged th ty) ln th
      { th := th.setBits (wide ty) d (intResult ty sat (f (valOf ty (th.bits (wide ty) a)) (b.val th ty))) (tyTag ty) }

/-- `IMAD` in each active lane (R287): a · b + c formed exactly, wrapped once. -/
def State.intMad (s : State) (i : Instr) (ty : BitVec 6) (d a : BitVec 8) (b : Opb) (c : BitVec 8) : State :=
  s.lanewise i fun _ ln th =>
    LaneOut.checked (th.tagged ty a && b.tagged th ty && th.tagged ty c) ln th
      { th := th.setBits (wide ty) d (intResult ty false
          (valOf ty (th.bits (wide ty) a) * b.val th ty + valOf ty (th.bits (wide ty) c))) (tyTag ty) }

/-- Quotient and remainder (R288). -/
def divMod (ty : BitVec 6) (a b : Int) : Int × Int :=
  if b = 0 then ((2 : Int) ^ tyWidth ty - 1, a)
  else if signedTy ty && a = -((2 : Int) ^ (tyWidth ty - 1)) && b = -1 then (a, 0)
  else (Int.tdiv a b, a - Int.tdiv a b * b)

/-- `IDIV` and `IMOD` (R288): long-latency results. -/
def State.intDiv (s : State) (i : Instr) (h : Hd) (ty : BitVec 6) (d a : BitVec 8) (b : Opb) (f : Int × Int → Int) :
    State :=
  s.longLatency i h d (if wide ty then 2 else 1) (tyTag ty) fun th =>
    if th.tagged ty a && b.tagged th ty then
      some (wrap (tyWidth ty) (f (divMod ty (valOf ty (th.bits (wide ty) a)) (b.val th ty))), 0)
    else none

/-- The comparisons of `ICMP` (R289). -/
def intCmp (c : Cmp) (a b : Int) : Bool :=
  match c with
  | .eq => a == b | .ne => a != b | .lt => a < b | .le => a ≤ b | .gt => b < a | .ge => b ≤ a

/-- `ICMP` in each active lane (R289). -/
def State.intCompare (s : State) (i : Instr) (c : Cmp) (ty : BitVec 6) (d : BitVec 3) (a : BitVec 8) (b : Opb) : State :=
  s.lanewise i fun _ ln th =>
    LaneOut.checked (th.tagged ty a && b.tagged th ty) ln th
      { th := th.setPred d (intCmp c (valOf ty (th.bits (wide ty) a)) (b.val th ty)) }

/-- The high half of the exact product (R287). -/
def mulHigh (ty : BitVec 6) (a b : Int) : Int := Int.fdiv (a * b) ((2 : Int) ^ tyWidth ty)

/-- A bitwise operation of two operands of a type in each active lane (R290); the result is raw. -/
def State.bitOp (s : State) (i : Instr) (ty : BitVec 6) (d a : BitVec 8) (b : Opb) (f : Nat → Nat → Nat) : State :=
  s.lanewise i fun _ _ th => { th := th.setBits (wide ty) d (f (th.bits (wide ty) a) (b.bits th ty)) 0 }

/-- An operation of a typed operand and a 32-bit one (R284, R290, R291); the result is raw. -/
def State.countOp (s : State) (i : Instr) (ty : BitVec 6) (d a : BitVec 8) (b : Opb) (f : Nat → Nat → Nat) : State :=
  s.lanewise i fun _ _ th => { th := th.setBits (wide ty) d (f (th.bits (wide ty) a) (b.word th).toNat) 0 }

/-- An operation of a typed operand with a 32-bit result (R284, R290). -/
def State.bitCount (s : State) (i : Instr) (ty : BitVec 6) (d a : BitVec 8) (f : Nat → Nat) : State :=
  s.lanewise i fun _ _ th => { th := th.setReg d (BitVec.ofNat 32 (f (th.bits (wide ty) a))) 0 }

/-- All ones of a width. -/
def ones (w : Nat) : Nat := 2 ^ w - 1

/-- Shift left: 0 when the count reaches the width (R290). -/
def shiftLeft (w a n : Nat) : Nat := if w ≤ n then 0 else a * 2 ^ n % 2 ^ w
/-- Logical shift right (R290). -/
def shiftRight (w a n : Nat) : Nat := if w ≤ n then 0 else a / 2 ^ n
/-- Arithmetic shift right: the count is held at w − 1 (R290). -/
def shiftArith (w a n : Nat) : Nat := wrap w (Int.fdiv (signedOf w a) ((2 : Int) ^ min n (w - 1)))
/-- Rotation left by the count modulo the width (R290). -/
def rotate (w a n : Nat) : Nat := let k := n % w; (a * 2 ^ k % 2 ^ w) ||| (a / 2 ^ (w - k))

/-- The number of 1 bits below bit k. -/
def onesBelow (a : Nat) : Nat → Nat
  | 0 => 0
  | k + 1 => onesBelow a k + (if a.testBit k then 1 else 0)
/-- The number of zero bits from bit k − 1 down to the first 1. -/
def leadingZeros (a : Nat) : Nat → Nat
  | 0 => 0
  | k + 1 => if a.testBit k then 0 else leadingZeros a k + 1
/-- The bits of a below bit k, reversed. -/
def reversed (a : Nat) : Nat → Nat
  | 0 => 0
  | k + 1 => 2 * reversed a k + (if a.testBit k then 1 else 0)
/-- The number of zero bits from bit j up, at most k. -/
def trailingZeros (a : Nat) (j : Nat) : Nat → Nat
  | 0 => 0
  | k + 1 => if a.testBit j then 0 else trailingZeros a (j + 1) k + 1

/-- The position and the length of a field, shortened to end at bit w − 1 (R291). -/
def field (w ctl : Nat) : Nat × Nat :=
  let pos := ctl % 256
  let len := ctl / 256 % 256
  (pos, if w ≤ pos then 0 else min len (w - pos))

/-- `BFX` (R291). -/
def bitExtract (ty : BitVec 6) (a ctl : Nat) : Nat :=
  let w := tyWidth ty
  let (pos, n) := field w ctl
  if n = 0 then 0
  else
    let f := a / 2 ^ pos % 2 ^ n
    if ty = 1 ∨ ty = 25 then wrap w (signedOf n f) else f

/-- `BFI` (R291). -/
def bitInsert (w value ctl base : Nat) : Nat :=
  let (pos, n) := field w ctl
  base - base / 2 ^ pos % 2 ^ n * 2 ^ pos + value % 2 ^ n * 2 ^ pos

/-- `BFI` in each active lane. -/
def State.insertOp (s : State) (i : Instr) (ty : BitVec 6) (d a : BitVec 8) (b : Opb) (c : BitVec 8) : State :=
  s.lanewise i fun _ _ th =>
    let v := bitInsert (tyWidth ty) (th.bits (wide ty) a) (b.word th).toNat (th.bits (wide ty) c)
    { th := th.setBits (wide ty) d v 0 }

/-- One byte of `BPERM` (R292). -/
def permByte (src sel k : Nat) : Nat :=
  let n := sel / 2 ^ (4 * k) % 16
  if 8 ≤ n then 0 else src / 2 ^ (8 * n) % 256
/-- `BPERM` (R292). -/
def bytePermute (a sel c : Nat) : Nat :=
  let src := c * 2 ^ 32 + a
  permByte src sel 0 + 2 ^ 8 * permByte src sel 1 + 2 ^ 16 * permByte src sel 2 + 2 ^ 24 * permByte src sel 3
/-- `BPERM` in each active lane. -/
def State.permOp (s : State) (i : Instr) (d a : BitVec 8) (b : Opb) (c : BitVec 8) : State :=
  s.lanewise i fun _ _ th =>
    let v := bytePermute (th.r32 a).toNat (b.word th).toNat (th.r32 c).toNat
    { th := th.setReg d (BitVec.ofNat 32 v) 0 }

/-- `IADD` (R287). -/
def execIadd (h : Hd) (sat : Bool) (ty : BitVec 6) (d a b : BitVec 8) (s : State) : Out3 :=
  .next (s.intOp (.iadd h sat ty d a b) ty sat d a (.reg b) (· + ·))
/-- `IADD` with an immediate (R287). -/
def execIaddImm (h : Hd) (sat : Bool) (ty : BitVec 6) (d a : BitVec 8) (imm : Word) (s : State) : Out3 :=
  .next (s.intOp (.iaddImm h sat ty d a imm) ty sat d a (.imm imm) (· + ·))
/-- `ISUB` (R287). -/
def execIsub (h : Hd) (sat : Bool) (ty : BitVec 6) (d a b : BitVec 8) (s : State) : Out3 :=
  .next (s.intOp (.isub h sat ty d a b) ty sat d a (.reg b) (· - ·))
/-- `ISUB` with an immediate (R287). -/
def execIsubImm (h : Hd) (sat : Bool) (ty : BitVec 6) (d a : BitVec 8) (imm : Word) (s : State) : Out3 :=
  .next (s.intOp (.isubImm h sat ty d a imm) ty sat d a (.imm imm) (· - ·))
/-- `IMUL` (R287). -/
def execImul (h : Hd) (ty : BitVec 6) (d a b : BitVec 8) (s : State) : Out3 :=
  .next (s.intOp (.imul h ty d a b) ty false d a (.reg b) (· * ·))
/-- `IMUL` with an immediate (R287). -/
def execImulImm (h : Hd) (ty : BitVec 6) (d a : BitVec 8) (imm : Word) (s : State) : Out3 :=
  .next (s.intOp (.imulImm h ty d a imm) ty false d a (.imm imm) (· * ·))
/-- `IMULH` (R287). -/
def execImulh (h : Hd) (ty : BitVec 6) (d a b : BitVec 8) (s : State) : Out3 :=
  .next (s.intOp (.imulh h ty d a b) ty false d a (.reg b) (mulHigh ty))
/-- `IMULH` with an immediate (R287). -/
def execImulhImm (h : Hd) (ty : BitVec 6) (d a : BitVec 8) (imm : Word) (s : State) : Out3 :=
  .next (s.intOp (.imulhImm h ty d a imm) ty false d a (.imm imm) (mulHigh ty))
/-- `IMAD` (R287). -/
def execImad (h : Hd) (ty : BitVec 6) (d a b c : BitVec 8) (s : State) : Out3 :=
  .next (s.intMad (.imad h ty d a b c) ty d a (.reg b) c)
/-- `IMAD` with an immediate (R287). -/
def execImadImm (h : Hd) (ty : BitVec 6) (d a c : BitVec 8) (imm : Word) (s : State) : Out3 :=
  .next (s.intMad (.imadImm h ty d a c imm) ty d a (.imm imm) c)
/-- `IMIN` (R287). -/
def execImin (h : Hd) (ty : BitVec 6) (d a b : BitVec 8) (s : State) : Out3 :=
  .next (s.intOp (.imin h ty d a b) ty false d a (.reg b) min)
/-- `IMIN` with an immediate (R287). -/
def execIminImm (h : Hd) (ty : BitVec 6) (d a : BitVec 8) (imm : Word) (s : State) : Out3 :=
  .next (s.intOp (.iminImm h ty d a imm) ty false d a (.imm imm) min)
/-- `IMAX` (R287). -/
def execImax (h : Hd) (ty : BitVec 6) (d a b : BitVec 8) (s : State) : Out3 :=
  .next (s.intOp (.imax h ty d a b) ty false d a (.reg b) max)
/-- `IMAX` with an immediate (R287). -/
def execImaxImm (h : Hd) (ty : BitVec 6) (d a : BitVec 8) (imm : Word) (s : State) : Out3 :=
  .next (s.intOp (.imaxImm h ty d a imm) ty false d a (.imm imm) max)
/-- `IABS` (R287). -/
def execIabs (h : Hd) (ty : BitVec 6) (d a : BitVec 8) (s : State) : Out3 :=
  .next (s.intOp (.iabs h ty d a) ty false d a (.imm 0) fun a _ => (a.natAbs : Int))
/-- `INEG` (R287). -/
def execIneg (h : Hd) (ty : BitVec 6) (d a : BitVec 8) (s : State) : Out3 :=
  .next (s.intOp (.ineg h ty d a) ty false d a (.imm 0) fun a _ => -a)
/-- `IDIV` (R288). -/
def execIdiv (h : Hd) (ty : BitVec 6) (d a b : BitVec 8) (s : State) : Out3 :=
  .next (s.intDiv (.idiv h ty d a b) h ty d a (.reg b) (·.1))
/-- `IDIV` with an immediate (R288). -/
def execIdivImm (h : Hd) (ty : BitVec 6) (d a : BitVec 8) (imm : Word) (s : State) : Out3 :=
  .next (s.intDiv (.idivImm h ty d a imm) h ty d a (.imm imm) (·.1))
/-- `IMOD` (R288). -/
def execImod (h : Hd) (ty : BitVec 6) (d a b : BitVec 8) (s : State) : Out3 :=
  .next (s.intDiv (.imod h ty d a b) h ty d a (.reg b) (·.2))
/-- `IMOD` with an immediate (R288). -/
def execImodImm (h : Hd) (ty : BitVec 6) (d a : BitVec 8) (imm : Word) (s : State) : Out3 :=
  .next (s.intDiv (.imodImm h ty d a imm) h ty d a (.imm imm) (·.2))
/-- `ICMP` (R289). -/
def execIcmp (h : Hd) (cmp : Cmp) (ty : BitVec 6) (d : BitVec 3) (a b : BitVec 8) (s : State) : Out3 :=
  .next (s.intCompare (.icmp h cmp ty d a b) cmp ty d a (.reg b))
/-- `ICMP` with an immediate (R289). -/
def execIcmpImm (h : Hd) (cmp : Cmp) (ty : BitVec 6) (d : BitVec 3) (a : BitVec 8) (imm : Word) (s : State) : Out3 :=
  .next (s.intCompare (.icmpImm h cmp ty d a imm) cmp ty d a (.imm imm))
/-- `AND` (R290). -/
def execAnd (h : Hd) (ty : BitVec 6) (d a b : BitVec 8) (s : State) : Out3 :=
  .next (s.bitOp (.and h ty d a b) ty d a (.reg b) (· &&& ·))
/-- `AND` with an immediate (R290). -/
def execAndImm (h : Hd) (ty : BitVec 6) (d a : BitVec 8) (imm : Word) (s : State) : Out3 :=
  .next (s.bitOp (.andImm h ty d a imm) ty d a (.imm imm) (· &&& ·))
/-- `OR` (R290). -/
def execOr (h : Hd) (ty : BitVec 6) (d a b : BitVec 8) (s : State) : Out3 :=
  .next (s.bitOp (.or h ty d a b) ty d a (.reg b) (· ||| ·))
/-- `OR` with an immediate (R290). -/
def execOrImm (h : Hd) (ty : BitVec 6) (d a : BitVec 8) (imm : Word) (s : State) : Out3 :=
  .next (s.bitOp (.orImm h ty d a imm) ty d a (.imm imm) (· ||| ·))
/-- `XOR` (R290). -/
def execXor (h : Hd) (ty : BitVec 6) (d a b : BitVec 8) (s : State) : Out3 :=
  .next (s.bitOp (.xor h ty d a b) ty d a (.reg b) (· ^^^ ·))
/-- `XOR` with an immediate (R290). -/
def execXorImm (h : Hd) (ty : BitVec 6) (d a : BitVec 8) (imm : Word) (s : State) : Out3 :=
  .next (s.bitOp (.xorImm h ty d a imm) ty d a (.imm imm) (· ^^^ ·))
/-- `NOT` (R290). -/
def execNot (h : Hd) (ty : BitVec 6) (d a : BitVec 8) (s : State) : Out3 :=
  .next (s.bitOp (.not h ty d a) ty d a (.imm 0) fun a _ => ones (tyWidth ty) - a)
/-- `ANDN` (R290). -/
def execAndn (h : Hd) (ty : BitVec 6) (d a b : BitVec 8) (s : State) : Out3 :=
  .next (s.bitOp (.andn h ty d a b) ty d a (.reg b) fun a b => a &&& (ones (tyWidth ty) - b))
/-- `ANDN` with an immediate (R290). -/
def execAndnImm (h : Hd) (ty : BitVec 6) (d a : BitVec 8) (imm : Word) (s : State) : Out3 :=
  .next (s.bitOp (.andnImm h ty d a imm) ty d a (.imm imm) fun a b => a &&& (ones (tyWidth ty) - b))
/-- `SHL` (R290). -/
def execShl (h : Hd) (ty : BitVec 6) (d a b : BitVec 8) (s : State) : Out3 :=
  .next (s.countOp (.shl h ty d a b) ty d a (.reg b) (shiftLeft (tyWidth ty)))
/-- `SHL` with an immediate (R290). -/
def execShlImm (h : Hd) (ty : BitVec 6) (d a : BitVec 8) (imm : Word) (s : State) : Out3 :=
  .next (s.countOp (.shlImm h ty d a imm) ty d a (.imm imm) (shiftLeft (tyWidth ty)))
/-- `SHR` (R290). -/
def execShr (h : Hd) (ty : BitVec 6) (d a b : BitVec 8) (s : State) : Out3 :=
  .next (s.countOp (.shr h ty d a b) ty d a (.reg b) (shiftRight (tyWidth ty)))
/-- `SHR` with an immediate (R290). -/
def execShrImm (h : Hd) (ty : BitVec 6) (d a : BitVec 8) (imm : Word) (s : State) : Out3 :=
  .next (s.countOp (.shrImm h ty d a imm) ty d a (.imm imm) (shiftRight (tyWidth ty)))
/-- `SAR` (R290). -/
def execSar (h : Hd) (ty : BitVec 6) (d a b : BitVec 8) (s : State) : Out3 :=
  .next (s.countOp (.sar h ty d a b) ty d a (.reg b) (shiftArith (tyWidth ty)))
/-- `SAR` with an immediate (R290). -/
def execSarImm (h : Hd) (ty : BitVec 6) (d a : BitVec 8) (imm : Word) (s : State) : Out3 :=
  .next (s.countOp (.sarImm h ty d a imm) ty d a (.imm imm) (shiftArith (tyWidth ty)))
/-- `ROT` (R290). -/
def execRot (h : Hd) (ty : BitVec 6) (d a b : BitVec 8) (s : State) : Out3 :=
  .next (s.countOp (.rot h ty d a b) ty d a (.reg b) (rotate (tyWidth ty)))
/-- `ROT` with an immediate (R290). -/
def execRotImm (h : Hd) (ty : BitVec 6) (d a : BitVec 8) (imm : Word) (s : State) : Out3 :=
  .next (s.countOp (.rotImm h ty d a imm) ty d a (.imm imm) (rotate (tyWidth ty)))
/-- `POPC` (R290). -/
def execPopc (h : Hd) (ty : BitVec 6) (d a : BitVec 8) (s : State) : Out3 :=
  .next (s.bitCount (.popc h ty d a) ty d a fun a => onesBelow a (tyWidth ty))
/-- `CLZ` (R290). -/
def execClz (h : Hd) (ty : BitVec 6) (d a : BitVec 8) (s : State) : Out3 :=
  .next (s.bitCount (.clz h ty d a) ty d a fun a => leadingZeros a (tyWidth ty))
/-- `CTZ` (R290). -/
def execCtz (h : Hd) (ty : BitVec 6) (d a : BitVec 8) (s : State) : Out3 :=
  .next (s.bitCount (.ctz h ty d a) ty d a fun a => trailingZeros a 0 (tyWidth ty))
/-- `BREV` (R290). -/
def execBrev (h : Hd) (ty : BitVec 6) (d a : BitVec 8) (s : State) : Out3 :=
  .next (s.bitOp (.brev h ty d a) ty d a (.imm 0) fun a _ => reversed a (tyWidth ty))
/-- `BFX` (R291). -/
def execBfx (h : Hd) (ty : BitVec 6) (d a b : BitVec 8) (s : State) : Out3 :=
  .next (s.countOp (.bfx h ty d a b) ty d a (.reg b) (bitExtract ty))
/-- `BFX` with an immediate (R291). -/
def execBfxImm (h : Hd) (ty : BitVec 6) (d a : BitVec 8) (imm : Word) (s : State) : Out3 :=
  .next (s.countOp (.bfxImm h ty d a imm) ty d a (.imm imm) (bitExtract ty))
/-- `BFI` (R291). -/
def execBfi (h : Hd) (ty : BitVec 6) (d a b c : BitVec 8) (s : State) : Out3 :=
  .next (s.insertOp (.bfi h ty d a b c) ty d a (.reg b) c)
/-- `BFI` with an immediate (R291). -/
def execBfiImm (h : Hd) (ty : BitVec 6) (d a c : BitVec 8) (imm : Word) (s : State) : Out3 :=
  .next (s.insertOp (.bfiImm h ty d a c imm) ty d a (.imm imm) c)
/-- `BPERM` (R292). -/
def execBperm (h : Hd) (ty : BitVec 6) (d a b c : BitVec 8) (s : State) : Out3 :=
  .next (s.permOp (.bperm h ty d a b c) d a (.reg b) c)
/-- `BPERM` with an immediate (R292). -/
def execBpermImm (h : Hd) (ty : BitVec 6) (d a c : BitVec 8) (imm : Word) (s : State) : Out3 :=
  .next (s.permOp (.bpermImm h ty d a c imm) d a (.imm imm) c)

end Sys2Proof.Machine
end

