-- ==== Sys2Proof/Machine/Convert.lean ====
section
/-!
DEFINITION. Conversions, packing, short dot products, descriptors, tags and block scales (R316 to R325).
-/
namespace Sys2Proof.Machine

/-- The element format of a float type code (R130, R131, R135, R267). -/
def tyFmt (t : Team) (ty : BitVec 6) : Float.Fmt :=
  match ty.toNat with
  | 3 => Float.f32 | 4 | 10 => Float.f16 | 5 | 11 => Float.bf16 | 6 => Float.f64
  | 12 | 34 => Float.e4m3 | 13 | 35 => Float.e5m2 | 14 | 36 => Float.e2m1 | 15 | 37 => Float.e8m0
  | n => Float.descFmt (t.fm (n - 16))

/-- A programmable packed type (R267). -/
def programmable (ty : BitVec 6) : Bool := 16 ≤ ty.toNat && ty.toNat ≤ 23
/-- The descriptor of a type, where it has one, is valid (R133). -/
def tyValid (t : Team) (ty : BitVec 6) : Bool := !programmable ty || Float.descValid (t.fm (ty.toNat - 16))
/-- The width of an element of a packed type, and the number of elements in a register (R135). -/
def elemWidth (t : Team) (ty : BitVec 6) : Nat :=
  match ty.toNat with | 7 | 8 => 8 | 9 => 4 | _ => (tyFmt t ty).width
/-- The number of elements in a register (R135). -/
def elemCount (t : Team) (ty : BitVec 6) : Nat := if elemWidth t ty = 0 then 0 else 32 / elemWidth t ty

/-- The tags a conversion's source accepts (R138): its own or raw; a type without a tag code, raw, i32 or n32. -/
def cvTagOk (ty : BitVec 6) (tag : Tag) : Bool :=
  tag == 0 || (if 24 ≤ ty.toNat then tag == 1 || tag == 2 else tag == tyTag ty)
/-- Every register of a conversion's source holds an accepted tag. -/
def Thread.cvTagged (t : Thread) (ty : BitVec 6) (r : BitVec 8) : Bool :=
  cvTagOk ty (t.reg r).2 && (!wide ty || cvTagOk ty (t.reg (r + 1)).2)

/-- The rounding of element k: `.rs` draws its number from the seed register (R140, R319). -/
def cvRm (th : Thread) (rm : BitVec 3) (c : BitVec 8) (k : Nat) : Float.Rm :=
  Float.rmOf rm (Float.stochastic (th.r32 c) k)

/-- Put elements of a width into a register, element 0 lowest (R135). -/
def joinElems (w : Nat) : List Nat → Nat
  | [] => 0
  | v :: vs => v % 2 ^ w + 2 ^ w * joinElems w vs

/-- A conversion to a float of one or two elements (R317, R318): codes of a width, each from a value. -/
def State.cvFloatOp (s : State) (i : Instr) (d a c : BitVec 8) (dty sty : BitVec 6) (rm : BitVec 3) (sat : Bool)
    (val : Team → Thread → Nat → XNum) : State :=
  s.lanewise i fun t ln th =>
    let n := if dty = 10 ∨ dty = 11 then 2 else 1
    let f := tyFmt t dty
    let rs := (List.range n).map fun k => f.round (cvRm th rm c k) sat (val t th k)
    let fl := rs.foldl (fun x r => x ||| r.2) 0
    LaneOut.checked (th.cvTagged sty a) ln th
      (fpOut t.fpctl ln th fl fun th =>
        th.setBits (wide dty) d (if n = 1 then (rs.headD (0, 0)).1 else joinElems 16 (rs.map (·.1))) (tyTag dty))

/-- A conversion of a scalar float to an integer (R317): saturates with INV (log 24, DEDUCED). -/
def State.cvIntOp (s : State) (i : Instr) (d a c : BitVec 8) (dty sty : BitVec 6) (rm : BitVec 3) : State :=
  s.lanewise i fun t ln th =>
    let r := Float.toInt (cvRm th rm c 0) (signedTy dty) (tyWidth dty) ((tyFmt t sty).decode (th.bits (wide sty) a))
    LaneOut.checked (th.cvTagged sty a) ln th
      (fpOut t.fpctl ln th r.2 fun th => th.setBits (wide dty) d (wrap (tyWidth dty) r.1) (tyTag dty))

/-- The value of an element of a float source. -/
def floatElem (sty : BitVec 6) (a : BitVec 8) (t : Team) (th : Thread) (k : Nat) : XNum :=
  (tyFmt t sty).decode (th.bits (wide sty) a / 2 ^ (16 * k))

/-- The value of an integer source (R132, R318). -/
def intElem (sty : BitVec 6) (a : BitVec 8) (th : Thread) : Int :=
  valOf sty (th.bits (wide sty) a % 2 ^ tyWidth sty)

/-- `FCVT` (R317). -/
def execFcvt (h : Hd) (d a c : BitVec 8) (dty sty : BitVec 6) (rm : BitVec 3) (sat : Bool) (s : State) : Out3 :=
  .next (if cvInt dty then s.cvIntOp (.fcvt h d a c dty sty rm sat) d a c dty sty rm
    else s.cvFloatOp (.fcvt h d a c dty sty rm sat) d a c dty sty rm sat (floatElem sty a))

/-- `F2I` (R317; log 24, DEDUCED). -/
def execF2i (h : Hd) (d a c : BitVec 8) (dty sty : BitVec 6) (rm : BitVec 3) (sat : Bool) (s : State) : Out3 :=
  .next (s.cvIntOp (.f2i h d a c dty sty rm sat) d a c dty sty rm)

/-- `I2F` (R318). -/
def execI2f (h : Hd) (d a c : BitVec 8) (dty sty : BitVec 6) (rm : BitVec 3) (sat : Bool) (s : State) : Out3 :=
  .next (s.cvFloatOp (.i2f h d a c dty sty rm sat) d a c dty sty rm sat fun _ th _ => Float.ofInt (intElem sty a th))

/-- `ICVT` (R318): wraps, or clamps under `.sat`. -/
def execIcvt (h : Hd) (d a c : BitVec 8) (dty sty : BitVec 6) (rm : BitVec 3) (sat : Bool) (s : State) : Out3 :=
  .next (s.lanewise (.icvt h d a c dty sty rm sat) fun _ ln th =>
    LaneOut.checked (th.cvTagged sty a) ln th
      { th := th.setBits (wide dty) d (intResult dty sat (intElem sty a th)) (tyTag dty) })

/-- The first registers of the n members of a group (R320, R321). -/
def groupRegs (r : BitVec 8) (ty : BitVec 6) (n : Nat) : List (BitVec 8) :=
  (List.range n).map fun k => r + BitVec.ofNat 8 (if wide ty then 2 * k else k)

/-- A register group of pairs begins at an odd register, whatever its length (R320, R321). -/
def oddGroup (i : Instr) : Bool :=
  match i with
  | .packn _ _ a _ _ sty _ _ => sty = 6 && a.getLsbD 0
  | .unpackn _ d _ _ dty _ _ _ => dty = 6 && d.getLsbD 0
  | _ => false

/-- The causes of a programmable packed type found at issue (R133, R319, R320): the descriptor, the group, `.rs` (log 51, DEDUCED). -/
def packHits (i : Instr) (packed : BitVec 6) (narrow : Team → Bool) (hdr : LaunchRec) (t : Team) (ln : Nat) : List Hit :=
  if programmable packed then
    let u := useAt i t hdr
    (if !tyValid t packed || (u.rd ++ u.wr).any (fun o => beyond o hdr.regs) || !narrow t then
        [{ ln, c := .reservedField }] else [])
      ++ (if (u.rd ++ u.wr).any VOp.misaligned || oddGroup i then [{ ln, c := .operandAlign }] else [])
  else []

/-- An element of a packed integer type from a value (R320). -/
def packInt1 (ty : BitVec 6) (sat : Bool) (z : Int) : Nat :=
  let (sg, w) := match ty.toNat with | 7 => (true, 8) | 8 => (false, 8) | _ => (true, 4)
  let r := Float.intRange sg w
  wrap w (if sat then max r.1 (min r.2 z) else z)

/-- `PACKN` (R320). -/
def execPackn (h : Hd) (d a c : BitVec 8) (dty sty : BitVec 6) (rm : BitVec 3) (sat : Bool) (s : State) : Out3 :=
  let i : Instr := .packn h d a c dty sty rm sat
  let hdr := (s.launchOf (s.tm s.team)).hdr
  .next (s.lanewise i (fun t ln th =>
      let regs := groupRegs a sty (elemCount t dty)
      let one (k : Nat) (r : BitVec 8) : Nat × Float.Flags :=
        if packInt dty then (packInt1 dty sat (intElem sty r th), 0)
        else (tyFmt t dty).round (cvRm th rm c k) sat ((tyFmt t sty).decode (th.bits (wide sty) r))
      let rs := (List.range regs.length).map fun k => one k (regs.getD k 0)
      let fl := rs.foldl (fun x r => x ||| r.2) 0
      LaneOut.checked (regs.all (th.cvTagged sty)) ln th
        (fpOut t.fpctl ln th fl fun th =>
          th.setReg d (BitVec.ofNat 32 (joinElems (elemWidth t dty) (rs.map (·.1)))) (tyTag dty)))
    fun t ln _ => packHits i dty
      (fun t => rm != 5 || (tyFmt t dty).mb < (tyFmt t sty).mb) hdr t ln)

/-- The value of an element of a packed register as a float (R321). -/
def packedVal (t : Team) (sty : BitVec 6) (v k : Nat) : XNum :=
  (tyFmt t sty).decode (v / 2 ^ (elemWidth t sty * k) % 2 ^ elemWidth t sty)

/-- The value of an element of a packed register as an integer (R321). -/
def packedInt (t : Team) (sty : BitVec 6) (v k : Nat) : Int :=
  let w := elemWidth t sty
  let e := v / 2 ^ (w * k) % 2 ^ w
  if sty = 8 then e else signedOf w e

/-- `UNPACKN` (R321). -/
def execUnpackn (h : Hd) (d a c : BitVec 8) (dty sty : BitVec 6) (rm : BitVec 3) (sat : Bool) (s : State) : Out3 :=
  let i : Instr := .unpackn h d a c dty sty rm sat
  let hdr := (s.launchOf (s.tm s.team)).hdr
  .next (s.lanewise i (fun t ln th =>
      let v := (th.r32 a).toNat
      let one (k : Nat) : Nat × Float.Flags :=
        if packInt sty then (wrap 32 (packedInt t sty v k), 0)
        else (tyFmt t dty).round (Float.rmOf rm 0) sat (packedVal t sty v k)
      let rs := (List.range (elemCount t sty)).map one
      let fl := rs.foldl (fun x r => x ||| r.2) 0
      LaneOut.checked (th.cvTagged sty a) ln th
        (fpOut t.fpctl ln th fl fun th =>
          ((groupRegs d dty rs.length).zip rs).foldl (fun th p => th.setBits (wide dty) p.1 p.2.1 (tyTag dty)) th))
    fun t ln _ => packHits i sty (fun _ => true) hdr t ln)

/-- A short dot product (R147, R322): the exact sum of the accumulator and the products, rounded once. -/
def State.dotOp (s : State) (i : Instr) (ft rm : BitVec 3) (d a b c : BitVec 8) (tag : Tag) (n w : Nat)
    (val : Nat → XNum) (ints : Bool) : State :=
  s.lanewise i fun t ln th =>
    let el (r : BitVec 8) (k : Nat) : XNum := val ((th.r32 r).toNat / 2 ^ (w * k) % 2 ^ w)
    let ps := (List.range n).map fun k => Float.prod ints (el a k) (el b k)
    let x := Float.sum (th.ftVal ft c) (ps.map (·.1))
    let r := rounded rm (ftFmt ft) (x.1, ps.foldl (fun fl p => fl ||| p.2) x.2)
    let ok (r : BitVec 8) : Bool := (th.reg r).2 == 0 || (th.reg r).2 == tag
    LaneOut.checked (ok a && ok b && th.ftTagged ft c) ln th
      (fpOut t.fpctl ln th r.2 fun th => th.setReg d (BitVec.ofNat 32 r.1) (ftTag ft))

/-- `DOT2` (R322). -/
def execDot2 (h : Hd) (bf : Bool) (ft rm : BitVec 3) (d a b c : BitVec 8) (s : State) : Out3 :=
  .next (s.dotOp (.dot2 h bf ft rm d a b c) ft rm d a b c (if bf then 11 else 10) 2 16
    (if bf then Float.bf16.decode else Float.f16.decode) false)

/-- The tag and the decoding of an element format of `DOT4` (R322). -/
def dot4Elem : Dot4Fmt → Tag × (Nat → XNum)
  | .e4m3 => (12, Float.e4m3.decode)
  | .e5m2 => (13, Float.e5m2.decode)
  | .i8 => (7, fun v => Float.ofInt (signedOf 8 v))
  | .n8 => (8, fun v => Float.ofInt v)

/-- `DOT4` (R322). -/
def execDot4 (h : Hd) (ef : Dot4Fmt) (ft rm : BitVec 3) (d a b c : BitVec 8) (s : State) : Out3 :=
  .next (s.dotOp (.dot4 h ef ft rm d a b c) ft rm d a b c (dot4Elem ef).1 4 8 (dot4Elem ef).2 (ef == .i8 || ef == .n8))

/-- `FMTSET` of a value read in the lowest active lane (R323). -/
def State.fmtOp (s : State) (i : Instr) (d : BitVec 3) (b : Opb) : State :=
  s.once i (fun s x ln => if Float.descValid (b.word ((s.tm x.key).lane x.q ln)) then [] else [{ ln, c := .reservedField }])
    fun s x ln => s.onTm x.key fun t => { t with fms := t.fms.store 0 d.toNat (b.word (t.lane x.q ln)) }

/-- `FMTSET` (R323). -/
def execFmtset (h : Hd) (d : BitVec 3) (a : BitVec 8) (s : State) : Out3 := .next (s.fmtOp (.fmtset h d a) d (.reg a))
/-- `FMTSET` with an immediate (R323). -/
def execFmtsetImm (h : Hd) (d : BitVec 3) (imm : Word) (s : State) : Out3 :=
  .next (s.fmtOp (.fmtsetImm h d imm) d (.imm imm))

/-- `FMTGET` (R323). -/
def execFmtget (h : Hd) (d : BitVec 8) (a : BitVec 3) (s : State) : Out3 :=
  .next (s.lanewise (.fmtget h d a) fun t _ th => { th := th.setReg d (t.fm a.toNat) 0 })

/-- `TAG` in each active lane (R324). -/
def State.tagOp (s : State) (i : Instr) (d a : BitVec 8) (b : Opb) : State :=
  s.lanewise i (fun _ _ th => { th := th.setReg d (th.r32 a) ((b.word th).setWidth 5) })
    fun _ ln th => if (b.word th).toNat ≤ 23 then [] else [{ ln, c := .reservedField }]

/-- `TAG` (R324). -/
def execTag (h : Hd) (d a b : BitVec 8) (s : State) : Out3 := .next (s.tagOp (.tag h d a b) d a (.reg b))
/-- `TAG` with an immediate (R324). -/
def execTagImm (h : Hd) (d a : BitVec 8) (imm : Word) (s : State) : Out3 :=
  .next (s.tagOp (.tagImm h d a imm) d a (.imm imm))

/-- `TAGGET` (R324). -/
def execTagget (h : Hd) (d a : BitVec 8) (s : State) : Out3 :=
  .next (s.lanewise (.tagget h d a) fun _ _ th => { th := th.setReg d ((th.reg a).2.setWidth 32) 0 })

/-- The float format of an element format code (R215). -/
def codeFmt (t : Team) (f : BitVec 5) : Float.Fmt :=
  match f.toNat with
  | 0 => Float.e4m3 | 1 => Float.e5m2 | 2 => Float.e3m2 | 3 => Float.e2m3 | 4 => Float.e2m1 | 8 => Float.f16
  | 9 => Float.bf16 | 10 => Float.f32 | n => Float.descFmt (t.fm (n - 16))

/-- A format code names a descriptor that is not valid (R133). -/
def codeInvalid (t : Team) (f : BitVec 5) : Bool := 16 ≤ f.toNat && !Float.descValid (t.fm (f.toNat - 16))

/-- `emax` of a format: floor of log2 of its largest finite value; none where that is zero (R325). -/
def emaxOf (f : Float.Fmt) : Option Int :=
  match f.decode f.maxCode with | .fin _ m e => if m = 0 then none else some (Float.ilog2 m e) | _ => none

/-- The block scale of a largest magnitude (R325). -/
def blockScale (emax : Int) (x : XNum) : Nat :=
  match x with
  | .fin _ m e => if m = 0 then 0 else (max 0 (min 254 (Float.ilog2 m e - emax + 127))).toNat
  | _ => 255

/-- `BSCALE` (R325). -/
def execBscale (h : Hd) (ef : BitVec 5) (ty : BitVec 6) (d a : BitVec 8) (s : State) : Out3 :=
  .next (s.lanewise (.bscale h ef ty d a) (fun t ln th =>
      let code := blockScale ((emaxOf (codeFmt t ef)).getD 0) (Float.f32.decode (th.r32 a).toNat)
      LaneOut.checked (th.cvTagged 3 a) ln th { th := th.setReg d (BitVec.ofNat 32 code) 0 })
    fun t ln _ => if codeInvalid t ef || (emaxOf (codeFmt t ef)).isNone then [{ ln, c := .reservedField }] else [])

end Sys2Proof.Machine
end

