-- ==== Sys2Proof/Machine/Tiles.lean ====
section
/-!
DEFINITION. Tile instructions (R345 to R355) and the element formats of tiles and planes (R215, R217).
-/
namespace Sys2Proof.Machine

/-- The data bytes of a tile. -/
def Tile.bytes (t : Tile) : Array Byte := (Map.dense 0 0 8192 t.data).toArray
/-- The scale bytes of a tile. -/
def Tile.scaleBytes (t : Tile) : Array Byte := (Map.dense 127 0 512 t.scales).toArray

/-- Cell c of row i: 16 bits (R217). -/
def cellAt (b : Array Byte) (i c : Nat) : Nat := (b.getD (512 * i + 2 * c) 0).toNat + 256 * (b.getD (512 * i + 2 * c + 1) 0).toNat

/-- A narrow element of row i, of 8 or 4 bits (R345). -/
def narrowAt (bits : Nat) (b : Array Byte) (i e : Nat) : Nat :=
  if bits = 4 then ((b.getD (512 * i + e / 2) 0).toNat / (if e % 2 = 0 then 1 else 16)) % 16 else (b.getD (512 * i + e) 0).toNat

/-- The scale byte that covers a narrow element of row i (R345, R217). -/
def scaleAt (bits : Nat) (b : Array Byte) (i e : Nat) : Nat :=
  let per := if bits = 4 then 512 else if bits = 8 then 256 else 128
  (b.getD (32 * i + 16 * (e / per) + e % per / 32) 127).toNat

/-- The float format of an element code, with the descriptor of a programmable one (R215). -/
def elemFmt (f : BitVec 5) (desc : Word) : Float.Fmt :=
  match f.toNat with
  | 0 => Float.e4m3 | 1 => Float.e5m2 | 2 => Float.e3m2 | 3 => Float.e2m3 | 4 => Float.e2m1 | 8 => Float.f16
  | 9 => Float.bf16 | 10 => Float.f32 | _ => Float.descFmt desc

/-- The class of an element code in bits (R215). -/
def elemBits (f : BitVec 5) (desc : Word) : Nat :=
  match f.toNat with
  | 4 | 7 => 4
  | 8 | 9 => 16
  | 10 => 32
  | n => if n < 16 then 8 else if (elemFmt f desc).width ≤ 4 then 4 else 8

/-- The signedness and width of an integer element code. -/
def elemInt (f : BitVec 5) : Option (Bool × Nat) :=
  match f.toNat with | 5 => some (true, 8) | 6 => some (false, 8) | 7 => some (true, 4) | _ => none

/-- The value of an element (R215): bits above a programmable format's width are ignored. -/
def elemVal (f : BitVec 5) (desc : Word) (raw : Nat) : XNum :=
  match elemInt f with
  | some (sg, w) => Float.ofInt (if sg then signedOf w raw else raw)
  | none => let fm := elemFmt f desc; fm.decode (raw % 2 ^ fm.width)

/-- A value times its block scale (R131): scale 0xFF is NaN. -/
def scaleBy (code : Nat) (x : XNum) : XNum :=
  if code = 255 then .nan false else match x with | .fin n m e => .fin n m (e + code - 127) | x => x

/-- An element rounded into a code's format (R139 to R141). -/
def roundElem (f : BitVec 5) (desc : Word) (rm : Float.Rm) (x : XNum) : Nat :=
  match elemInt f with
  | some (sg, w) => wrap w (Float.toInt rm sg w x).1
  | none => ((elemFmt f desc).round rm false x).1

/-- The tag of an element code (R353, R215). -/
def codeTag (f : BitVec 5) : Tag :=
  match f.toNat with
  | 0 => 12 | 1 => 13 | 2 => 0 | 3 => 0 | 4 => 14 | 5 => 7 | 6 => 8 | 7 => 9 | 8 => 4 | 9 => 5 | 10 => 3 | n => BitVec.ofNat 5 n

/-- The tile tags that an element code accepts (R215, R353). -/
def codeTagOk (f : BitVec 5) (tag : Tag) : Bool :=
  tag == 0 || (if f = 2 ∨ f = 3 then tag == 1 || tag == 2 else tag == codeTag f)

/-- The descriptor of a code in a team. -/
def codeDesc (t : Team) (f : BitVec 5) : Word := if 16 ≤ f.toNat then t.fm (f.toNat - 16) else 0

/-- The causes of a tile instruction that acts once: a locked destination, source tags not accepted. A tile beyond the
allocation has no tag (R81, R265). -/
def State.tileHits (s : State) (i : Instr) (tagsOk : Team → Bool) (x : Convoy) (ln : Nat) : List Hit :=
  s.lockHits x.key ln i.use.twr ++ (if tagsOk (s.tm x.key) || (allocDefects { trd := i.use.trd } (s.launchOf (s.tm x.key)).hdr) != [] then [] else [{ ln, c := .tagMismatch }])

/-- The meaning of a tile instruction that acts once for its convoy (R346). -/
def State.tileOnce (s : State) (i : Instr) (tagsOk : Team → Bool) (f : Team → Thread → Team) : State :=
  s.once i (fun s x ln => s.tileHits i tagsOk x ln) fun s x ln => s.onTm x.key fun t => f t (t.lane x.q ln)

/-- The bytes of a unit of 8 that `TST` stores (R348, R349). -/
def Team.tileUnit (t : Team) (c ty : BitVec 6) (off : Nat) : List Byte :=
  if ty = 3 then
    (List.range 2).flatMap fun k =>
      let w := 2 * (off / 4 + k)
      [(t.tile c.toNat).byte w, (t.tile c.toNat).byte (w + 1), (t.tile (c.toNat + 1)).byte w, (t.tile (c.toNat + 1)).byte (w + 1)]
  else (List.range 8).map fun k => (t.tile c.toNat).byte (off + k)

/-- The bytes that a tile access moves (R348), and its units. -/
def tileSize (ty : BitVec 6) : Nat := if ty = 3 then 16384 else 8192
/-- The offsets of the units of a tile access. -/
def tileUnits (ty : BitVec 6) : List Nat := (List.range (tileSize ty / 8)).map (8 * ·)

/-- The unit of 16 bytes that an offset of a tile access lies in is outside the record's window (R349). -/
def unitOob (r : Record) (a : LaneAddr) (o : Nat) : Bool :=
  let rel : Int := a.off + (o / 16 * 16 : Nat)
  rel < 0 || (r.extent : Int) < rel + 16

/-- The tag of a tile is accepted by `TST` (R348). -/
def tstTagOk (ty : BitVec 6) (tag : Tag) : Bool := ty == 0 || tag == 0 || tag == tileTag ty

/-- `TLD` (R347 to R349; log 59, DEDUCED). -/
def execTld (h : Hd) (ty d : BitVec 6) (ad : MemAddr) (ord scp : BitVec 3) (s : State) : Out3 :=
  let i : Instr := .tld h ty d ad ord scp
  let locked := !(s.lockHits s.team 0 (tileTy d ty)).isEmpty
  .next (s.accessOp i ad .read (tileSize ty) 128 true (fun _ => true)
    (fun _ _ => if locked then [(.permission, 3)] else [])
    (fun _ _ r => { i, h, r, use := .load, op := .tld ty d, ord, scp, offs := tileUnits ty, oob := unitOob r }) (split := true))

/-- `TST` (R347 to R349). -/
def execTst (h : Hd) (ty : BitVec 6) (ad : MemAddr) (c : BitVec 6) (ord scp : BitVec 3) (s : State) : Out3 :=
  let i : Instr := .tst h ty ad c ord scp
  .next (s.accessOp i ad .write (tileSize ty) 128 true (fun _ => true)
    (fun t _ => if (tileTy c ty).all fun p => (List.range p.2).all fun k => tstTagOk ty (t.tile (p.1.toNat + k)).tag then []
      else [(.tagMismatch, 0)])
    (fun t _ r =>
      { i, h, r, use := .store, op := .tst ty c, ord, scp, offs := tileUnits ty, oob := unitOob r
        fill := fun _ o a => { a with data := t.tileUnit c ty o } }) (split := true))

/-- Every tile of a pair or a single tile. -/
def Team.setTiles (t : Team) (d : BitVec 6) (n : Nat) (f : Nat → Tile) : Team :=
  (List.range n).foldl (fun t k => t.setTile (d.toNat + k) (f k)) t

/-- `TZERO` (R351). -/
def execTzero (h : Hd) (ty d : BitVec 6) (s : State) : Out3 :=
  .next (s.tileOnce (.tzero h ty d) (fun _ => true) fun t _ =>
    t.setTiles d (if ty = 3 then 2 else 1) fun _ => { tag := tyTag ty })

/-- `TMOV` (R351). -/
def execTmov (h : Hd) (d a : BitVec 6) (s : State) : Out3 :=
  .next (s.tileOnce (.tmov h d a) (fun _ => true) fun t _ => t.setTile d.toNat (t.tile a.toNat))

/-- The tile whose cells are given (R217), with the unit scale. -/
def tileOfCells (tag : Tag) (cells : List Nat) : Tile :=
  { data := Map.sparse 0 0 (cells.flatMap fun v => toBytes 2 v), scales := [], tag }

/-- `TTRANS` (R351): cell (i, 16b + c) becomes cell (c, 16b + i). -/
def execTtrans (h : Hd) (d a : BitVec 6) (s : State) : Out3 :=
  .next (s.tileOnce (.ttrans h d a) (fun t => (t.tile a.toNat).tag ∈ [(0 : Tag), 4, 5]) fun t _ =>
    let src := t.tile a.toNat
    let b := src.bytes
    t.setTile d.toNat (tileOfCells src.tag ((List.range 4096).map fun k =>
      let c := k / 256
      let j := k % 256
      cellAt b (j % 16) (j / 16 * 16 + c))))

/-- The format of an accumulator type. -/
def accFmt (ty : BitVec 6) : Float.Fmt := match ty.toNat with | 4 => Float.f16 | 5 => Float.bf16 | _ => Float.f32

/-- An accumulator element's bits: one cell, or the cells of a pair (R217). -/
def accAt (pair : Bool) (lo hi : Array Byte) (i j : Nat) : Nat :=
  if pair then cellAt lo i j + 65536 * cellAt hi i j else cellAt lo i j

/-- Accumulator elements, in order of rows, become a tile or a pair (R217). -/
def Team.setAcc (t : Team) (d : BitVec 6) (pair : Bool) (tag : Tag) (vs : List Nat) : Team :=
  if pair then (t.setTile d.toNat (tileOfCells tag (vs.map (· % 65536)))).setTile (d.toNat + 1) (tileOfCells tag (vs.map (· / 65536)))
  else t.setTile d.toNat (tileOfCells tag vs)

/-- The tags of a tile or a pair are raw or one tag. -/
def Team.tagsIn (t : Team) (a : BitVec 6) (n : Nat) (ok : Tag → Bool) : Bool :=
  (List.range n).all fun k => ok (t.tile (a.toNat + k)).tag

/-- `TADD` (R352). -/
def execTadd (h : Hd) (ty d a b : BitVec 6) (s : State) : Out3 :=
  let pair := decide (ty = 3)
  let n := if pair then 2 else 1
  let ok (g : Tag) : Bool := g == 0 || g == tyTag ty
  .next (s.tileOnce (.tadd h ty d a b) (fun t => t.tagsIn a n ok && t.tagsIn b n ok) fun t _ =>
    let f := accFmt ty
    let la := (t.tile a.toNat).bytes
    let ha := (t.tile (a.toNat + 1)).bytes
    let lb := (t.tile b.toNat).bytes
    let hb := (t.tile (b.toNat + 1)).bytes
    t.setAcc d pair (tyTag ty) ((List.range 4096).map fun k =>
      let x := f.decode (accAt pair la ha (k / 256) (k % 256))
      let y := f.decode (accAt pair lb hb (k / 256) (k % 256))
      (f.round .rn false (Float.add false x y).1).1))

/-- `TSCALE` (R351). -/
def execTscale (h : Hd) (d : BitVec 6) (a : BitVec 8) (s : State) : Out3 :=
  .next (s.tileOnce (.tscale h d a) (fun _ => true) fun t th =>
    t.setTile d.toNat { t.tile d.toNat with scales := Map.sparse 127 0 (List.replicate 512 ((th.r32 a).setWidth 8)) })

/-- The value of the source element that goes into column e of row i (R354). -/
def tcvtSource (sf : BitVec 5) (desc : Word) (seg : Nat) (lo hi sc : Array Byte) (i e : Nat) : XNum :=
  let bits := elemBits sf desc
  if tcvtWide sf then (elemFmt sf desc).decode (accAt (sf == 10) lo hi i e)
  else
    let n := 256 * seg + e
    scaleBy (scaleAt bits sc i n) (elemVal sf desc (narrowAt bits lo i n))

/-- The bytes of a narrow destination after `TCVT` (R354): elements outside the segment keep theirs. -/
def tcvtNarrow (df : BitVec 5) (desc : Word) (seg : Nat) (old sc : Array Byte) (val : Nat → Nat → XNum)
    (rm : Nat → Float.Rm) : List Byte :=
  let bits := elemBits df desc
  let elem (i n : Nat) : Nat :=
    if n / 256 = seg then
      let c := scaleAt bits sc i n
      let x := if c = 255 then XNum.nan false else match val i (n % 256) with | .fin s m e => .fin s m (e + 127 - c) | x => x
      roundElem df desc (rm (256 * i + n % 256)) x
    else narrowAt bits old i n
  (List.range 8192).map fun k =>
    let i := k / 512
    let b := k % 512
    BitVec.ofNat 8 (if bits = 4 then elem i (2 * b) % 16 + 16 * (elem i (2 * b + 1) % 16) else elem i b)

/-- `TCVT` (R353, R354): the whole source is read first; the scale store of a narrow destination stays. -/
def execTcvt (h : Hd) (rm : BitVec 3) (df : BitVec 5) (d a : BitVec 6) (sf : BitVec 5) (seg : BitVec 2) (c : BitVec 8)
    (s : State) : Out3 :=
  let i : Instr := .tcvt h rm df d a sf seg c
  let n := if sf = 10 then 2 else 1
  let narrow8 (t : Team) (f : BitVec 5) : Bool := !tcvtWide f && elemBits f (codeDesc t f) == 8 && 1 < seg.toNat
  .next (s.once i
    (fun s x ln =>
      let t := s.tm x.key
      let bad := codeInvalid t sf || codeInvalid t df || narrow8 t sf || narrow8 t df
      let rs : List Hit := if bad then [{ ln, c := .reservedField }] else []
      rs ++ s.tileHits i (fun t => t.tagsIn a n (codeTagOk sf)) x ln)
    fun s x ln => s.onTm x.key fun t =>
      let seed := (t.lane x.q ln).r32 c
      let src := t.tile a.toNat
      let val := tcvtSource sf (codeDesc t sf) seg.toNat src.bytes (t.tile (a.toNat + 1)).bytes src.scaleBytes
      let mode (k : Nat) : Float.Rm := Float.rmOf rm (Float.stochastic seed k)
      if tcvtWide df then
        t.setAcc d (df == 10) (codeTag df) ((List.range 4096).map fun k =>
          ((elemFmt df 0).round (mode k) false (val (k / 256) (k % 256))).1)
      else
        let dst := t.tile d.toNat
        t.setTile d.toNat { dst with
          data := Map.sparse 0 0 (tcvtNarrow df (codeDesc t df) seg.toNat dst.bytes dst.scaleBytes val mode), tag := codeTag df })

/-- The causes of a tile offset in a lane (R355). -/
def offsetHits (ln : Nat) (o : Word) : List Hit :=
  (if o.toNat % 4 != 0 then [{ ln, c := .align }] else []) ++ (if 0x21FC < o.toNat then [{ ln, c := .bounds }] else [])

/-- A byte of a tile by the offsets of `TGETV` and `TSETV` (R345). -/
def Tile.at_ (t : Tile) (o : Nat) : Byte := if o < 8192 then t.byte o else t.scale (o - 8192)

/-- Write 4 bytes of a tile by offset. -/
def Tile.put4 (t : Tile) (o : Nat) (v : Word) : Tile :=
  if o < 8192 then t.store o (toBytes 4 v.toNat)
  else { t with scales := Map.storeBytes 127 t.scales (o - 8192) (toBytes 4 v.toNat) }

/-- `TGETV` (R355). -/
def execTgetv (h : Hd) (ty : BitVec 6) (d : BitVec 8) (a : BitVec 6) (b : BitVec 8) (s : State) : Out3 :=
  .next (s.lanewise (.tgetv h ty d a b)
    (fun t _ th =>
      let o := (th.r32 b).toNat
      let v := ofBytes ((List.range 4).map fun k => (t.tile a.toNat).at_ (o + k))
      { th := th.setReg d (BitVec.ofNat 32 v) (tyTag ty) })
    fun _ ln th => offsetHits ln (th.r32 b))

/-- The active lanes whose `vA` has a tag that `TSETV` does not accept: it checks `TY` 1 to 23, and takes their own tag or raw (R138, R355). -/
def tsetvBad (t : Team) (x : Convoy) (ty : BitVec 6) (a : BitVec 8) : List Nat :=
  x.act.filter fun ln => 1 ≤ ty.toNat && ty.toNat ≤ 23 && !(let g := ((t.lane x.q ln).reg a).2; g == 0 || g == tyTag ty)

/-- `TSETV` (R355): in ascending lanes; a lane with a tag not accepted writes nothing, and its cause is set beside any
other found at issue (log 27, DEDUCED). -/
def execTsetv (h : Hd) (ty d : BitVec 6) (a b : BitVec 8) (s : State) : Out3 :=
  let i : Instr := .tsetv h ty d a b
  .next (s.issue i
    (fun s x =>
      let t := s.tm x.key
      let hs := (x.act.flatMap fun ln => offsetHits ln ((t.lane x.q ln).r32 b)) ++
        match x.act with | [] => [] | ln :: _ => s.lockHits x.key ln [(d, 1)]
      if hs.isEmpty then [] else hs ++ (tsetvBad t x ty a).map fun ln => { ln, c := .tagMismatch })
    fun s x =>
      let t := s.tm x.key
      let bad := tsetvBad t x ty a
      let go := x.lanes.filter fun ln => !bad.contains ln
      let s := ((s.issued x go).advance x go i.len).onTm x.key fun t =>
        t.setTile d.toNat ((x.act.filter fun ln => !bad.contains ln).foldl (fun y ln =>
          let th := t.lane x.q ln
          y.put4 (th.r32 b).toNat (th.r32 a)) (t.tile d.toNat))
      s.raise x.key x.q x.pc (bad.map fun ln => { ln, c := .tagMismatch }) (own := s.inHandler x.key))

end Sys2Proof.Machine
end

