-- ==== Sys2Proof/Machine/Matrix.lean ====
section
/-!
DEFINITION. The matrix engine (R213 to R239): filling planes, `MSWAP`, `MMA`, the assay, and the resolution of suspect results.
-/
namespace Sys2Proof.Machine

/-- Bytes of a plane image (R216). -/
def imageSize : Nat := 0x11000

/-- The index of a line in the ingot that a slot seals it to (R52). -/
def KeySlot.lineIndex (k : KeySlot) (key : Nat) : Option Nat :=
  (k.binds.find? fun b => decide (b.start ≤ key / 128) && decide (key / 128 < b.start + b.lines)).map
    fun b => b.first + (key / 128 - b.start)

/-- Replace the engine of a core. -/
def State.setEngine (s : State) (c : Nat) (e : Engine) : State := s.setCore c { s.core c with engine := e }

/-- An instruction of the engine (R214): its convoy claims a free engine, and is not ready while another team holds it. It acts
once, and does nothing without an active lane. -/
def State.engineIssue (s : State) (i : Instr) (ready : Engine → Bool) (causes : State → Convoy → Nat → List Hit)
    (body : State → Convoy → Nat → State) : State :=
  match s.slot i with
  | none => s
  | some x =>
    let c := (s.tm x.key).core
    let e := (s.core c).engine
    if e.owner.isSome && e.owner != some x.key then s
    else match x.act with
    | [] => s.issue i (fun _ _ => []) fun s x => (s.issued x x.lanes).advance x x.lanes i.len
    | ln :: _ =>
      if s.stalled i x then s
      else
        let s := if (s.decodeHits i x).isEmpty then s.setEngine c { e with owner := some x.key } else s
        if !ready e && (s.decodeHits i x).isEmpty then s
        else s.issue i (fun s x => causes s x ln) fun s x => body s x ln

/-- A swap waits in the queue. -/
def Engine.swapping (e : Engine) : Bool := e.queue.any fun o => match o with | .mswap _ => true | _ => false

/-- The ingot policy check (R221): slot installed, world, identity, and the instruction inside a measured region. -/
def State.policyOk (s : State) (t : Team) (slot : Nat) (pc : Dword) : Bool :=
  let l := s.launchOf t
  match s.slots.find slot with
  | none => false
  | some k => k.world == l.world && k.marks.contains l.identity
      && l.table.any fun r => decide (r.1 ≤ pc.toNat) && decide (pc.toNat < r.1 + r.2)

/-- The cause of `MLOADW` at issue (R219 to R221): each of the checks ends the instruction, in their order (R276; log 59, DEDUCED). -/
def State.mloadwHits (s : State) (x : Convoy) (ad : MemAddr) (slot : BitVec 6) (ing : Bool) (wf : BitVec 5) (ln : Nat) :
    List Hit :=
  let t := s.tm x.key
  let r := recordOf (t.brec ad.brec)
  let la := r.lane .read imageSize 128 ad.idx ad.imm.toInt ln (t.lane x.q ln)
  let hit (c : Cause) (detail : Word) : Hit := { ln, c, addr := la.addr, detail }
  let of (c : Cause) : List Hit := la.hits.filter fun h => h.c == c
  let checks : List Hit :=
    (if r.space != 0 then [hit .permission 1] else []) ++ (if codeInvalid t wf then [{ ln, c := .reservedField }] else [])
      ++ of .operandAlign ++ of .permission ++ of .bounds ++ (if la.oob then [hit .bounds 0] else []) ++ of .align
      ++ (if ing && !s.policyOk t slot.toNat x.pc then [{ ln, c := .ingotPolicy }] else [])
  checks.take 1

/-- Some earlier store of a lane has not performed (R220). -/
def State.storesOut (s : State) (key q ln : Nat) : Bool :=
  s.flights.any fun (_, f) => f.team == key && f.sq == q && f.writes && f.lanes.any fun l => l.ln == ln && !l.performed

/-- Translate every page of a plane image (R220): the pages' keys, the absent pages, the first failure. -/
def State.imagePages (s : State) (core : Nat) (w : World) (asid : Nat) (va : Dword) :
    List Nat × List Dword × Option (Fail × Dword) × State :=
  (pagesOf va.toNat imageSize).foldl
    (fun acc p =>
      let va := BitVec.ofNat 64 p.1
      match acc.2.2.2.translate core w asid p.1 .load with
      | (.absent, s) => (acc.1, acc.2.1 ++ [va], acc.2.2.1, s)
      | (.fail f, s) => (acc.1, acc.2.1, acc.2.2.1.or (some (f, va)), s)
      | (.ok k _, s) => (acc.1 ++ [k], acc.2.1, acc.2.2.1, s)) ([], [], none, s)

/-- `MLOADW` (R219, R220): the pages are translated, then the engine accepts the fill. -/
def execMloadw (h : Hd) (ad : MemAddr) (slot : BitVec 6) (ing : Bool) (wf : BitVec 5) (s : State) : Out3 :=
  let i : Instr := .mloadw h ad slot ing wf
  .next (s.engineIssue i (fun e => !e.swapping) (fun s x ln => s.mloadwHits x ad slot ing wf ln) fun s x ln =>
    let t := s.tm x.key
    let la := (recordOf (t.brec ad.brec)).lane .read imageSize 128 ad.idx ad.imm.toInt ln (t.lane x.q ln)
    let l := s.launchOf t
    let (keys, absent, fail, s) := s.imagePages t.core l.world l.asid la.addr
    if !absent.isEmpty then s.parkAt x l.asid .load (absent.map fun va => (ln, la.addr, va))
    else match fail with
      | some (f, _) =>
        let go := x.lanes.filter fun l => !x.act.contains l
        ((s.issued x go).advance x go i.len).raise x.key x.q x.pc [{ ln, c := f.1, addr := la.addr, detail := f.2 }]
          (own := s.inHandler x.key)
      | none =>
        if s.storesOut x.key x.q ln then s
        else
          let f : Fill := { sq := x.q, pc := x.pc, ing := if ing then some slot.toNat else none, va := la.addr, keys, fmt := wf
                            desc := codeDesc t wf, hnd := s.inHandler x.key, after := s.storesOf t.core }
          let s := (s.issued x x.lanes).advance x x.lanes i.len
          (s.askOver fun r => r.agent == agentNum .fill t.core).setEngine t.core { (s.core t.core).engine with fill := some f })

/-- A line read at its home slice for a fill (R43, R44, R220): its bytes, or the cause with its detail (R242). -/
def State.fillLine (s : State) (w : World) (f : Fill) (key : Nat) (res : FabricRes) : Except Fail (List Byte) :=
  let m := s.line key
  let own : Option Fail :=
    if isLocal key then
      if !s.admits w key then some (.world, 1)
      else if m.poison then some (.poison, 0)
      else if !s.halfOk key || !s.halfOk (key + 64) then some (.integrity, 1)
      else none
    else if isRemote key then failOf res
    else none
  match own, f.ing with
  | some c, _ => .error c
  | none, none => if isLocal key && m.ingot then .error (.ingotAccess, 0) else .ok (s.read key 128)
  | none, some slot =>
    if !(isLocal key && m.ingot) then .error (.ingotPolicy, 0)
    else match s.slots.find slot with
      | none => .error (.ingotPolicy, 0)
      | some k =>
        match k.lineIndex key with
        | none => .error (.ingotPolicy, 0)
        | some n =>
          let ks := ingotKeys k.key
          .ok (xtsDec ks.1 ks.2 n (s.read key 128))

/-- The lines of an image, by the keys of its pages. -/
def Fill.lines (f : Fill) : List Nat :=
  ((pagesOf f.va.toNat imageSize).zip f.keys).flatMap fun p => linesOf p.2 p.1.2

/-- The read of a line of an image for an agent (R20, R31). -/
def linePart (unit k : Nat) : AgentPart := { key := k, n := 128, op := .load 128, scope := 3, unit }

/-- Read every line of an image, up to the first failure, with the answers to the agent where it lies in another device. -/
def State.fillBytes (s : State) (agent unit : Nat) (l : Launch) (f : Fill) : List Nat → Except Fail (List (List Byte))
  | [] => .ok []
  | k :: ks =>
    match s.fillLine l.world f k ((s.answerTo agent (linePart unit k)).getD .ok) with
    | .error e => .error e
    | .ok bs => match s.fillBytes agent unit l f ks with | .error e => .error e | .ok r => .ok (bs :: r)

/-- Read an image for an agent, as one of its accesses (R220): none while lines of another device are awaited, or where lines of the host are discarded, to be read
again (R29). -/
def State.fillImage (s : State) (agent unit : Nat) (l : Launch) (f : Fill) : Option (Except Fail (List (List Byte))) × State :=
  match s.linkFail (f.lines.map fun k => (k, 128)) with
  | some s => (none, s)
  | none =>
    match s.agentAwait agent l.world l.asid (f.lines.map (linePart unit)) with
    | (false, s) => (none, s)
    | (true, s) => (some (s.fillBytes agent unit l f f.lines), s.agentTaken agent (f.lines.map (linePart unit)))

/-- What a fill follows is done (R176): the stores its core had accepted before it have performed. -/
def State.fillReady (s : State) (f : Fill) : Bool := !f.after.any fun k => (s.flights.find k).any Flight.pending

/-- ECC errors of a core's planes are gone where a plane is written or zeroed. -/
def State.mendPlane (s : State) (core : Nat) (shadow : Bool) : State :=
  { s with ecc := s.ecc.filter fun e => e != .plane core shadow }

/-- `MLOADW_FILL` (R220): the accepted fill ends, in the shadow plane or with a cause in the issuing squad. Lines of other devices are asked for
first, and the step answers with its outcome those that have none (log 56, DESIGN CHOICE). -/
def execMloadwFill (res : FabricRes) (s : State) : Out3 :=
  let c := s.who
  let e := (s.core c).engine
  .next (match e.fill, e.owner with
    | some f, some key =>
      let l := s.launchOf (s.tm key)
      if !s.fillReady f then s
      else match (s.answerUnit (agentNum .fill c) 0 res).fillImage (agentNum .fill c) 0 l f with
      | (none, s) => s
      | (some (.error e1), s) =>
        let s := (s.setEngine c { e with fill := none, shadow := {} }).mendPlane c true
        s.raise key f.sq f.pc [{ c := e1.1, addr := f.va, detail := e1.2 }] (own := f.hnd)
      | (some (.ok bss), s) =>
        let src : PlaneSrc := match f.ing with | some k => .ingot k f.va l.asid f.pc f.sq | none => .memory
        (s.setEngine c { e with fill := none, shadow := { image := Map.sparse 0 0 bss.flatten, fmt := f.fmt, desc := f.desc, src } }).mendPlane c true
    | _, _ => s)

/-- The queue has room (R213). -/
def Engine.room (e : Engine) : Bool := decide (e.queue.length < 8)

/-- `MSWAP` (R222): accepted into the queue. -/
def execMswap (h : Hd) (s : State) : Out3 :=
  let i : Instr := .mswap h
  .next (s.engineIssue i Engine.room (fun _ _ _ => []) fun s x _ =>
    let s := (s.issued x x.lanes).advance x x.lanes i.len
    let c := (s.tm x.key).core
    let e := (s.core c).engine
    s.setEngine c { e with queue := e.queue ++ [.mswap x.q] })

/-- `MSWAP_EXECUTE` (R222): the swap at the head of the queue takes effect. -/
def execMswapExecute (s : State) : Out3 :=
  let c := s.who
  let e := (s.core c).engine
  let swapEcc (x : EccSite) : EccSite := match x with | .plane k b => if k = c then .plane k !b else x | _ => x
  .next (match e.queue, e.started, e.suspect with
    | .mswap _ :: q, none, none =>
      { s.setEngine c { e with queue := q, active := e.shadow, shadow := e.active } with ecc := s.ecc.map swapEcc }
    | _, _, _ => s)

/-- The accumulator's tag (R217). -/
def accTag (acc : BitVec 2) : Tag := match acc.toNat with | 0 => 4 | 1 => 5 | _ => 3
/-- The accumulator's format. -/
def accFloat (acc : BitVec 2) : Float.Fmt := match acc.toNat with | 0 => Float.f16 | 1 => Float.bf16 | _ => Float.f32

/-- The causes of `MMA` at issue (R223). -/
def Team.mmaHits (t : Team) (wf af : BitVec 5) (a c : BitVec 6) (acc : BitVec 2) (ln : Nat) : List Hit :=
  let bits (f : BitVec 5) : Nat := elemBits f (codeDesc t f)
  let bad := codeInvalid t wf || codeInvalid t af || bits wf != bits af || (bits af == 16 && acc != 2)
  let ok := codeTagOk af (t.tile a.toNat).tag && t.tagsIn c (if acc = 2 then 2 else 1) fun g => g == 0 || g == accTag acc
  (if bad then [{ ln, c := .reservedField }] else []) ++ (if ok then [] else [{ ln, c := .tagMismatch }])

/-- `MMA` (R223): accepted into the queue. -/
def execMma (h : Hd) (wf : BitVec 5) (d a c : BitVec 6) (af : BitVec 5) (acc : BitVec 2) (p : Bool) (s : State) : Out3 :=
  let i : Instr := .mma h wf d a c af acc p
  .next (s.engineIssue i Engine.room (fun s x ln => (s.tm x.key).mmaHits wf af a c acc ln) fun s x _ =>
    let t := s.tm x.key
    let op : EngineOp := .mma x.q x.pc d a c af wf acc p (codeDesc t af) (s.inHandler x.key)
    let s := (s.issued x x.lanes).advance x x.lanes i.len
    let e := (s.core t.core).engine
    s.setEngine t.core { e with queue := e.queue ++ [op] })

/-- The operands of a matrix operation as values (R215 to R217): activations and weights times their scales, incoming
accumulators, the pass length, and whether both formats are integers. -/
structure MmaView where
  k : Nat
  ints : Bool
  a : Array XNum
  w : Array XNum
  c : Array XNum

/-- The pass length of a class (R215). -/
def passLen (bits : Nat) : Nat := if bits = 4 then 512 else if bits = 8 then 256 else 128

/-- An activation element of a pass, times its scale (R217). -/
def activation (af : BitVec 5) (desc : Word) (p : Nat) (b sc : Array Byte) (i k : Nat) : XNum :=
  let bits := elemBits af desc
  let raw := if bits = 16 then cellAt b i (128 * p + k) else narrowAt bits b i (passLen bits * p + k)
  scaleBy (sc.getD (32 * i + 16 * p + k / 32) 127).toNat (elemVal af desc raw)

/-- A weight element, times its scale (R216). -/
def weight (wf : BitVec 5) (desc : Word) (img : Array Byte) (k j : Nat) : XNum :=
  let bits := elemBits wf desc
  let at_ (n : Nat) : Nat := (img.getD n 0).toNat
  let raw := if bits = 16 then at_ (512 * k + 2 * j) + 256 * at_ (512 * k + 2 * j + 1)
    else if bits = 4 then at_ (128 * k + j / 2) / (if j % 2 = 0 then 1 else 16) % 16 else at_ (256 * k + j)
  scaleBy (at_ (0x10000 + 256 * (k / 32) + j)) (elemVal wf desc raw)

/-- The values that a started operation works on. -/
def Started.view (st : Started) : Option MmaView :=
  match st.op with
  | .mma _ _ _ _ _ af wf acc p desc _ =>
    let n := passLen (elemBits af desc)
    let b := st.ta.bytes
    let sc := st.ta.scaleBytes
    let img := (Map.dense 0 0 imageSize st.plane.image).toArray
    let lo := st.tc.bytes
    let hi := st.tc1.bytes
    some {
      k := n
      ints := (elemInt af).isSome && (elemInt wf).isSome
      a := ((List.range (16 * n)).map fun x => activation af desc p.toNat b sc (x / n) (x % n)).toArray
      w := ((List.range (256 * n)).map fun x => weight wf st.plane.desc img (x / 256) (x % 256)).toArray
      c := ((List.range 4096).map fun x => (accFloat acc).decode (accAt (acc == 2) lo hi (x / 256) (x % 256))).toArray }
  | .mswap _ => none

/-- A value of a view. -/
def xat (v : Array XNum) (k : Nat) : XNum := v.getD k (.fin false 0 0)

/-- The rounded element (i, j) (R147, R224). -/
def MmaView.elem (v : MmaView) (f : Float.Fmt) (i j : Nat) : Nat :=
  let ts := (List.range v.k).map fun k => (Float.prod v.ints (xat v.a (v.k * i + k)) (xat v.w (256 * k + j))).1
  (f.round .rn false (Float.sum (xat v.c (256 * i + j)) ts).1).1

/-- Every rounded element, in order of rows. -/
def MmaView.out (v : MmaView) (f : Float.Fmt) : List Nat := (List.range 4096).map fun x => v.elem f (x / 256) (x % 256)

/-- The exact sum of values. -/
def exactSum (ts : List XNum) : XNum := (Float.sum (.fin false 0 0) ts).1

/-- The magnitude of a value. -/
def absX (x : XNum) : XNum := match x with | .nan s => .nan s | .inf _ => .inf false | .fin _ m e => .fin false m e

/-- The exponent of the ulp of a magnitude in a format (R225). -/
def ulpExp (f : Float.Fmt) (m : XNum) : Int :=
  match m with
  | .fin _ n e => (if n = 0 then f.emin else max (Float.ilog2 n e) f.emin) - f.mb
  | _ => 0

/-- A row or a column fails the assay (R225): unchecked where a value or a term is not finite. -/
def assayBad (f : Float.Fmt) (tol : Nat) (outs : List XNum) (ref : XNum) : Bool :=
  let got := exactSum outs
  let m := outs.foldl (fun m x => if Float.lt m (absX x) then absX x else m) (.fin false 0 0)
  match outs.all (fun x => match x with | .fin .. => true | _ => false), ref with
  | true, .fin .. =>
    Float.lt (.fin false tol (ulpExp f m - 1)) (absX (Float.add false got (Float.negate ref)).1)
  | _, _ => false

/-- The sums over the columns of the weights, and over the rows of the activations (R220, R225). -/
def MmaView.sums (v : MmaView) : Array XNum × Array XNum :=
  (((List.range v.k).map fun k => exactSum ((List.range 256).map fun j => xat v.w (256 * k + j))).toArray,
   ((List.range v.k).map fun k => exactSum ((List.range 16).map fun i => xat v.a (v.k * i + k))).toArray)

/-- Row i fails the assay. -/
def MmaView.rowBad (v : MmaView) (f : Float.Fmt) (tol : Nat) (wsum : Array XNum) (out : Array Nat) (i : Nat) : Bool :=
  let ref := exactSum (((List.range 256).map fun j => xat v.c (256 * i + j))
    ++ (List.range v.k).map fun k => (Float.mul (xat v.a (v.k * i + k)) (xat wsum k)).1)
  assayBad f tol ((List.range 256).map fun j => f.decode (out.getD (256 * i + j) 0)) ref

/-- Column j fails the assay. -/
def MmaView.colBad (v : MmaView) (f : Float.Fmt) (tol : Nat) (asum : Array XNum) (out : Array Nat) (j : Nat) : Bool :=
  let ref := exactSum (((List.range 16).map fun i => xat v.c (256 * i + j))
    ++ (List.range v.k).map fun k => (Float.mul (xat asum k) (xat v.w (256 * k + j))).1)
  assayBad f tol ((List.range 16).map fun i => f.decode (out.getD (256 * i + j) 0)) ref

/-- The mismatch sets of a result (R225). -/
def MmaView.assay (v : MmaView) (f : Float.Fmt) (tolr tolc : Nat) (out : List Nat) : BitVec 16 × BitVec 256 :=
  let (ws, as) := v.sums
  let o := out.toArray
  ((List.range 16).foldl (fun w i => if v.rowBad f tolr ws o i then w ||| (1#16 <<< i) else w) 0,
   (List.range 256).foldl (fun w j => if v.colBad f tolc as o j then w ||| (1#256 <<< j) else w) 0)

/-- The tolerances of an accumulator as they stand (R226). -/
def State.tols (s : State) (acc : BitVec 2) : Nat × Nat := (s.asytolr.getD acc.toNat 256, s.asytolc.getD acc.toNat 16)

/-- An operation reads a word of 64 bits of a tile (R122, R217): of its activations the pass and the pass's scales, of its accumulator
the data. -/
def EngineOp.readsWord (op : EngineOp) (n w : Nat) : Bool :=
  match op with
  | .mma _ _ _ ta tc af _ acc p desc _ =>
    (ta.toNat == n && (if w < 1024 then w % 64 / 32 == p.toNat
        else (w - 1024) % 4 / 2 == p.toNat && decide ((w - 1024) % 2 * 8 < passLen (elemBits af desc) / 32)))
      || (tilesHave (tileAcc tc acc) n && decide (w < 1024))
  | .mswap _ => false

/-- The words that an operation reads of its team's tiles have an ECC error (R122). -/
def State.tileEcc (s : State) (key : Nat) (op : EngineOp) : Bool :=
  s.ecc.any fun e => match e with
    | .tile k n w => k == key && op.readsWord n w
    | _ => false

/-- An operation with its operands as they stand now (log 43, DEDUCED). -/
def State.start (s : State) (key c : Nat) (op : EngineOp) : Started :=
  let t := s.tm key
  let tile (n : Nat) : Tile := t.tile n
  match op with
  | .mma _ _ _ ta tc .. =>
    { op, ta := tile ta.toNat, tc := tile tc.toNat, tc1 := tile (tc.toNat + 1), plane := (s.core c).engine.active }
  | .mswap _ => { op, ta := {}, tc := {}, tc1 := {}, plane := {} }

/-- `MMA_START` (R224): the operation at the head of the queue starts, or ends with a cause (log 43, DEDUCED). -/
def execMmaStart (s : State) : Out3 :=
  let c := s.who
  let e := (s.core c).engine
  .next (match e.owner, e.queue, e.started, e.suspect with
    | some key, op :: q, none, none =>
      match op with
      | .mswap _ => s
      | .mma sq pc _ _ _ af wf _ _ desc hnd =>
        let s1 := s.setEngine c { e with queue := q }
        if e.active.fmt != wf || elemBits e.active.fmt e.active.desc != elemBits af desc then
          s1.raise key sq pc [{ c := .tagMismatch }] (own := hnd)
        else if s.tileEcc key op || s.ecc.contains (.plane c false) then
          s1.raise key sq pc [{ c := .integrity, detail := 2 }] (own := hnd)
        else s.setEngine c { e with queue := q, started := some (s.start key c op) }
    | _, _, _, _ => s)

/-- A word holds injections for a core (R237). -/
def injects (v : Dword) (c : Nat) : Bool :=
  let k := (v.extractLsb' 46 10).toNat
  v.getLsbD 63 && (k == 1023 || k == c)

/-- The injection registers act on the result of a drain (R237): the registers after, and the result. -/
def inject (c width : Nat) (vs : List Dword) (out : List Nat) : List Dword × List Nat :=
  vs.foldl (fun acc v =>
    if !injects v c then (acc.1 ++ [v], acc.2)
    else if v.extractLsb' 56 7 != 0 then (acc.1 ++ [v - (1#64 <<< 56)], acc.2)
    else
      let n := 256 * (v.extractLsb' 42 4).toNat + (v.extractLsb' 34 8).toNat
      let mask := (v.extractLsb' 0 32).toNat % 2 ^ width
      (acc.1 ++ [v &&& ~~~(1#64 <<< 63)], acc.2.set n (Nat.xor (acc.2.getD n 0) mask))) ([], out)

/-- The tiles of an operation take its result and tag and keep their scales (R224, R231). -/
def Team.commit (t : Team) (op : EngineOp) (out : List Nat) : Team :=
  match op with
  | .mma _ _ td _ _ _ _ acc .. =>
    let keep (u : Team) (n : Nat) : Team := u.setTile n { u.tile n with scales := (t.tile n).scales }
    keep (keep (t.setAcc td (acc == 2) (accTag acc) out) td.toNat) (td.toNat + 1)
  | .mswap _ => t

/-- An operation of a team writes its result (R224), whole words of its tiles (R122). -/
def State.commit (s : State) (key : Nat) (op : EngineOp) (out : List Nat) : State :=
  let s := s.onTm key fun t => t.commit op out
  { s with ecc := s.ecc.filter fun y => match y with
      | .tile k n w => !(k == key && tilesHave op.writes n && decide (w < 1024))
      | _ => true }

/-- The accumulator code of an operation. -/
def EngineOp.acc : EngineOp → BitVec 2 | .mma _ _ _ _ _ _ _ acc .. => acc | .mswap _ => 0

/-- `MMA_DRAIN` (R225, R228, R237): injections apply, the assay decides, and the result is written or held as suspect. -/
def execMmaDrain (s : State) : Out3 :=
  let c := s.who
  let e := (s.core c).engine
  .next (match e.owner, e.started with
    | some key, some st =>
      match st.op, st.view with
      | .mma sq pc _ _ _ _ _ acc _ _ hnd, some v =>
        let f := accFloat acc
        let (regs, out) := inject c f.width s.asyinj (v.out f)
        let (rows, cols) := v.assay f (s.tols acc).1 (s.tols acc).2 out
        let s := { s with asyinj := regs }
        if rows = 0 ∧ cols = 0 then
          (s.setEngine c { e with started := none }).commit key st.op out
        else
          let x : Suspect := { op := st.op, out := Map.sparse 0 0 (out.map fun n => BitVec.ofNat 32 n), rows, cols
                               lost := match e.active.src with | .empty => true | _ => false }
          let s := s.setEngine c { e with started := none, suspect := some x }
          let s := { s with ecc := s.ecc.filter fun y => y != EccSite.suspect c }
          s.raise key sq pc [{ c := .assay }] (own := hnd)
      | _, _ => s
    | _, _ => s)

/-- The suspect result of a team, with its core (R214: a team without the engine finds none). -/
def State.suspectOf (s : State) (key : Nat) : Option Suspect :=
  let e := (s.core (s.tm key).core).engine
  if e.owner = some key then e.suspect else none

/-- The operation's plane is lost (R236). -/
def State.planeLost (s : State) (key : Nat) (x : Suspect) : Bool :=
  x.lost || (match (s.core (s.tm key).core).engine.active.src with | .empty => true | _ => false)

/-- The suspect buffer has an ECC error (R213). -/
def State.suspectEcc (s : State) (key : Nat) : Bool :=
  (s.suspectOf key).isSome && s.ecc.contains (.suspect (s.tm key).core)

/-- The storage that resolving a suspect result reads has an ECC error (R213): nothing is read where the operands are lost, and no operand where
the result is not `used` (R231, R232). -/
def State.resolveEcc (s : State) (key : Nat) (used : Suspect → Bool) : Bool :=
  match s.suspectOf key with
  | none => false
  | some x => !s.planeLost key x
      && (s.suspectEcc key || (used x && (s.tileEcc key x.op || s.ecc.contains (.plane (s.tm key).core false))))

/-- An instruction on the suspect result (R229): once for the convoy, its words into every active lane. -/
def State.suspectOp (s : State) (i : Instr) (d : Option (BitVec 8)) (ecc : State → Nat → Bool) (f : State → Nat → List Word × State) : State :=
  s.once i (fun s x ln => if ecc s x.key then [{ ln, c := .integrity, detail := 2 }] else [])
    fun s x _ =>
      let (ws, s) := f s x.key
      match d with
      | none => s
      | some d => s.onTm x.key fun t => t.mapLanes x.q x.act fun _ th => th.setGroup d ws

/-- The suspect state is resolved: the locks are released (R228). -/
def State.resolve (s : State) (key : Nat) : State :=
  let c := (s.tm key).core
  let e := (s.core c).engine
  let s := s.setEngine c { e with suspect := none }
  { s with ecc := s.ecc.filter fun y => y != EccSite.suspect c }

/-- The number of columns of a set. -/
def countCols (w : BitVec 256) : Nat := ((List.range 256).filter fun k => w.getLsbD k).length

/-- `MLOCATE` (R230). -/
def execMlocate (h : Hd) (d : BitVec 8) (s : State) : Out3 :=
  .next (s.suspectOp (.mlocate h d) (some d) State.suspectEcc fun s key =>
    match s.suspectOf key with
    | none => (List.replicate 9 0, s)
    | some x =>
      (BitVec.ofNat 32 (countCols x.cols * 65536 + x.rows.toNat) :: (List.range 8).map fun k => x.cols.extractLsb' (32 * k) 32, s))

/-- The rounded elements of a suspect result. -/
def Suspect.list (x : Suspect) : List Nat := (Map.dense 0 0 4096 x.out).map BitVec.toNat

/-- The single element that both sets name. -/
def Suspect.single (x : Suspect) : Option (Nat × Nat) :=
  match (List.range 16).filter fun i => x.rows.getLsbD i, (List.range 256).filter fun j => x.cols.getLsbD j with
  | [i], [j] => some (i, j)
  | _, _ => none

/-- `MCORRECT` (R231). -/
def execMcorrect (h : Hd) (d : BitVec 8) (s : State) : Out3 :=
  .next (s.suspectOp (.mcorrect h d) (some d) (·.resolveEcc · fun x => x.single.isSome) fun s key =>
    match s.suspectOf key with
    | none => ([3], s)
    | some x =>
      if s.planeLost key x then ([4], s)
      else match x.single, (s.start key (s.tm key).core x.op).view with
        | some (i, j), some v =>
          let f := accFloat x.op.acc
          let out := x.list.set (256 * i + j) (v.elem f i j)
          let (tr, tc) := s.tols x.op.acc
          let (ws, as) := v.sums
          if v.rowBad f tr ws out.toArray i || v.colBad f tc as out.toArray j then ([2], s)
          else ([0], (s.resolve key).commit key x.op out)
        | _, _ => ([1], s))

/-- `MRETRY` (R232). -/
def execMretry (h : Hd) (d : BitVec 8) (s : State) : Out3 :=
  .next (s.suspectOp (.mretry h d) (some d) (·.resolveEcc · fun _ => true) fun s key =>
    match s.suspectOf key with
    | none => ([3], s)
    | some x =>
      if s.planeLost key x then ([4], s)
      else match (s.start key (s.tm key).core x.op).view with
        | none => ([1], s)
        | some v =>
          let f := accFloat x.op.acc
          let out := v.out f
          let (tr, tc) := s.tols x.op.acc
          let (rows, cols) := v.assay f tr tc out
          if rows = 0 ∧ cols = 0 then ([0], (s.resolve key).commit key x.op out)
          else
            let c := (s.tm key).core
            let x := { x with rows, cols, out := Map.sparse 0 0 (out.map fun n => BitVec.ofNat 32 n) }
            ([1], s.setEngine c { (s.core c).engine with suspect := some x }))

/-- `MDISCARD` (R233). -/
def execMdiscard (h : Hd) (s : State) : Out3 :=
  .next (s.suspectOp (.mdiscard h) none (fun _ _ => false) fun s key => ([], if (s.suspectOf key).isSome then s.resolve key else s))

/-- The code, ingot mark and slot of a plane as `MSTAT` shows them (R234). -/
def Plane.stat (p : Plane) : Nat :=
  p.fmt.toNat * 128 + (match p.src with | .ingot k .. => 64 + k | _ => 0)

/-- The words of `MSTAT` (R234). -/
def State.mstatWords (s : State) (key : Nat) : List Word :=
  let e := (s.core (s.tm key).core).engine
  if e.owner = some key then
    let (acc, ops, pc) : Nat × Nat × Dword := match e.suspect.map fun x => x.op with
      | some (EngineOp.mma _ pc td ta tc _ _ acc p _ _) =>
        (acc.toNat, td.toNat + ta.toNat * 2 ^ 8 + tc.toNat * 2 ^ 16 + p.toNat * 2 ^ 24, pc)
      | _ => (0, 0, 0)
    [BitVec.ofNat 32 (e.suspect.isSome.toNat * 2 ^ 31 + 2 ^ 30 + e.active.stat * 2 ^ 18 + e.shadow.stat * 2 ^ 6 + acc * 2 ^ 4
        + e.queue.length % 16),
      BitVec.ofNat 32 ops, pc.setWidth 32, (pc >>> 32).setWidth 32]
  else [BitVec.ofNat 32 (31 * 2 ^ 25 + 31 * 2 ^ 13), 0, 0, 0]

/-- `MSTAT` (R234). -/
def execMstat (h : Hd) (d : BitVec 8) (s : State) : Out3 :=
  .next (s.suspectOp (.mstat h d) (some d) State.suspectEcc fun s key => (s.mstatWords key, s))

/-- The engine is released (R214): both planes, the suspect buffer and the queue are emptied. -/
def State.releaseEngine (s : State) (c : Nat) : State :=
  let s := s.setEngine c {}
  { s with ecc := s.ecc.filter fun (y : EccSite) => match y with | .plane k _ => k != c | .suspect k => k != c | _ => true }

/-- The planes of a launch's teams that an ingot filled become empty (R236). -/
def State.revokePlanes (s : State) (launch : Nat) : State :=
  let clean (p : Plane) : Plane := match p.src with | .ingot .. => {} | _ => p
  s.teams.foldl (fun s (key, t) =>
    let e := (s.core t.core).engine
    if t.launch == launch && e.owner == some key then
      let lost (p : Plane) : Bool := match p.src with | .ingot .. => true | _ => false
      let s := if lost e.active then s.mendPlane t.core false else s
      let s := if lost e.shadow then s.mendPlane t.core true else s
      s.setEngine t.core { e with active := clean e.active, shadow := clean e.shadow
                                  suspect := e.suspect.map fun x => { x with lost := x.lost || lost e.active } }
    else s) s

end Sys2Proof.Machine
end

