-- ==== Sys2Proof/Machine/Launching.lean ====
section
/-!
DEFINITION. The launch dispatchers (R76 to R93): launch records, the start of a launch, reserved room, placement, teams from
bins, retirement, events and completion.
-/
namespace Sys2Proof.Machine

/-- An event descriptor, or none where it breaks a limit (R80). -/
def eventForm (d : List Byte) : Option EventDesc :=
  let addr := fieldAt d 0 8
  let scope := fieldAt d 8 1
  let intr := fieldAt d 9 1
  if addr % 8 = 0 ∧ zeroAt d 12 4 ∧ (addr = 0 ∨ (3 ≤ scope ∧ scope ≤ 5 ∧ intr ≤ 1)) then
    some { addr := BitVec.ofNat 64 addr, scope, intr := intr % 2 == 1, vector := fieldAt d 10 2 }
  else none

/-- Stage descriptor s of n, or none where it breaks a limit (R79). -/
def stageForm (d : List Byte) (s n teamSq scratch : Nat) : Option StageDesc :=
  let entry := fieldAt d 0 8
  let base := fieldAt d 8 8
  let log := fieldAt d 16 1
  let size := fieldAt d 17 1
  let co := fieldAt d 18 2
  let age := fieldAt d 20 2
  let fl := fieldAt d 22 1
  let bin : Bool := if s = 0 then base == 0 && log == 0 && size == 0 && co == 0 && age == 0
    else 4 ≤ log && log ≤ 24 && 1 ≤ size && size ≤ 16 && 1 ≤ co && co ≤ 32 * teamSq && base % (2 ^ log * size * 16) == 0
  if entry % 4 = 0 ∧ entry ≠ 0 ∧ bin ∧ fl ≤ 1 ∧ (fl = 0 ∨ s + 1 < n) ∧ zeroAt d 23 9 ∧ zeroAt d 48 16
      ∧ co * size * 16 ≤ scratch * 4096 then
    (eventForm ((d.drop 32).take 16)).map fun ev =>
      { entry := BitVec.ofNat 64 entry, binBase := BitVec.ofNat 64 base, binLog := log, recSize := size, coalesce := co, age
        spawns := fl == 1, ev }
  else none

/-- The number of stages that a header gives, where it is in range (R78). -/
def stagesOf (d : List Byte) : Option Nat := let n := fieldAt d 2 1; if 1 ≤ n ∧ n ≤ 16 then some n else none

/-- The limits of a header (R78). -/
def headerOk (d : List Byte) (r : LaunchRec) (cores : Nat) : Bool :=
  fieldAt d 0 2 == 1 && fieldAt d 3 1 ≤ 1 && 1 ≤ r.teamSq && r.teamSq ≤ 32 && 1 ≤ r.enTeams && r.enTeams ≤ 16 && 1 ≤ r.regs
    && r.regs ≤ 32 && r.tiles ≤ 64 && r.scratch ≤ 256 && 1 ≤ r.nbar && r.nbar ≤ 16 && r.wmark ≤ 15
    && r.producers.toNat < 2 ^ r.teamSq && r.handler.toNat % 4 == 0 && 1 ≤ r.gridx && 1 ≤ r.gridy && 1 ≤ r.gridz
    && r.gridx * r.gridy * r.gridz ≤ 2 ^ 32 && r.argSize ≤ 65536 && zeroAt d 0x48 56
    && 32 * r.teamSq * (8 * r.regs) ≤ 131072 && r.enTeams ≤ cores

/-- A launch record, or none where it breaks a limit (R78, R79); `cores` is the number of unfenced cores of the cluster that has
the most. -/
def recordForm (d : List Byte) (cores : Nat) : Option LaunchRec :=
  match stagesOf d, eventForm ((d.drop 0x28).take 16), eventForm ((d.drop 0x38).take 16) with
  | some n, some teamEv, some ensEv =>
    match (List.range n).mapM fun s => stageForm ((d.drop (0x80 + 0x40 * s)).take 64) s n (fieldAt d 4 1) (fieldAt d 8 2) with
    | none => none
    | some stages =>
      let r : LaunchRec :=
        { flat := fieldAt d 3 1 == 1, teamSq := fieldAt d 4 1, enTeams := fieldAt d 5 1, regs := fieldAt d 6 1
          tiles := fieldAt d 7 1, scratch := fieldAt d 8 2, nbar := fieldAt d 10 1, wmark := fieldAt d 11 1
          producers := BitVec.ofNat 32 (fieldAt d 12 4), handler := BitVec.ofNat 64 (fieldAt d 16 8)
          gridx := fieldAt d 0x18 4, gridy := fieldAt d 0x1C 4, gridz := fieldAt d 0x20 4, argSize := fieldAt d 0x24 4
          teamEv, ensEv, stages }
      if headerOk d r cores then some r else none
  | _, _, _ => none

/-- The unfenced cores of a cluster (R6). -/
def State.clusterCores (s : State) (c : Nat) : List Nat := ((List.range 16).map (16 * c + ·)).filter fun k => !(s.core k).fenced
/-- The unfenced cores of the cluster that has the most (R78). -/
def State.mostCores (s : State) : Nat := (List.range 32).foldl (fun m c => max m (s.clusterCores c).length) 0

/-- `LAUNCH` (R70, R77): the packet starts; the dispatcher reads and checks the record, or the queue stops after acceptance. -/
def execLaunch (s : State) : Out3 :=
  let n := s.who
  .next (match s.nextPacket n with
    | some (q, p) =>
      (match p.body with
        | .launch lrec args doneAddr doneAdd doneScope intr vector =>
          let rd (off len : Nat) (s : State) := s.agentRead (agentNum .packet n) q.world q.asid (lrec.toNat + off) len off
          let stop (code : Nat) (s : State) : State := s.stopQueue n code p.idx (some p.seq)
          match rd 0 0x80 s with
          | (.wait, s) => s
          | (.fail _, s) => stop 8 s
          | (.ok d, s) =>
            match stagesOf d with
            | none => stop 7 s
            | some k =>
              match rd 0x80 (0x40 * k) s with
              | (.wait, s) => s
              | (.fail _, s) => stop 8 s
              | (.ok r, s) =>
                match recordForm (d ++ r) s.mostCores with
                | none => stop 7 s
                | some hdr =>
                  let (key, s) := s.take
                  (s.startPacket n p true).setLaunch key
                    { queue := n, pkt := p.idx, fn := q.fn, asid := q.asid, world := q.world, prio := q.prio, disp := n % 2, lrec
                      args, doneAddr, doneAdd, doneScope, intr, vector, hdr, stages := hdr.stages.map fun _ => {}
                      rooms := k == 1 }
        | _ => s)
    | none => s)

/-- What a team reserves of a core (R83): squad slots, registers, tiles, scratchpad units, barriers. -/
def LaunchRec.need (r : LaunchRec) : List Nat := [r.teamSq, 256 * r.teamSq * r.regs, r.tiles, r.scratch, r.nbar]
/-- What a core holds (R83). -/
def coreHas : List Nat := [64, 131072, 64, 256, 256]
/-- Sum of two lists of resources. -/
def addNeed (a b : List Nat) : List Nat := (a.zip b).map fun p => p.1 + p.2
/-- What is in use on a core: by the teams on it that use no reserved room, those whose image is not yet whole (R107), and the room
reserved there (R83, R91; log 50, DEDUCED). -/
def State.coreUse (s : State) (k : Nat) : List Nat :=
  let ts := (s.teams.filter fun t => t.2.core == k && !t.2.reserved).map fun t => (s.launchOf t.2).hdr.need
  let held := (s.ctxs.filter fun c => c.2.phase == .freezing).flatMap fun c => (c.2.saved.filter fun v =>
    v.team.core == k && !v.team.reserved).map fun v => (s.launchOf v.team).hdr.need
  let rs := s.launches.flatMap fun l => (l.2.stages.filter fun g => g.room == some k).map fun _ => l.2.hdr.need
  (ts ++ held ++ rs).foldl addNeed [0, 0, 0, 0, 0]
/-- A team fits on a core. -/
def State.fits (s : State) (c : Nat) (r : LaunchRec) : Bool :=
  s.power == .d0 && !(s.core c).fenced && ((addNeed (s.coreUse c) r.need).zip coreHas).all fun p => p.1 ≤ p.2

/-- The squad slots in use in each quadrant of a core (R83, R84). -/
def State.quadUse (s : State) (k : Nat) : List Nat :=
  let held := (s.ctxs.filter fun c => c.2.phase == .freezing).flatMap fun c => c.2.saved.map (·.team)
  let qs := (((s.teams.map (·.2)) ++ held).filter fun t => t.core == k).flatMap fun t => t.squads.map (·.quad)
  (List.range 4).map fun q => qs.count q
/-- The quadrants that the squads of a team take in turn, each with the most free slots, the lowest-numbered on a tie (R84). -/
def takeQuads : Nat → List Nat → List Nat
  | 0, _ => []
  | n + 1, used =>
    let q := used.idxOf (used.foldl min 16)
    q :: takeQuads n (used.set q (used.getD q 0 + 1))

/-- A team takes its place on a core (R84): its squads take their slots, and its start acquires what its launch, its spawners and its own
past elsewhere have released (R87, R171, R181). -/
def State.seat (s : State) (key core : Nat) (t : Team) : State :=
  let qs := takeQuads t.squads.length (s.quadUse core)
  (s.acquire core 5).setTm key { t with core, squads := (t.squads.zip qs).map fun x => { x.1 with quad := x.2 } }

/-- The cores that an ensemble of n teams takes in a cluster (R84; log 47, DEDUCED). -/
def State.coresIn (s : State) (cl n : Nat) (r : LaunchRec) : Option (List Nat) :=
  let cs := ((s.clusterCores cl).filter fun c => s.fits c r).take n
  if cs.length = n then some cs else none
/-- The cluster and cores that an ensemble takes (R84): clusters are tried in ascending order, cyclically, after the last. -/
def State.findCores (s : State) (d n : Nat) (r : LaunchRec) : Option (Nat × List Nat) :=
  let first := match (s.disps.getD d {}).last with | some c => c + 1 | none => 0
  (List.range 32).findSome? fun k => let cl := (first + k) % 32; (s.coresIn cl n r).map fun cs => (cl, cs)

/-- The teams of stage 0 of a launch (R78). -/
def Launch.grid (l : Launch) : Nat := l.hdr.gridx * l.hdr.gridy * l.hdr.gridz
/-- The records of a bin that are inserted and not delivered, oldest first (R88). -/
def Stage.records (g : Stage) : List (Nat × Nat) := g.slots.filterMap fun x => match x.2 with | .inserted a => some (x.1, a) | _ => none
/-- Every lower stage is complete. -/
def Launch.lowerDone (l : Launch) (st : Nat) : Bool := (l.stages.take st).all (·.done)

/-- The high watermark of a bin (R90). -/
def Launch.mark (l : Launch) (st : Nat) : Nat :=
  2 ^ (l.hdr.stages.getD st {}).binLog * (if l.hdr.wmark = 0 then 12 else l.hdr.wmark) / 16
/-- The mode of a launch, evaluated at a placement decision (R90). -/
def Launch.mode (l : Launch) : Launch :=
  let bins := (List.range l.stages.length).filter (· != 0)
  let count (st : Nat) : Nat := (l.stages.getD st {}).records.length
  if l.deepest then { l with deepest := !(bins.all fun st => count st ≤ l.mark st / 2) }
  else { l with deepest := bins.any fun st => l.mark st < count st }

/-- A stage has work to place (R85, R88): an unplaced ensemble; a full team's records, an aged record, or the tail. -/
def Launch.ready (l : Launch) (st : Nat) : Bool :=
  if st = 0 then l.nextEn < l.grid
  else
    let g := l.stages.getD st {}
    let d := l.hdr.stages.getD st {}
    let n := g.records.length
    0 < n && (d.coalesce ≤ n || d.age == 0 || g.due || l.lowerDone st)

/-- The stages of a launch with ready work, in the order of its mode (R90). -/
def Launch.readyStages (l : Launch) : List Nat :=
  let xs := (List.range l.stages.length).filter l.ready
  if l.mode.deepest then xs.reverse else xs

/-- Ready work of a dispatcher in the order it considers it (R85): launch and stage. A context that is being pre-empted has none
(R101). -/
def State.items (s : State) (d : Nat) : List (Nat × Nat) :=
  let ls := s.launches.filter fun l => l.2.disp == d && (s.ctx l.2.ctx).phase == .running && !(s.ctx l.2.ctx).resuming
  (List.range 8).reverse.flatMap fun p => (ls.filter fun l => l.2.prio == p).flatMap fun l => l.2.readyStages.map fun st => (l.1, st)

/-- Claim reserved room for the record-driven stages of a launch that lack it, all together (R91). -/
def State.claimRooms (s : State) (key : Nat) : Option State :=
  let l := s.launch key
  let todo := (List.range l.stages.length).filter fun st => st != 0 && (l.stages.getD st {}).room.isNone
  let r := todo.foldl (fun (acc : Option State) st =>
    match acc with
    | none => none
    | some s =>
      match s.findCores l.disp 1 l.hdr with
      | some (_, c :: _) => some (s.setLaunch key ((s.launch key).onStage st fun g => { g with room := some c, roomUsed := false }))
      | _ => none) (some s)
  r.map fun s => s.setLaunch key { s.launch key with rooms := true }

/-- Where a team or ensemble goes: its cluster and cores, and whether they are its stage's reserved room. -/
structure Site where
  cluster : Nat
  cores : List Nat
  reserved : Bool := false

/-- Where an item can be placed (R84, R91); nowhere before the reserved room of its launch is claimed. -/
def State.placeOf (s : State) (d : Nat) (x : Nat × Nat) : Option Site :=
  let l := s.launch x.1
  let g := l.stages.getD x.2 {}
  let own : Option Site := match g.room with
    | some c =>
      if x.2 != 0 && !g.roomUsed && s.power == .d0 && !(s.core c).fenced then some { cluster := c / 16, cores := [c], reserved := true } else none
    | none => none
  if !l.rooms then none
  else own.or ((s.findCores d (if x.2 = 0 then l.hdr.enTeams else 1) l.hdr).map fun p => { cluster := p.1, cores := p.2 })

/-- The dispatcher can go on with an item: place it, or first claim the reserved room of its launch (R91). -/
def State.placeable (s : State) (d : Nat) (x : Nat × Nat) : Bool :=
  if (s.launch x.1).rooms then (s.placeOf d x).isSome else (s.claimRooms x.1).isSome

/-- The number of a blocked item. -/
def itemId (x : Nat × Nat) : Nat := 16 * x.1 + x.2

/-- The 10,000 ticks of a blocked item have passed (R85). -/
def Blocked.over (b : Blocked) (now : Nat) : Bool := b.stop || decide (b.since + 10000 ≤ now)

/-- Nothing later in the order than an item is placed before it (R85): its 10,000 ticks have passed, or it starts pre-emption. -/
def State.shut (s : State) (d : Nat) (x : Nat × Nat) : Bool :=
  (s.launch x.1).prio == 7 || (s.disps.getD d {}).blocked.any fun b => b.item == itemId x && b.over s.ticks

/-- The item that a dispatcher goes on with now (R85): the first that fits, where no blocked item before it keeps it from being placed. -/
def State.nextItem (s : State) (d : Nat) : Option (Nat × Nat) :=
  ((s.items d).find? fun x => s.placeable d x || s.shut d x).filter (s.placeable d)

/-- Note which items of a dispatcher are blocked, and since when (R85): the first, and those that were first when they became blocked and are
not placed yet, whatever has come before them since. -/
def State.noteBlocked (s : State) (d : Nat) : State :=
  let b := s.disps.getD d {}
  let stuck := ((s.items d).filter fun x => !s.placeable d x).map itemId
  let old := b.blocked.filter fun e => stuck.contains e.item
  let new : List Blocked := match s.items d with
    | x :: _ => if stuck.contains (itemId x) && !old.any fun e => e.item == itemId x then [{ item := itemId x, since := s.ticks }] else []
    | [] => []
  { s with disps := s.disps.set d { b with blocked := old ++ new } }

/-- `BLOCKED_ITEM_TIMEOUT` (R85). -/
def execBlockedItemTimeout (s : State) : Out3 :=
  let b := s.disps.getD s.who {}
  .next { s with disps := s.disps.set s.who { b with blocked := b.blocked.map fun e => { e with stop := e.over s.ticks } } }

/-- The record of `b0` at the start of a team (R81). -/
def firstRecord (l : Launch) : BitVec 256 :=
  let size := if l.args = 0 then 0 else l.hdr.argSize
  BitVec.ofNat 256 (l.args.toNat + size * 2 ^ 64 + 2 ^ 168)

/-- A team as it becomes resident (R81, R82; log 62, DESIGN CHOICE). -/
def Launch.team (l : Launch) (key st en tm nrec core ens : Nat) (reserved : Bool) : Team :=
  let g := l.hdr
  let xyz : Nat × Nat × Nat := if st = 0 then (en % g.gridx, en / g.gridx % g.gridy, en / g.gridx / g.gridy) else (en, 0, 0)
  { launch := key, stage := st, en, enx := xyz.1, eny := xyz.2.1, enz := xyz.2.2, tm, nrec, core, ens, reserved
    recs := Map.store 0 [] 0 (firstRecord l)
    bars := List.replicate g.nbar { expected := 32 * g.teamSq }
    squads := List.replicate g.teamSq {}
    threads := List.replicate (32 * g.teamSq) { pc := (g.stages.getD st {}).entry } }

/-- Place the teams of an ensemble on its cores. -/
def State.startTeams (s : State) (key st en nrec ens : Nat) (reserved : Bool) (slice : Map Byte) : Nat → List Nat → State
  | _, [] => s
  | tm, c :: cs =>
    let (k, s) := s.take
    (s.seat k c { (s.launch key).team key st en tm nrec c ens reserved with slice }).startTeams key st en nrec ens reserved slice (tm + 1) cs

/-- The contexts that hold a core of the device and may be pre-empted for a launch, in the order they are chosen (R100): no running
launch of PRIO 7; lowest PRIO, then the oldest first launch. -/
def State.victims (s : State) : List Nat :=
  let cs := (s.launches.map fun l => l.2.ctx).eraseDups
  let prio (c : Nat) : Nat := (s.ctxLaunches c).foldl (fun m l => max m l.2.prio) 0
  let may := cs.filter fun c => (s.ctx c).phase == .running && prio c < 7 && !(s.ctxTeams c).isEmpty
  (List.range 7).flatMap fun p => may.filter fun c => prio c == p

/-- The state without what contexts hold on cores. -/
def State.without (s : State) (cs : List Nat) : State :=
  { s with teams := s.teams.filter fun t => !cs.contains (s.launchOf t.2).ctx
           ctxs := s.ctxs.map fun x => (x.1, if cs.contains x.1 then { x.2 with saved := [] } else x.2)
           launches := s.launches.map fun l => (l.1, if cs.contains l.2.ctx then
             { l.2 with stages := l.2.stages.map fun g => { g with room := none } } else l.2) }

/-- Victims are added until what they hold covers the blocked item (R100). -/
def State.enough (s : State) (d : Nat) (x : Nat × Nat) : List Nat → List Nat → List Nat
  | got, [] => got
  | got, c :: cs => if (s.without got).placeable d x then got else s.enough d x (got ++ [c]) cs

/-- Draining begins (R101). -/
def State.drain (s : State) (c ms : Nat) (desc : Dword) (f : Ctx → Ctx) : State :=
  ((s.stopPlacing c).onCtx c fun x => f { x with phase := .draining, elapsed := 0, deadline := ms * 100000, desc }).checkDrained c

/-- A PRIO 7 launch whose ensembles cannot be placed pre-empts contexts of lower priority (R67, R100). Contexts already being
pre-empted count. -/
def State.preemptFor (s : State) (d : Nat) (x : Nat × Nat) : State :=
  let out := (s.ctxs.filter fun c => c.2.phase == .draining || c.2.phase == .freezing).map (·.1)
  let got := s.enough d x out s.victims
  (got.filter fun c => !out.contains c).foldl (fun s c =>
    s.drain c s.draindl 0 fun y => { y with victimOf := x.1 :: y.victimOf }) s

/-- A request of the other dispatcher for the same cluster is granted first (R76): it has the higher PRIO, or the turn at a tie (log 47, DEDUCED). -/
def State.tie (s : State) (d cl prio : Nat) : Option Bool :=
  let o := 1 - d
  match s.nextItem o with
  | none => none
  | some y =>
    match s.placeOf o y with
    | some g =>
      let p := (s.launch y.1).prio
      if g.cluster != cl || p < prio || s.agentBusy (agentNum .bin y.1) then none
      else if prio < p then some false
      else some ((s.ties.look false cl) == (d == 1))
    | none => none

/-- A cluster grants a dispatcher's request (R76, R84): its next search starts after it, and a tie alternates. -/
def State.grant (s : State) (d cl : Nat) (tied : Bool) : State :=
  { s with ties := if tied then s.ties.put cl (d == 0) else s.ties
           disps := s.disps.set d { s.disps.getD d {} with last := some cl } }

/-- `PLACEMENT_PASS` (R67, R76, R84, R85): the dispatcher places the next ensemble of stage 0 in its order, notes a blocked item, or
starts pre-emption for one of PRIO 7. -/
def execPlacementPass (s : State) : Out3 :=
  let d := s.who
  let s : State := { s with launches := s.launches.map fun l => (l.1, if l.2.disp == d then l.2.mode else l.2) }
  let s := s.noteBlocked d
  let s := match s.items d with
    | x :: _ => if !s.placeable d x && (s.launch x.1).prio == 7 then s.preemptFor d x else s
    | [] => s
  .next (match s.nextItem d with
    | some (key, 0) =>
      (match s.placeOf d (key, 0) with
        | some g =>
          let l := s.launch key
          let t := s.tie d g.cluster l.prio
          if t = some false then s
          else
            let (ens, s) := (s.grant d g.cluster t.isSome).take
            let l := { l with nextEn := l.nextEn + 1, enss := l.enss.put ens { stage := 0, en := l.nextEn, left := l.hdr.enTeams } }
            let l := l.onStage 0 fun g => { g with resident := g.resident + l.hdr.enTeams }
            (s.setLaunch key l).startTeams key 0 (l.nextEn - 1) 0 ens false [] 0 g.cores
        | none => s)
    | _ => s)

/-- `STAGE_ROOM_CLAIM` (R85, R91): in the dispatcher's order, before the next team of the launch. -/
def execStageRoomClaim (s : State) : Out3 :=
  let l := s.launch s.who
  .next (if l.rooms || (s.nextItem l.disp).map (·.1) != some s.who then s else (s.claimRooms s.who).getD s)

/-- `BIN_AGE_EXPIRY` (R88): the oldest record has waited for AGE · 100 ticks. -/
def execBinAgeExpiry (st : Nat) (s : State) : Out3 :=
  .next (match s.launches.find s.who with
    | none => s
    | some l =>
      match (l.stages.getD st {}).records with
      | (_, a) :: _ =>
        if (l.hdr.stages.getD st {}).age * 100 ≤ a then s.setLaunch s.who (l.onStage st fun g => { g with due := true }) else s
      | [] => s)

/-- The records of bin slots, as the dispatcher reads them (R89): the bytes, a failure with its address, or a wait. -/
def State.readBin (s : State) (key : Nat) (d : StageDesc) : List Nat → Agent (List Byte) × Nat × State
  | [] => (.ok [], 0, s)
  | k :: ks =>
    let l := s.launch key
    let va := slotAddr d k
    match s.agentRead (agentNum .bin key) l.world l.asid va (16 * d.recSize) with
    | (.wait, s) => (.wait, va, s)
    | (.fail f, s) => (.fail f, va, s)
    | (.ok bs, s) =>
      match s.readBin key d ks with
      | (.ok r, _, s) => (.ok (bs ++ r), 0, s)
      | r => r

/-- The records of bin slots, read once every request for them to other devices has its answer (R89; log 56, DESIGN CHOICE). -/
def State.readBins (s : State) (key : Nat) (d : StageDesc) (ks : List Nat) : Agent (List Byte) × Nat × State :=
  let l := s.launch key
  let agent := agentNum .bin key
  match s.agentKeys agent l.world l.asid .load (ks.flatMap fun k => pagesOf (slotAddr d k) (16 * d.recSize)) with
  | (.wait, s) => (.wait, 0, s)
  | (.fail _, s) => s.readBin key d ks
  | (.ok ps, s) =>
    match s.agentAwait agent l.world l.asid (ps.map fun p => { key := p.1, n := p.2, op := .load p.2 }) with
    | (true, s) => s.readBin key d ks
    | (false, s) => (.wait, 0, s)

/-- A team of a record-driven stage starts with records (R88, R89): their slots are freed. -/
def State.startBinTeam (s : State) (key st core : Nat) (room : Bool) (ks : List Nat) (slice : List Byte) : Nat × State :=
  let (ens, s) := s.take
  let l := s.launch key
  let g := l.stages.getD st {}
  let en := g.order % 2 ^ 32
  let l := { l with enss := l.enss.put ens { stage := st, en, left := 1 } }
  let l := l.onStage st fun g =>
    { g with order := g.order + 1, resident := g.resident + 1, due := false, roomUsed := g.roomUsed || room
             slots := g.slots.filter fun x => !ks.contains x.1 }
  let k := s.fresh
  (k, (s.setLaunch key l).startTeams key st en ks.length ens room (Map.storeBytes 0 [] 0 slice) 0 [core])

/-- `BIN_TEAM_LAUNCH` (R88, R89): a stage that is next in the order launches a team with its oldest records; where they cannot be
read, the team is killed before its first issue. -/
def execBinTeamLaunch (st : Nat) (s : State) : Out3 :=
  let key := s.who
  let l := s.launch key
  let d := l.disp
  .next (if s.nextItem d != some (key, st) || st == 0 then s
    else match s.placeOf d (key, st) with
      | some { cluster := cl, cores := c :: _, reserved } =>
        let g := l.stages.getD st {}
        let sd := l.hdr.stages.getD st {}
        let ks := (g.records.take sd.coalesce).map (·.1)
        let s := (s.setLaunch key l.mode).noteBlocked d
        let tie := s.tie d cl l.prio
        (if tie = some false then s else match s.readBins key sd ks with
          | (.wait, _, s) => s
          | (.ok bs, _, s) => ((s.grant d cl tie.isSome).startBinTeam key st c reserved ks bs).2
          | (.fail f, va, s) =>
            let (k, s) := (s.grant d cl tie.isSome).startBinTeam key st c reserved ks []
            let t := s.tm k
            let s := s.endTeam k
            s.log l.fn { (l.logRec 8) with stage := st, tm := 0, en := t.en, detail := BitVec.ofNat 32 f.1.bit, addr := BitVec.ofNat 64 va })
      | _ => s)

/-- Stages complete in order (R92), each with its event. -/
def Launch.completeStages (l : Launch) (en tm : Nat) : Launch :=
  (List.range l.stages.length).foldl (fun l st =>
    let g := l.stages.getD st {}
    let isOver := if st = 0 then l.retired == l.grid else l.lowerDone st && g.slots.isEmpty && g.resident == 0
    if g.done || !isOver then l
    else
      let l := l.onStage st fun g => { g with done := true }
      { l with events := l.events ++ [((l.hdr.stages.getD st {}).ev, st, tm, en)] }) l

/-- A team of a launch has retired (R92, R93): its event, its ensemble's, and those of the stages that complete (log 48, DEDUCED). -/
def Launch.retire (l : Launch) (ens : Nat) (st en tm : Nat) (reserved : Bool) : Launch :=
  let l := { l with events := l.events ++ [(l.hdr.teamEv, st, tm, en)] }
  let l := l.onStage st fun g => { g with resident := g.resident - 1, roomUsed := g.roomUsed && !reserved }
  let left := (l.enss.look { stage := st, en, left := 1 } ens).left - 1
  let l := if left = 0 then
      { l with enss := l.enss.del ens, events := l.events ++ [(l.hdr.ensEv, st, tm, en)]
               retired := if st = 0 then l.retired + 1 else l.retired }
    else { l with enss := l.enss.put ens { stage := st, en, left } }
  l.completeStages en tm

/-- Perform an event (R80): an atomic add of 1 with release, then the vector; a failure is logged as kind 6. False while it waits. -/
def State.event (s : State) (key : Nat) (e : EventDesc × Nat × Nat × Nat) : Bool × State :=
  let l := s.launch key
  let failed (s : State) : State := s.log l.fn { l.logRec 6 with stage := e.2.1, en := e.2.2.2, addr := e.1.addr }
  if e.1.addr = 0 then (true, s)
  else match s.agentRelease (agentNum .done key) l.ctx e.1.scope with
    | (none, s) => (false, s)
    | (some false, s) => (true, failed s)
    | (some true, s) =>
      match s.agentAdd (agentNum .done key) l.world l.asid e.1.addr.toNat 1 true e.1.scope with
      | (.wait, s) => (false, s)
      | (.fail _, s) => (true, failed s)
      | (.ok _, s) => (true, if e.1.intr then s.send (.msi l.fn e.1.vector) else s)

/-- Perform the events that a launch owes, each after the previous one (R93), as far as they go. -/
def State.pumpEvents (s : State) (key : Nat) : Nat → State
  | 0 => s
  | n + 1 =>
    match (s.launch key).events with
    | [] => s
    | e :: es =>
      match s.event key e with
      | (false, s) => s
      | (true, s) => (s.setLaunch key { s.launch key with events := es }).pumpEvents key n

/-- Perform what a launch owes. -/
def State.pump (s : State) (key : Nat) : State :=
  match s.launches.find key with | some l => s.pumpEvents key l.events.length | none => s

/-- A copy reads or writes the slice of a team. -/
def Copy.names (c : Copy) (key : Nat) : Bool := c.src.team == some key || c.dst.team == some key

/-- Nothing keeps a team from retiring (R92, R207, R253): its threads have ended, its engine operations have completed, its copies have
ended, and no other copy names its slice, one that a freeze has captured among them (R106, R212). -/
def State.mayRetire (s : State) (key : Nat) (t : Team) : Bool :=
  let e := (s.core t.core).engine
  t.ended && (e.owner != some key || (e.queue.isEmpty && e.started.isNone && e.fill.isNone))
    && !s.copies.any (fun c => c.2.team == key || c.2.names key)
    && !s.ctxs.any fun x => x.2.saved.any fun v => v.copies.any fun c => c.2.names key

/-- A team retires (R92, R214): its engine is released, its resources are free, and its events are owed. -/
def State.retireTeam (s : State) (key : Nat) (t : Team) : State :=
  let s := if (s.core t.core).engine.owner = some key then s.releaseEngine t.core else s
  let s : State := { s with teams := s.teams.del key, ecc := s.ecc.filter fun e => match e with
    | .vreg k .. | .pred k _ | .brec k _ | .fm k _ | .tile k .. | .slice k _ | .loop k .. => k != key
    | _ => true }
  let l := s.launch t.launch
  let s := (s.setLaunch t.launch (l.retire t.ens t.stage t.en t.tm t.reserved)).pump t.launch
  s.checkDrained l.ctx

/-- `TEAM_RETIRE` (R92, R93): a team retires; or a launch that waits performs the events it owes. -/
def execTeamRetire (s : State) : Out3 :=
  .next (match s.teams.find s.who with
    | some t => if s.mayRetire s.who t then s.retireTeam s.who t else s
    | none => s.pump s.who)

/-- `LAUNCH_COMPLETE` (R70, R92): every stage is complete and every event performed; the completion write, then the vector. -/
def execLaunchComplete (s : State) : Out3 :=
  let key := s.who
  let s := s.pump key
  .next (match s.launches.find key with
    | none => s
    | some l =>
      if !l.stages.all (·.done) || !l.events.isEmpty || l.stages.isEmpty then s
      else
        let finish (s : State) : State :=
          ({ s with launches := s.launches.del key }.packetDone l.queue l.pkt)
        let good (s : State) : State := (finish (if l.intr then s.send (.msi l.fn l.vector) else s)).evaluateAll
        let bad (s : State) : State :=
          let at_ := match s.queue? l.queue with | some q => q.rdidx | none => 0
          finish (s.stopQueue l.queue 8 at_ none)
        if l.doneAddr = 0 then good s
        else match s.agentRelease (agentNum .done key) l.ctx l.doneScope with
          | (none, s) => s
          | (some false, s) => bad s
          | (some true, s) =>
            match s.agentAdd (agentNum .done key) l.world l.asid l.doneAddr.toNat l.doneAdd true l.doneScope with
            | (.wait, s) => s
            | (.fail _, s) => bad s
            | (.ok _, s) => good s)

/-- `CORE_FENCE` (R6, R86): the core takes no ensembles; those that no cluster can now hold are counted as killed, and logged. A stage whose
reserved room lies there unused gives it up and goes on without (log 82, DESIGN CHOICE). -/
def execCoreFence (s : State) : Out3 :=
  let c := s.who
  .next (if 512 ≤ c then s
    else
      let s := s.setCore c { s.core c with fenced := true }
      let s : State := { s with launches := s.launches.map fun l =>
        (l.1, { l.2 with stages := l.2.stages.map fun g => if g.room == some c && !g.roomUsed then { g with room := none } else g }) }
      let most := s.mostCores
      (s.launches.filter fun l => most < l.2.hdr.enTeams && l.2.nextEn < l.2.grid).foldl (fun s x =>
        let l := s.launch x.1
        let n := l.grid - l.nextEn
        let l' := { l with nextEn := l.grid, retired := l.retired + n }.completeStages 0 0
        ((s.setLaunch x.1 l').log l.fn { l.logRec 5 with count := n }).pump x.1) s)

end Sys2Proof.Machine
end

