-- ==== Sys2Proof/Machine/Contexts.lean ====
section
/-!
DEFINITION. Pre-emption, freeze, resume and forced reset of contexts (R97 to R114). The context an event concerns is `who`; of a
command, the function.
-/
namespace Sys2Proof.Machine

/-- The freeze reserve (R108). -/
def reserveSize : Nat := 2304 * 2 ^ 20

/-- What a captured team adds to an image (R104). -/
def teamBound (r : LaunchRec) (engine : Bool) : Nat :=
  32 * r.teamSq * (64 * r.regs + 1024) + 8960 * r.tiles + 4096 * r.scratch + 49152 + (if engine then 192512 else 0)

/-- What a captured team may add to the image of its context. -/
def State.savedBound (s : State) (v : Saved) : Nat := teamBound (s.launchOf v.team).hdr v.engine.isSome
/-- The bound of the payload that captured teams and launches make (R104). -/
def State.boundOf (s : State) (c launches : Nat) : Nat := ((s.ctx c).saved.map s.savedBound).foldl (· + ·) (4096 + 8192 * launches)
/-- The launches of a context that stay until its freeze has ended: they are not complete, and none of their teams is still to be captured. -/
def State.heldLaunches (s : State) (c : Nat) : List (Nat × Launch) :=
  (s.ctxLaunches c).filter fun l => !l.2.stages.all (·.done) && !s.teams.any fun t => t.2.launch == l.1
/-- The bound of the payload that what a freeze has captured makes (R104): it never falls while the freeze goes on. -/
def State.capturedBound (s : State) (c : Nat) : Nat := s.boundOf c (s.heldLaunches c).length
/-- The bound of a context's payload (R104; log 14, DESIGN CHOICE). -/
def State.payloadBound (s : State) (c : Nat) : Nat :=
  ((s.ctxTeams c).map fun t => teamBound (s.launchOf t.2).hdr ((s.core t.2.core).engine.owner == some t.1)).foldl (· + ·)
    (s.boundOf c (s.ctxLaunches c).length)

/-- The size of an image with a payload (R54). -/
def imageBytes (n : Nat) : Nat := n + 80 * ((n + 65535) / 65536)

/-- Claim room of the reserve for the image of a context (R108), if there is room; what the image has claimed before is given up. -/
def State.claimReserve (s : State) (c : Nat) : Option State :=
  let n := imageBytes (s.payloadBound c)
  let used := s.reserveUsed - (match (s.ctx c).image with | some m => m.room | none => 0)
  if reserveSize < used + n then none
  else some ({ s with reserveUsed := used + n }.onCtx c fun x => { x with image := some { key := 0, serial := 0, room := n } })

/-- A place in the pod pool for an image of a size (R113): a free directory entry and room before its end. -/
def State.claimPool (s : State) (c size : Nat) : Option State :=
  let p := s.pool
  match (List.range 64).find? fun k => (s.poolDir.find k).isNone with
  | none => none
  | some k =>
    if p.2 < s.poolNext + size then none
    else
      let m : Image := { key := 0, serial := 0, place := 1, addr := BitVec.ofNat 64 (p.1 + s.poolNext), size, host := true, dir := some k }
      some ({ s with poolDir := s.poolDir.put k c, poolNext := (s.poolNext + size + 63) / 64 * 64 }.onCtx c fun x => { x with image := some m })

/-- A freeze begins (R54, R102): the image takes its key, its SERIAL and a payload within its bound, and every resident team
begins to halt. Its claim on the reserve is made anew; a freeze that the reserve cannot hold then does not start yet (log 50, DEDUCED). An image
for the pod pool that finds no place there goes to the reserve; one of a pod command or for the pool without room is reset (R113, R114). -/
def State.beginFreeze (s : State) (c : Nat) : State :=
  match (s.ctx c).image with
  | none => s
  | some m =>
    let (k, s') := s.freeNat (s.payloadBound c / 16)
    let len := 16 * (k + 1)
    let serial := (Config.random s.boot.serial + s.serials) % 2 ^ 64
    let place : Option State := match m.place with
      | 0 => s'.claimReserve c
      | 1 => (s'.claimPool c (imageBytes len)).or (s'.claimReserve c)
      | _ => some s'
    match place with
    | none =>
      if m.place = 0 ∧ (s.ctx c).pod = false then s else s.onCtx c fun x => { x with phase := .freezing, resetDue := some 2 }
    | some s =>
      let s : State := { s with serials := s.serials + 1, entropy := s.entropy + 1
                                teams := s.teams.map fun t => (t.1, if (s.launchOf t.2).ctx == c then t.2.halt else t.2) }
      s.onCtx c fun x => { x with
        phase := .freezing
        image := x.image.map fun m => { m with key := s.entropy - 1, serial, len, chunks := [], last := false } }

/-- An end, a reset or the zeroing of chunks of a context's previous freeze is still to be made known (R99, R114): a command for the
context waits. -/
def Ctx.ends (x : Ctx) : Bool := x.resetDue.isSome || x.ending.isSome || x.wipe.isSome

/-- `CTXCMD` pre-empt or freeze now (R98 to R102): the destination is claimed, or the command is refused. A restored context whose teams are
still being placed runs, and is pre-empted as any other. -/
def State.preemptCmd (s : State) (oper : Nat) (go : State → Nat → State) : State :=
  let f := s.who
  match s.ctxcmd? f oper with
  | none => s
  | some c =>
    let x := s.ctx c
    let desc := (s.fn f).ctxarg
    let accept (m : Option Image) (s : State) : State :=
      go ((s.stopPlacing c).onCtx c fun x => { x with cmd := some f, desc, image := m.or x.image }) c
    if x.cmd == some f then s
    else if !mayName f c || x.phase != .running then s.ctxStat f 2
    else if x.ends then s
    else if desc = 0 then
      match s.claimReserve c with
      | some s => accept none s
      | none => s.ctxStat f 2
    else if desc = 1 then accept (some { key := 0, serial := 0, place := 1 }) s
    else match s.readDesc c desc.toNat with
      | (none, s) => s
      | (some none, s) => s.ctxStat f 2
      | (some (some d), s) =>
        accept (some { key := 0, serial := 0, place := 2, addr := BitVec.ofNat 64 d.addr, size := d.size, host := d.host }) s

/-- `CTX_PREEMPT` (R98 to R101). -/
def execCtxPreempt (s : State) : Out3 :=
  .next (s.preemptCmd 1 fun s c => s.drain c s.draindl (s.ctx c).desc id)

/-- `CTX_FREEZE_NOW` (R98, R99, R102). -/
def execCtxFreezeNow (s : State) : Out3 := .next (s.preemptCmd 2 fun s c => s.beginFreeze c)

/-- `DRAIN_DEADLINE` (R101): teams are still resident or captured, and the context is frozen. A launch-triggered freeze that the reserve
cannot hold does not start (R108); a pod command's ends by forced reset (R113). -/
def execDrainDeadline (s : State) : Out3 :=
  let c := s.who
  let x := s.ctx c
  .next (if x.phase != .draining || x.elapsed < x.deadline || ((s.ctxTeams c).isEmpty && x.saved.isEmpty) then s
    else if x.image.isSome then s.beginFreeze c
    else match s.claimReserve c with
      | some s => s.beginFreeze c
      | none => if x.pod then s.onCtx c fun x => { x with phase := .freezing, resetDue := some 2 } else s)

/-- A plane as an image holds it (R105): one that an ingot filled is recorded by its source alone. -/
def Plane.saved (p : Plane) : Plane := match p.src with | .ingot .. => { p with image := [] } | _ => p

/-- A page fault as an image holds it (R103): captured as parked, with its requests abandoned; one resolved issues again all the same. -/
def Park.saved (p : Park) : Park := if p.reqs.isEmpty then p else { p with reqs := [], faults := [], captured := true }

/-- A team as an image holds it (R103): parked faults are captured as parked, and their instructions replay; arrivals in squad instructions
are not captured, and are made again (R306). -/
def Team.saved (t : Team) : Team :=
  let kept (w : Wait) : Wait := match w with | .fetch b _ => .fetch b 0 | .squad .. => .none | w => w
  { t with
    heldPark := t.heldPark.map Park.saved, heldWait := kept t.heldWait, waking := false
    squads := t.squads.map fun q => { q with park := q.park.map Park.saved, convoy := [], latch := none }
    threads := t.threads.map fun th => { th with wait := kept th.wait, windows := [], rel := none, loops := [] } }

/-- What an image holds of the engine of a team (R104, R214): an engine whose planes are empty and that has neither queued operations nor
suspect state is let go. -/
def Engine.saved (e : Engine) : Option Engine :=
  if e.active.src == .empty && e.shadow.src == .empty && e.queue.isEmpty && e.suspect.isNone then none
  else some { e with active := e.active.saved, shadow := e.shadow.saved }

/-- The storage of a team that its image reads has an uncorrectable error (R114, R122): of the planes, those filled from memory (R105, R235). -/
def State.captureBad (s : State) (key : Nat) (t : Team) : Bool :=
  let e := (s.core t.core).engine
  let own (c : Nat) : Bool := e.owner == some key && c == t.core
  s.ecc.any fun y => match y with
    | .vreg k .. | .pred k _ | .brec k _ | .fm k _ | .tile k .. | .slice k _ => k == key
    | .plane c b => own c && (if b then e.shadow else e.active).src == .memory
    | .suspect c => own c && e.suspect.isSome
    | .loop .. => false

/-- A copy cannot be discarded now (R102): its ranges overlap and it writes or belongs to the team, or the add to its counter is sent. -/
def State.copyHolds (s : State) (key : Nat) : Bool :=
  s.copies.any fun (k, c) =>
    (c.overlap && (c.team == key || c.src.team == some key || c.dst.team == some key))
      || (c.team == key && s.areqs.any fun r => r.2.agent == copyAgent k)

/-- A team of a freezing context can be captured (R102): its squads and those of its ensemble have stopped, its engine has ended what has
started, and no copy holds it. -/
def State.mayCapture (s : State) (key : Nat) (t : Team) : Bool :=
  let e := (s.core t.core).engine
  (s.ctx (s.launchOf t).ctx).phase == .freezing
    && (s.teams.all fun u => u.2.launch != t.launch || u.2.ens != t.ens || u.2.halted)
    && (e.owner != some key || (e.started.isNone && e.fill.isNone)) && !s.copyHolds key

/-- `TEAM_CAPTURE` (R102 to R106). -/
def execTeamCapture (s : State) : Out3 :=
  let key := s.who
  .next (match s.teams.find key with
    | none => s
    | some t =>
      let c := (s.launchOf t).ctx
      if !s.mayCapture key t then s
      else if s.captureBad key t then s.onCtx c fun x => { x with resetDue := some 3 }
      else
        let e := (s.core t.core).engine
        let own := e.owner == some key
        let copies := s.copies.filter fun c => c.2.team == key
        let v : Saved := { key, team := t.saved, copies, engine := if own then e.saved else none }
        let agents := copies.map fun c => copyAgent c.1
        let s : State := { s with teams := s.teams.del key, copies := s.copies.filter fun c => c.2.team != key
                                  reqs := s.reqs.filter fun r => !t.pageReqs.contains r.1 && !agents.contains r.2.agent }
        let s := if own then s.releaseEngine t.core else s
        s.onCtx c fun x => { x with saved := x.saved ++ [v] })

/-- Chunk k of an image (R54): the header, the payload under AES-256-GCM with the image key, and the tag, which takes in the tag of the
chunk before; the plaintext is free (log 14, DESIGN CHOICE). -/
def imageChunk (dev c : Nat) (w : World) (m : Image) (k : Nat) : List Byte :=
  let n := min 65536 (m.len - 65536 * k)
  let last := m.len ≤ 65536 * (k + 1)
  let header := toBytes 4 0x5A31C0DE ++ toBytes 2 1 ++ toBytes 1 w.toNat ++ toBytes 1 (if last then 1 else 0) ++ toBytes 8 m.serial
    ++ toBytes 4 k ++ toBytes 4 n ++ toBytes 8 (dev + c * 2 ^ 32) ++ toBytes 32 0
  let before := if m.chunks.isEmpty then toBytes 16 0 else lastTag m.chunks
  let sealed := gcmSeal (drawn 32 m.key) (toBytes 8 m.serial ++ toBytes 4 k) (header ++ before)
    ((List.range n).map fun j => Config.bytes m.key (2 ^ 20 * k + j))
  header ++ sealed.1 ++ sealed.2

/-- Write bytes of an image at an offset from its start (R99, R113): its reserve is management memory that no request names (log 49, DEDUCED). -/
def State.imageWrite (s : State) (c : Nat) (m : Image) (off : Nat) (bs : List Byte) : Agent Unit × State :=
  let at_ := m.addr.toNat + off
  if m.place = 0 then (.ok (), s)
  else if m.host then (.ok (), s.poke (cellsAt (hostKey at_) bs))
  else s.agentWrite (agentNum .image c) (s.ctxWorld c) (c % 65536) at_ bs

/-- Read bytes of an image; from host memory they enter by the host link (R29). -/
def State.imageRead (s : State) (c : Nat) (m : Image) (off n : Nat) : Agent (List Byte) × State :=
  let at_ := m.addr.toNat + off
  if m.place = 0 then (.ok (m.chunks.getD m.next []), s)
  else if m.host then
    (match s.linkFail [(hostKey at_, n)] with
      | some s => (.wait, s)
      | none => (.ok (s.read (hostKey at_) n), s))
  else s.agentRead (agentNum .image c) (s.ctxWorld c) (c % 65536) at_ n

/-- Zero the chunks of an image from the last, as far as their pages allow (R114); one that cannot be written is passed. -/
def State.zeroChunks (s : State) (c : Nat) (m : Image) : Nat → State
  | 0 => s.onCtx c fun x => { x with wipe := none }
  | n + 1 =>
    let off := (m.chunks.take n).foldl (fun o b => o + b.length) 0
    match s.imageWrite c m off (List.replicate (m.chunks.getD n []).length 0) with
    | (.wait, s) => s.onCtx c fun x => { x with wipe := some { m with chunks := m.chunks.take (n + 1) } }
    | (_, s) => s.zeroChunks c m n

/-- Go on with the zeroing of a reset context's chunks (R114). -/
def State.pumpWipe (s : State) (c : Nat) : State :=
  match (s.ctx c).wipe with | some m => s.zeroChunks c m m.chunks.length | none => s

/-- The reserved room of a context's launches is given up (R91, R107). -/
def State.dropRooms (s : State) (c : Nat) : State :=
  { s with launches := s.launches.map fun l => (l.1, if l.2.ctx != c then l.2 else
    { l.2 with rooms := l.2.stages.length == 1, stages := l.2.stages.map fun g => { g with room := none, roomUsed := false } }) }

/-- The image is whole (R107, R108): the cores and the reserved room are free, and the reserve takes back what was not used (log 50, DEDUCED). -/
def State.frozen (s : State) (c : Nat) (m : Image) : State :=
  let used := if m.place = 0 then m.length else 0
  let s : State := { s with reserveUsed := s.reserveUsed - (m.room - used) }
  let m := { m with last := true, room := used }
  ((s.onCtx c fun x => { x with phase := .frozen, image := some m }).dropRooms c).conclude c { result := 0, stat := 0, image := some m }

/-- The next chunk of an image can be written (R107): every team is captured, or what has been captured makes more than the chunks up to it, so
that it is not the LAST (log 14, DESIGN CHOICE). -/
def State.chunkReady (s : State) (c : Nat) (m : Image) : Bool :=
  (s.ctxTeams c).isEmpty || decide (65536 * (m.chunks.length + 1) < min m.len (s.capturedBound c))

/-- With every team captured the payload is no longer than the bound of what is (R104): teams that a freeze found may have retired. -/
def State.fitted (s : State) (c : Nat) (m : Image) : Image :=
  if (s.ctxTeams c).isEmpty then { m with len := min m.len (s.capturedBound c) } else m

/-- `IMAGE_CHUNK_WRITE` (R99, R107, R113): the next chunk of an image, as capture produces them; or the zeroing of chunks and the end of a
command that wait. -/
def execImageChunkWrite (s : State) : Out3 :=
  let c := s.who
  let s := s.pumpWipe c
  let x := s.ctx c
  .next (if x.ending.isSome then s.finishCtx c
    else match x.image with
    | none => s
    | some m =>
      if x.phase != .freezing || x.resetDue.isSome || !s.chunkReady c m then s
      else
        let m := s.fitted c m
        let bs := imageChunk s.device c (s.ctxWorld c) m m.chunks.length
        if m.place != 0 && m.size < m.length + bs.length then s.onCtx c fun x => { x with resetDue := some 2 }
        else match s.imageWrite c m m.length bs with
          | (.wait, s) => s
          | (.fail _, s) => s.onCtx c fun x => { x with resetDue := some 3 }
          | (.ok _, s) =>
            let isLast := m.len ≤ 65536 * (m.chunks.length + 1)
            let m := { m with chunks := m.chunks ++ [bs] }
            if isLast then s.frozen c m else s.onCtx c fun x => { x with image := some m })

/-- The ensembles of a launch that have not retired, as a forced reset counts them (R114). -/
def State.unretired (s : State) (key : Nat) (l : Launch) (saved : List Saved) : Nat :=
  let driven := (s.teams.filter fun t => t.2.launch == key && t.2.stage != 0).length
    + (saved.filter fun v => v.team.launch == key && v.team.stage != 0).length
  (l.grid - l.retired) + driven

/-- A launch of a context reset by force (R114): unplaced ensembles and captured teams are killed, its bins discarded (log 48, DEDUCED). -/
def Launch.resetBy (l : Launch) (key : Nat) (saved : List Saved) : Launch :=
  let empty (g : Stage) : Stage := { g with slots := [], ins := g.tail }
  let l : Launch := { l with retired := l.retired + (l.grid - l.nextEn), nextEn := l.grid, stages := l.stages.map empty }
  (saved.filter fun v => v.team.launch == key).foldl (fun l v =>
    l.retire v.team.ens v.team.stage v.team.en v.team.tm v.team.reserved) (l.completeStages 0 0)

/-- The records of a launch's bins that a forced reset discards (R114). -/
def Launch.discarded (l : Launch) : Nat :=
  l.stages.foldl (fun n g => n + (g.slots.filter fun x => x.2 != .voided).length) 0

/-- A freeze of the context is in progress (R114): until its end is made known. -/
def Ctx.inFreeze (x : Ctx) : Bool := x.phase == .freezing || x.resetDue.isSome || (x.ending.any fun e => e.result == 0)

/-- A forced reset of a context (R114). -/
def State.resetCtx (s : State) (c : Nat) : State :=
  let x := s.ctx c
  let ls := s.ctxLaunches c
  let recs : List (Nat × LogRec) := ls.map fun e =>
    (e.1, { Launch.logRec e.2 7 with count := s.unretired e.1 e.2 x.saved, discarded := Launch.discarded e.2 })
  let s := (s.ctxTeams c).foldl (fun s t => s.endTeam t.1) s
  let s := ls.foldl (fun s (k, _) => s.setLaunch k ((s.launch k).resetBy k x.saved)) s
  let s : State := { s with reserveUsed := s.reserveUsed - (match x.image with | some m => m.room | none => 0)
                            pod := s.pod.map fun (p : Pod) => if p.ctxs.contains c then { p with failed := true } else p }
  let s := s.onCtx c fun y => { y with phase := .running, image := none, saved := [], resuming := false, restored := false, resetDue := none
                                       ending := none, victimOf := [], pod := false, d3 := false
                                       wipe := if x.inFreeze then x.image else x.wipe }
  recs.foldl (fun s (k, r) => (s.log (s.launch k).fn r).pump k) (s.pumpWipe c)

/-- `CONTEXT_RESET` (R114): a capture has failed, or the image found no room. -/
def execContextReset (s : State) : Out3 :=
  let c := s.who
  let x := s.ctx c
  .next (match x.resetDue with
    | none => s
    | some r => (s.resetCtx c).conclude c { result := r, stat := 3, image := x.image })

/-- The functions whose `CTXCMD` is busy with a command for a context that the context does not hold yet. -/
def State.busyCmds (s : State) (c : Nat) : List Nat :=
  (s.fns.filter fun f => (s.ctx c).cmd != some f.1 && (f.2.ctxcmd.extractLsb' 58 2).toNat == 1
    && (f.2.ctxcmd.extractLsb' 0 32).toNat == c && mayName f.1 c).map (·.1)

/-- A context that is being frozen, drained or resumed by a command is reset from outside (R114): RESULT 3 where a freeze is in
progress, STAT 3 where a command is busy. -/
def State.resetFor (s : State) (c : Nat) : State :=
  let x := s.ctx c
  let s := (s.busyCmds c).foldl (fun s f => s.ctxStat f 3) (s.resetCtx c)
  if x.inFreeze then s.conclude c { result := 3, stat := 3, image := x.image } else if x.cmd.isSome then s.endCmd c 3 else s

/-- The contexts that exist: with a launch, or with a standing of their own. -/
def State.contexts (s : State) : List Nat := ((s.ctxs.map (·.1)) ++ s.launches.map fun l => l.2.ctx).eraseDups

/-- A command names the image of a frozen context by its argument (R99, R113): the reserve, the pod pool through its directory, or a
descriptor. The image where the argument finds it; none inside where it names no such image, none where a page is awaited. -/
def State.imageOf (s : State) (c : Nat) (desc : Dword) (m : Image) : Option (Option Image) × State :=
  if desc = 0 then (some (if m.place = 0 then some m else none), s)
  else if desc = 1 then
    (if m.place != 1 then (some none, s)
     else match s.linkFail [(hostKey s.pool.1, 4096)] with
     | some s => (none, s)
     | none => (some ((s.poolFind c m.serial).map fun off => { m with addr := BitVec.ofNat 64 (s.pool.1 + off) }), s))
  else if m.place != 2 then (some none, s)
  else match s.readDesc c desc.toNat with
    | (none, s) => (none, s)
    | (some (some d), s) => (some (if d.serial = m.serial then some { m with addr := BitVec.ofNat 64 d.addr, host := d.host } else none), s)
    | (some none, s) => (some none, s)

/-- A pod command of this device waits for the context (R112). -/
def State.podHolds (s : State) (c : Nat) : Bool := s.pod.any fun p => p.ctxs.contains c

/-- `CTXCMD` resume or discard of a frozen context (R99, R111): `go` takes the image that the argument names. The command waits while an
end, a restore or a pod command is still to be made known. -/
def State.imageCmd (s : State) (f c : Nat) (go : State → Image → State) : State :=
  let x := s.ctx c
  match x.image with
  | none => s.ctxStat f 2
  | some m =>
    if x.phase != .frozen then s.ctxStat f 2
    else if x.resuming || x.cmd.isSome || x.ends || s.podHolds c then s
    else match s.imageOf c (s.fn f).ctxarg m with
      | (none, s) => s
      | (some none, s) => s.ctxStat f 2
      | (some (some m), s) => go s m

/-- `CTX_DISCARD_IMAGE` (R99, R111): the argument names the image as it does for a resume. -/
def execCtxDiscardImage (s : State) : Out3 :=
  let f := s.who
  .next (match s.ctxcmd? f 4 with
    | none => s
    | some c => if !mayName f c then s.ctxStat f 2 else s.imageCmd f c fun s _ => (s.resetCtx c).ctxStat f 0)

/-- What refilling a plane from its ingot gives (R110, R235). -/
inductive Refill where
  | wait
  | ok (p : Plane)
  | fail (c : Cause) (detail : Word) (addr pc : Dword) (sq : Nat)

/-- Fill a recorded plane again (R105, R110, R220, R221, R235), the shadow or the active one. -/
def State.refill (s : State) (c : Nat) (t : Team) (shadow : Bool) (p : Plane) : Refill × State :=
  match p.src with
  | .ingot slot va asid pc sq =>
    if t.ended then (.ok {}, s)
    else if !s.policyOk t slot pc then (.fail .ingotPolicy 0 0 pc sq, s)
    else
      let l := s.launchOf t
      match s.agentKeys (agentNum .image c) l.world asid .load (pagesOf va.toNat imageSize) with
      | (.wait, s) => (.wait, s)
      | (.fail f, s) => (.fail f.1 (if f.1 = .pageUnresolved then 3 else f.2) va pc sq, s)
      | (.ok ks, s) =>
        let f : Fill := { sq, pc, ing := some slot, va, keys := ks.map (·.1), fmt := p.fmt, desc := p.desc }
        match s.fillImage (agentNum .image c) (2 * t.tm + shadow.toNat) l f with
        | (none, s) => (.wait, s)
        | (some (.error e), s) => (.fail e.1 e.2 va pc sq, s)
        | (some (.ok bss), s) => (.ok { p with image := Map.sparse 0 0 bss.flatten }, s)
  | _ => (.ok p, s)

/-- The squad that takes a cause of replay (R110): the issuing one, or the lowest with a live thread. -/
def Team.causeSq (t : Team) (sq : Nat) : Option Nat :=
  if (t.live sq).isEmpty then (List.range t.squads.length).find? fun q => !(t.live q).isEmpty else some sq

/-- A restored team takes a cause that the replay of its recorded matrix state sets (R110, R235); a debugger's stop mask holds it (R260). -/
def Team.charge (t : Team) (stopMask : Word) (pc : Dword) (sq : Nat) (h : Hit) : Team :=
  match t.causeSq sq with
  | some q => { t.setSquad q ((t.squad q).record pc [h] 0) with held := t.held || (stopMask &&& h.c.mask) != 0 }
  | none => t

/-- The planes of a captured engine, filled again where an ingot had filled them: the team with the causes, and the engine; none while
a page is awaited. -/
def State.refillEngine (s : State) (c : Nat) (t : Team) (e : Engine) : Option (Team × Engine) × State :=
  let (a, s) := s.refill c t false e.active
  let (b, s) := s.refill c t true e.shadow
  let charge (t : Team) (r : Refill) : Team := match r with
    | .fail cause detail addr pc sq => t.charge (s.stopMask t) pc sq { c := cause, detail, addr }
    | _ => t
  let plane (r : Refill) : Plane := match r with | .ok p => p | _ => {}
  match a, b with
  | .wait, _ => (none, s)
  | _, .wait => (none, s)
  | a, b => (some (charge (charge t a) b, { e with active := plane a, shadow := plane b }), s)

/-- A resumed team goes on as it was captured (R102, R103, R110): held, halted with a cause, in its handler, or running. -/
def Team.resumed (t : Team) : Team :=
  match t.phase with
  | .handler q ln _ => if t.held then t else t.handlerOn q ln
  | .running => if t.held || t.causeSquad.isSome then t else t.continue_
  | .killed => t

/-- The copies of a captured team are issued again in their order (R106, R110). -/
def State.reissue (s : State) (core : Nat) : List (Nat × Nat) → List (Nat × Copy) → State
  | _, [] => s
  | ks, (k, c) :: cs =>
    let (n, s) := s.take
    let c := { c with core, after := c.after.filterMap fun a => (ks.find? fun p => p.1 == a).map (·.2), started := false
                      indices := [], snap := [], handled := [], part := [], written := 0, err := 0, errUnit := 0, stopAt := none, rel := none }
    { s with copies := s.copies.put n c }.reissue core (ks ++ [(k, n)]) cs

/-- Give a captured team its core (R110): squads, the engine that it held, and its stage's reserved room where it used that. The core has no
line of its past elsewhere (R181, R189, R194), and no thread of it issues yet. -/
def State.seatSaved (s : State) (c core : Nat) (v : Saved) : State :=
  let t := v.team
  let l := s.launchOf t
  let room := (l.stages.getD t.stage {}).room
  let reserved := t.reserved && (room.isNone || room == some core)
  let s := if reserved then s.setLaunch t.launch (l.onStage t.stage fun g => { g with room := some core, roomUsed := true }) else s
  let x := s.core core
  let s := s.setCore core { x with l1i := x.l1i.filter fun e => e.asid != l.asid }
  let s := s.seat v.key core { t with reserved, waking := true }
  let s := match v.engine with | some e => s.setEngine core { e with owner := some v.key } | none => s
  s.onCtx c fun x => { x with saved := x.saved.filter fun u => u.key != v.key }

/-- Fill the planes of captured teams again (R110); none while a page is awaited. -/
def State.refillGroup (s : State) (c : Nat) : List Saved → Option (List Saved) × State
  | [] => (some [], s)
  | v :: vs =>
    let filled : Option Saved × State := match v.engine with
      | none => (some v, s)
      | some e => match s.refillEngine c v.team e with
        | (none, s) => (none, s)
        | (some (t, e), s) => (some { v with team := t, engine := some e }, s)
    match filled with
    | (none, s) => (none, s)
    | (some v, s) => match s.refillGroup c vs with
      | (none, s) => (none, s)
      | (some vs, s) => (some (v :: vs), s)

/-- Place the teams of a captured ensemble on its cores, as a whole (R84, R110): with their planes filled again, and their copies issued again;
none while a page is awaited. -/
def State.placeGroup (s : State) (c : Nat) (vs : List (Saved × Nat)) : Option State × State :=
  match s.refillGroup c (vs.map (·.1)) with
  | (none, s) => (none, s)
  | (some filled, s) =>
    (some ((filled.zip (vs.map (·.2))).foldl (fun s x => (s.seatSaved c x.2 x.1).reissue x.2 [] x.1.copies) s), s)

/-- The engine of a core is free. -/
def State.engineFree (s : State) (k : Nat) : Bool := (s.core k).engine.owner.isNone

/-- Give captured teams in turn the lowest of the cores that fits them (R84): one that held an engine needs a free one (R110). -/
def State.seats (s : State) : List Saved → List Nat → List Nat
  | [], _ => []
  | v :: vs, ks =>
    match ks.dropWhile fun k => v.engine.isSome && !s.engineFree k with
    | [] => []
    | k :: ks => k :: s.seats vs ks

/-- The journal of a core has room for the copies of captured teams (R203, R106). -/
def State.journalRoom (s : State) (core : Nat) (vs : List Saved) : Bool :=
  vs.all fun v => (s.copies.filter fun e => e.2.core == core).length + v.copies.length ≤ journalSize

/-- The site that a captured ensemble takes (R84, R110): reserved room that was its own; else a cluster, tried as at a first placement, where
its teams fit, the engine is free on the core of a team that held one, and the journals have room. -/
def State.groupSite (s : State) (vs : List Saved) : Option Site :=
  let t := (vs.headD { key := 0, team := {}, engine := none, copies := [] }).team
  let l := s.launchOf t
  let g := l.stages.getD t.stage {}
  let own : Option Site := match g.room with
    | some k =>
      if t.reserved && !g.roomUsed && s.power == .d0 && !(s.core k).fenced && s.seats vs [k] == [k] && s.journalRoom k vs then
        some { cluster := k / 16, cores := [k], reserved := true } else none
    | none => none
  let first := match (s.disps.getD l.disp {}).last with | some c => c + 1 | none => 0
  own.or ((List.range 32).findSome? fun j =>
    let cl := (first + j) % 32
    let got := s.seats vs ((s.clusterCores cl).filter fun k => s.fits k l.hdr && s.journalRoom k vs)
    if got.length = vs.length then some { cluster := cl, cores := got } else none)

/-- The captured teams of the ensemble of the first one that is not placed, in the order of `%tm`. -/
def Ctx.nextGroup (x : Ctx) : List Saved :=
  match x.saved with
  | [] => []
  | v :: _ =>
    let g := x.saved.filter fun u => u.team.launch == v.team.launch && u.team.ens == v.team.ens
    (List.range 16).flatMap fun k => g.filter fun u => u.team.tm == k

/-- Every captured team of a context can be placed (R111). -/
def State.canPlaceAll (s : State) (c : Nat) : Nat → Bool
  | 0 => true
  | n + 1 =>
    match (s.ctx c).nextGroup with
    | [] => true
    | v :: vs =>
      match s.groupSite (v :: vs) with
      | none => false
      | some g => (((v :: vs).zip g.cores).foldl (fun s x => s.seatSaved c x.2 x.1) s).canPlaceAll c n

/-- The placed teams of a launch issue (R110). -/
def State.wakeLaunch (s : State) (key : Nat) : State :=
  { s with teams := s.teams.map fun t =>
      (t.1, if t.2.launch == key && t.2.waking then { t.2.resumed with waking := false } else t.2) }

/-- The placed teams of a context issue, launch by launch, once the reserved room of their launch is claimed again (R91, R110). -/
def State.wake (s : State) (c : Nat) : State :=
  (s.ctxLaunches c).foldl (fun s (key, l) =>
    if !(s.teams.any fun t => t.2.launch == key && t.2.waking) then s
    else if l.rooms then s.wakeLaunch key
    else match s.claimRooms key with | some s => s.wakeLaunch key | none => s) s

/-- Teams that go on may find themselves all waiting (R200). -/
def State.wokenDeadlocks (s : State) (before : State) : State :=
  before.teams.foldl (fun s t => if t.2.waking && !(s.tm t.1).waking then s.deadlock t.1 else s) s

/-- Place the teams of a restored context as far as room allows (R110); with all placed and awake, it runs, and its command is done. -/
def State.resumePump (s : State) (c : Nat) : Nat → State
  | 0 => s
  | n + 1 =>
    let s := (s.wake c).wokenDeadlocks s
    let x := s.ctx c
    match x.nextGroup with
    | [] =>
      if (s.ctxTeams c).any fun t => t.2.waking then s
      else (s.onCtx c fun x => { x with resuming := false, restored := false, victimOf := [], d3 := false, pod := false }).endCmd c 0
    | v :: vs =>
      match s.groupSite (v :: vs) with
      | none => s
      | some g =>
        let l := s.launchOf v.team
        let tie := s.tie l.disp g.cluster l.prio
        if tie = some false then s
        else match s.placeGroup c ((v :: vs).zip g.cores) with
        | (none, s) => s
        | (some s, _) => (s.grant l.disp g.cluster tie.isSome).resumePump c n

/-- A restored context that runs is placed (R101, R110). -/
def State.resume (s : State) (c : Nat) : State :=
  let x := s.ctx c
  if x.restored && x.phase == .running then s.resumePump c (x.saved.length + 1) else s

/-- No core holds a line of code of a context that resumes (R194). -/
def State.dropCodeOf (s : State) (c : Nat) : State :=
  let core (x : Core) : Core := { x with l1i := x.l1i.filter fun l => l.asid != c % 65536 }
  { s with cores := (s.cores.map fun e => (e.1, core e.2)).filter fun e => e.2 != ({} : Core) }

/-- A drained context runs again (R110, R194): its unplaced ensembles may be placed. -/
def State.undrain (s : State) (c : Nat) : State :=
  (s.dropCodeOf c).onCtx c fun x => { x with phase := .running, victimOf := [], d3 := false, pod := false }

/-- `CTX_RESUME` (R99, R110, R111): a drained context runs; of a frozen one the image is restored and then the teams are placed. A restore
under way that no command has asked for takes the command. -/
def execCtxResume (s : State) : Out3 :=
  let f := s.who
  .next (match s.ctxcmd? f 3 with
    | none => s
    | some c =>
      let x := s.ctx c
      if x.cmd == some f then (if x.resuming then s.resume c else s)
      else if !mayName f c then s.ctxStat f 2
      else match x.phase with
      | .drained => if x.ends || x.cmd.isSome || s.podHolds c then s else (s.undrain c).ctxStat f 0
      | .frozen =>
        if x.resuming && x.cmd.isNone then s.onCtx c fun x => { x with cmd := some f }
        else s.imageCmd f c fun s m => s.onCtx c fun x => { x with cmd := some f, resuming := true, image := some { m with next := 0 } }
      | _ => s.ctxStat f 2)

/-- A context whose restore here has failed after PREPARE is not taken (R56): a signed ABORTED is answered. -/
def State.refuseInbound (s : State) (c : Nat) (m : Image) : State :=
  ({ s with launches := s.launches.filter fun l => l.2.ctx != c } |>.setCtx c {}).handover c m false

/-- Restore aborts (R55, R111): the state staged is scrubbed, the entry is kept, and the command is refused. -/
def State.abortRestore (s : State) (c : Nat) : State :=
  let x := s.ctx c
  match x.migrating, x.image with
  | true, some m => s.refuseInbound c m
  | _, _ => (s.onCtx c fun x => { x with resuming := false, image := x.image.map fun m => { m with next := 0 } }).endCmd c 2

/-- A context that runs, or whose pre-emption is under way, takes a pod command (R112): it drains with the command's deadline at most, and an
image that has no place yet goes to the command's. One that is being restored takes it once it is (log 54, DEDUCED). -/
def State.podDrain (s : State) (c deadline : Nat) (pool : Bool) : State :=
  let place (x : Ctx) : Ctx := { x with pod := true, image := if pool && x.image.isNone then some { key := 0, serial := 0, place := 1 } else x.image }
  match (s.ctx c).phase with
  | .running => s.drain c deadline 0 place
  | .draining => s.onCtx c fun x => { place x with deadline := min x.deadline (x.elapsed + deadline * 100000) }
  | _ => s.onCtx c fun x => { x with pod := true }

/-- The images of a pod command go to the pod pool (R112, R113). -/
def State.pooled (s : State) (p : Pod) : Bool := p.space == 1 && s.pool.2 != 0

/-- The LAST chunk verifies (R55): the context becomes runnable, and the image key is erased. A context handed over is confirmed by
COMMIT (R56); one that a pod command waits for is pre-empted for it (R112). -/
def State.commitRestore (s : State) (c : Nat) (m : Image) : State :=
  let s : State := { s with reserveUsed := s.reserveUsed - m.room }
  let s := if (s.ctx c).migrating then s.handover c m true else s
  let s := (s.dropCodeOf c).onCtx c fun x => { x with phase := .running, restored := true, image := none, migrating := false }
  match s.pod with
  | some p => if p.ctxs.contains c then s.podDrain c (p.deadline - p.elapsed / 100000) (s.pooled p) else s.resume c
  | none => s.resume c

/-- `RESTORE_CHUNK` (R55): the next chunk, as presented or as it lies in the image's buffer, verifies where it is the chunk that was
sealed (log 14, DESIGN CHOICE). -/
def execRestoreChunk (chunk : Option (List Byte)) (s : State) : Out3 :=
  let c := s.who
  let x := s.ctx c
  .next (match x.image with
    | none => s
    | some m =>
      if !x.resuming || x.restored then s
      else
        let want := m.chunks.getD m.next []
        let off := (m.chunks.take m.next).foldl (fun n b => n + b.length) 0
        let (got, s) : Agent (List Byte) × State := match chunk with
          | some b => (.ok b, s)
          | none => s.imageRead c m off want.length
        match got with
        | .wait => s
        | .fail _ => s.abortRestore c
        | .ok b =>
          if b != want || want.isEmpty then s.abortRestore c
          else if m.next + 1 = m.chunks.length then s.commitRestore c m
          else s.onCtx c fun x => { x with image := some { m with next := m.next + 1 } })

/-- `AUTO_RESUME` (R11, R111): a context frozen or drained for launches that have all completed, or for D3hot, resumes once its ensembles can
be placed; a restored one is placed further. -/
def execAutoResume (s : State) : Out3 :=
  let c := s.who
  let x := s.ctx c
  let launched := !x.victimOf.isEmpty && x.victimOf.all fun k => (s.launches.find k).isNone
  let powered := x.d3 && s.power == .d0 && !s.d3wait
  .next (if x.restored then s.resume c
    else if !(launched || powered) || x.cmd.isSome || x.pod || x.resuming || x.ends || s.podHolds c then s
    else match x.phase, x.image with
    | .drained, _ => s.undrain c
    | .frozen, some m =>
      if s.canPlaceAll c x.saved.length then s.onCtx c fun x => { x with resuming := true, image := some { m with next := 0 } } else s
    | _, _ => s)

/-- `FUNCTION_LEVEL_RESET` (R13, R64, R114): of a virtual function. -/
def execFunctionLevelReset (s : State) : Out3 :=
  let f := s.who
  .next (if f < 1 ∨ 254 < f then s
    else
      let s := (s.contexts.filter fun c => c / 65536 == f).foldl (fun s c => s.resetFor c) s
      s.queues.foldl (fun s (n, q) =>
        if q.fn != f then s
        else s.onQueue n fun q => { q with held := none, rdidx := max q.rdidx q.wridx }.owe) s)

/-- A context has resident teams or unplaced ensembles on this device (R112). -/
def State.hasWork (s : State) (c : Nat) : Bool :=
  !(s.ctxTeams c).isEmpty || !(s.ctx c).saved.isEmpty || (s.ctxLaunches c).any fun l => l.2.nextEn < l.2.grid

/-- The keep list names a context for this device (R112). -/
def kept (dev c : Nat) (keep : List (Nat × Nat)) : Bool := keep.any fun e => (e.1 == dev || e.1 == 0xFFFFF) && e.2 == c

/-- `POD_COMMAND_RECEIVE` (R112, R113): every context with work that is not kept is pre-empted, and awaited where it is being pre-empted
already, and where it is being restored; for the pool, its directory is zeroed. A command under way is carried out once, after what earlier resets still owe (log 54, DEDUCED). -/
def execPodCommandReceive (deadline space : Nat) (keep : List (Nat × Nat)) (s : State) : Out3 :=
  let old : Pod := match s.pod with | some p => p | none => { deadline, space, keep }
  let cs := s.contexts.filter fun c => s.hasWork c && !kept s.device c old.keep
    && ((s.ctx c).phase == .running || (s.ctx c).phase == .draining || (s.ctx c).phase == .freezing
      || ((s.ctx c).phase == .frozen && (s.ctx c).resuming))
  let pool := s.pool
  let pooled := s.pooled old
  .next (if old.begun || cs.any fun c => (s.ctx c).phase == .running && (s.ctx c).ends then s
    else
      let s : State := if pooled then
          { s.poke (cellsAt (hostKey pool.1) (List.replicate 4096 0)) with poolDir := [], poolNext := 4096 }
        else s
      let s : State := { s with pod := some { old with ctxs := cs, begun := true } }
      cs.foldl (fun s c => s.podDrain c old.deadline pooled) s)

/-- How the contexts pre-empted for a pod command stand on this device: unfinished, all well, or one reset. -/
def State.podOutcome (s : State) (p : Pod) : Option Bool :=
  if !p.begun then none
  else if p.failed then some false
  else if p.ctxs.all fun c => (((s.ctx c).phase == .frozen && !(s.ctx c).resuming) || (s.ctx c).phase == .drained) && (s.ctx c).ending.isNone then some true
  else none

/-- The receiving firmware answers a pod command (R112). -/
def State.podAnswer (s : State) (p : Pod) : State :=
  let good := (p.reports.filter (·.2)).length
  { s with pod := none }.answer 0 0x0020 0
    (toBytes 2 p.members.length ++ toBytes 2 good ++ toBytes 2 (p.members.length - good) ++ toBytes 2 0 ++ toBytes 4 (p.elapsed / 100000))

/-- `POD_REPORT` (R112): a member reports; this device itself once its contexts have ended (log 54, DEDUCED). -/
def execPodReport (dev : Nat) (ok : Bool) (s : State) : Out3 :=
  .next (match s.pod with
    | none => s
    | some p =>
      let fits := if dev = s.device then s.podOutcome p == some ok else p.receiver && p.members.contains dev
      if !fits || p.reports.any fun r => r.1 == dev then s
      else
        let p := { p with reports := p.reports ++ [(dev, ok)] }
        if !p.receiver then { s with pod := none }.send (.report ok)
        else if p.members.all fun m => p.reports.any fun r => r.1 == m then s.podAnswer p
        else { s with pod := some p })

/-- `POD_RESPONSE_DEADLINE` (R112): DEADLINE + 2,000 ms have passed. -/
def execPodResponseDeadline (s : State) : Out3 :=
  .next (match s.pod with
    | none => s
    | some p => if p.receiver && decide ((p.deadline + 2000) * 100000 ≤ p.elapsed) then s.podAnswer p else s)

end Sys2Proof.Machine
end

