-- ==== Sys2Proof/Machine/Paging.lean ====
section
/-!
DEFINITION. Page tables and the invalidation of translations (R157), with the copies of code and the launch identities that an
invalidation takes with it (R182, R187, R236). `who` is the function whose `PTCMD` is busy.
-/
namespace Sys2Proof.Machine

/-- STAT of a function's `PTCMD` (R157). -/
def State.ptStat (s : State) (f stat : Nat) : State :=
  let x := s.fn f
  s.setFn f { x with ptcmd := (x.ptcmd &&& 0xCFC0FFFF00000000) ||| (BitVec.ofNat 64 stat <<< 60) }

/-- The fields of a busy `PTCMD` (R157). -/
structure PtCmd where
  asid : Nat
  loglen : Nat
  arg : Nat

/-- Read a function's `PTCMD` while it is busy. -/
def State.ptcmd? (s : State) (f oper : Nat) : Option PtCmd :=
  let x := s.fn f
  let v := x.ptcmd
  if (v.extractLsb' 60 2).toNat = 1 ∧ (v.extractLsb' 62 2).toNat = oper then
    some { asid := (v.extractLsb' 32 16).toNat, loglen := (v.extractLsb' 54 6).toNat, arg := x.ptarg.toNat }
  else none

/-- `PT_SET_ROOT` (R157): the level-5 table of an ASID, at a local physical address aligned to 4 KiB. -/
def execPtSetRoot (s : State) : Out3 :=
  let f := s.who
  .next (match s.ptcmd? f 1 with
    | none => s
    | some c =>
      if !s.ownsAsid f c.asid || c.arg % 4096 != 0 || decide (2 ^ 44 ≤ c.arg) then s.ptStat f 2
      else ({ s with roots := s.roots.put c.asid (BitVec.ofNat 64 c.arg) }).ptStat f 0)

/-- A range of virtual addresses of an ASID; without bounds, all of it. -/
structure VRange where
  asid : Nat
  bounds : Option (Nat × Nat)

/-- The range meets n bytes from an address of an ASID. -/
def VRange.meets (r : VRange) (asid va n : Nat) : Bool :=
  r.asid == asid && (match r.bounds with | none => true | some (lo, len) => decide (lo < va + n) && decide (va < lo + len))

/-- The entry of a TLB translates an address of the range (R157). -/
def VRange.covers (r : VRange) (t : Tlb) : Bool := r.meets t.asid (t.page * 2 ^ t.log) (2 ^ t.log)

/-- Every TLB entry and every copy of code of the range is dropped, on every core (R157, R182). -/
def State.dropRange (s : State) (r : VRange) : State :=
  let fromCore (e : Nat × Core) : Nat × Core :=
    (e.1, { e.2 with tlb := e.2.tlb.filter fun t => !r.covers t, l1i := e.2.l1i.filter fun l => !r.meets l.asid l.va 128 })
  let keep (e : Loop) : Bool := !r.meets e.asid e.va 32
  let fromTeam (e : Nat × Team) : Nat × Team :=
    (e.1, { e.2 with threads := e.2.threads.map fun th => { th with loops := th.loops.filter keep }
                     squads := e.2.squads.map fun q => { q with latch := q.latch.filter keep } })
  let tlbs : Map (List Tlb) := s.clusterTlb.map fun e => (e.1, e.2.filter fun t => !r.covers t)
  { s with cores := (s.cores.map fromCore).filter fun e => e.2 != ({} : Core), teams := s.teams.map fromTeam, clusterTlb := tlbs }

/-- The planes of a captured team that an ingot filled become empty too (R236). -/
def Saved.revoke (launch : Nat) (v : Saved) : Saved :=
  let clean (p : Plane) : Plane := match p.src with | .ingot .. => {} | _ => p
  if v.team.launch != launch then v
  else { v with engine := v.engine.map fun (e : Engine) =>
    let lost := match e.active.src with | .ingot .. => true | _ => false
    { e with active := clean e.active, shadow := clean e.shadow, suspect := e.suspect.map fun x => { x with lost := x.lost || lost } } }

/-- The identity of a launch is revoked (R187, R236). -/
def State.revoke (s : State) (k : Nat) : State :=
  let s := (s.setLaunch k { s.launch k with identity := revokedIdentity }).revokePlanes k
  let onCtx (c : Ctx) : Ctx := { c with saved := c.saved.map (Saved.revoke k) }
  { s with ctxs := s.ctxs.map fun c => (c.1, onCtx c.2) }

/-- Bytes that the range meets, or that an entry translates which it takes with it: a larger page that overlaps it (R157). -/
def State.loses (s : State) (r : VRange) (asid va n : Nat) : Bool :=
  let page (t : Tlb) : Bool := r.covers t && ({ asid := t.asid, bounds := some (t.page * 2 ^ t.log, 2 ^ t.log) } : VRange).meets asid va n
  r.meets asid va n || (s.cores.any fun c => c.2.tlb.any page) || s.clusterTlb.any fun c => c.2.any page

/-- The accesses translated with entries of the range that have not performed: operations in flight, lines that are asked for ahead, the cores
that fill a plane, by number from 2^32 up, and the squads in the midst of a `PUBLISH`, by number from 2^33 up. -/
def State.pendingIn (s : State) (r : VRange) : List Nat :=
  let fs := s.flights.filter fun f => f.2.lanes.any fun l =>
    !l.performed && (match l.place with | .glob _ => s.loses r (s.launchOf (s.tm f.2.team)).asid l.va.toNat 1 | _ => false)
  let cs := s.cores.filter fun c => match c.2.engine.fill, c.2.engine.owner with
    | some x, some k => s.loses r (s.launchOf (s.tm k)).asid x.va.toNat imageSize
    | _, _ => false
  let asked := s.areqs.filter fun a => a.2.page.any fun p => s.loses r p.1 p.2 1
  let amids (t : Team) (q : Nat) : Bool := (t.squad q).amids.any fun m => m.spans.any fun g => s.loses r (s.launchOf t).asid g.start.toNat g.len
  let sqs := s.teams.flatMap fun t => ((List.range t.2.squads.length).filter (amids t.2)).map fun q => 2 ^ 33 + 32 * t.1 + q
  fs.map (·.1) ++ asked.map (·.1) ++ (cs.map fun c => 2 ^ 32 + c.1) ++ sqs

/-- An access of such a list is still pending. -/
def State.stillPending (s : State) (k : Nat) : Bool :=
  if 2 ^ 33 ≤ k then ((s.tm ((k - 2 ^ 33) / 32)).squad ((k - 2 ^ 33) % 32)).amids.any fun m => !m.spans.isEmpty
  else if 2 ^ 32 ≤ k then (s.core (k - 2 ^ 32)).engine.fill.isSome
  else match s.flights.find k with | some f => f.pending | none => (s.areqs.find k).isSome

/-- The invalidation of a function reports done once nothing of it is pending (R157). -/
def State.ptDone (s : State) (f : Nat) : State :=
  match s.invalidating.find? fun x => x.1 == f with
  | none => s
  | some x =>
    if x.2.2.any s.stillPending then s
    else ({ s with invalidating := s.invalidating.filter fun y => y.1 != f }).ptStat f 0

/-- A `PTCMD` invalidation (R157, R187): the entries and copies are dropped and overlapping identities revoked at once. -/
def State.ptInvalidate (s : State) (f oper : Nat) (range : PtCmd → Option VRange) : State :=
  match s.ptcmd? f oper with
  | none => s
  | some c =>
    if s.invalidating.any fun x => x.1 == f then s
    else match if !s.ownsAsid f c.asid then none else range c with
    | none => s.ptStat f 2
    | some r =>
      let hit (l : Launch) : Bool := l.asid == r.asid && (r.bounds.isNone || l.table.any fun e => r.meets l.asid e.1 e.2)
      let pending := s.pendingIn r
      let s := (s.launches.filter fun l => hit l.2).foldl (fun s l => s.revoke l.1) (s.dropRange r)
      ({ s with invalidating := s.invalidating ++ [(f, c.asid, pending)] } : State).ptDone f

/-- `PT_INVALIDATE_ASID` (R157). -/
def execPtInvalidateAsid (s : State) : Out3 :=
  .next (s.ptInvalidate s.who 2 fun c => some { asid := c.asid, bounds := none })

/-- `PT_INVALIDATE_RANGE` (R157): 2^(16 + LOGLEN) bytes, aligned to their size; a range at or above 2^57, where nothing is translated, is no
field out of range (log 81, DESIGN CHOICE). -/
def execPtInvalidateRange (s : State) : Out3 :=
  .next (s.ptInvalidate s.who 3 fun c =>
    if 41 < c.loglen ∨ c.arg % 2 ^ (16 + c.loglen) ≠ 0 then none
    else some { asid := c.asid, bounds := some (c.arg, 2 ^ (16 + c.loglen)) })

/-- `PT_INVALIDATE_COMPLETE` (R157). -/
def execPtInvalidateComplete (s : State) : Out3 := .next (s.ptDone s.who)

end Sys2Proof.Machine
end

