-- ==== Sys2Proof/Machine/System.lean ====
section
/-!
DEFINITION. Special registers (R127, R128, R247, R359, R360), `CLOCK` and `SLEEP` (R361), traps and the trap record (R240,
R248, R250, R251, R362, R363), and the events of a halt: a squad stops, the handler is entered (R243, R246).
-/
namespace Sys2Proof.Machine

/-- The trap registers of the handling thread (R247). -/
def trapReg (t : Team) (x : Squad) (th : Thread) (num : Nat) : Nat :=
  match num with
  | 0x30 => x.causes.toNat
  | 0x31 => x.code.toNat
  | 0x32 => x.detail.toNat
  | 0x33 => th.skid
  | 0x34 => x.fpc.toNat
  | 0x35 => x.faddr.toNat
  | 0x36 => x.haltCyc.toNat
  | 0x37 => match t.phase with | .handler _ _ hpc => hpc.toNat | _ => 0
  | _ => 0

/-- The value of a special register in a thread of the convoy in focus (R359). -/
def State.specialReg (s : State) (t : Team) (q ln : Nat) (th : Thread) (num : Nat) : Nat :=
  let l := s.launchOf t
  match num with
  | 0x00 => tidOf q ln
  | 0x01 => q
  | 0x02 => ln
  | 0x03 => t.tm
  | 0x04 => t.en
  | 0x05 => t.enx
  | 0x06 => t.eny
  | 0x07 => t.enz
  | 0x08 => t.stage
  | 0x09 => t.nrec
  | 0x0A => 32 * l.hdr.teamSq
  | 0x0B => s.ensTeams t
  | 0x0C => l.hdr.gridx
  | 0x0D => l.hdr.gridy
  | 0x0E => l.hdr.gridz
  | 0x0F => l.world.toNat
  | 0x10 => t.core
  | 0x11 => (lanesMask (t.squad q).convoy).toNat
  | 0x20 => t.fpctl.toNat
  | 0x21 => th.flags.toNat
  | n => if t.handling == some (q, ln) then trapReg t (t.squad q) th n else 0
where
  /-- A set of lanes as a word. -/
  lanesMask (ls : List Nat) : Word := ls.foldl (fun w k => w ||| (1#32 <<< k)) 0

/-- `SREAD` (R360): raw, a pair for the registers of 64 bits. -/
def execSread (h : Hd) (d num : BitVec 8) (s : State) : Out3 :=
  .next (s.lanewise (.sread h d num) fun t ln th =>
    { th := th.setBits (0x34 ≤ num.toNat) d (s.specialReg t s.sq ln th num.toNat) 0 })

/-- What `SWRITE` refuses in a lane (R128, R247, R250, R360): other registers are read-only, and `%hpc` belongs to the handling
thread. -/
def swriteHits (num b : BitVec 8) (handling : Bool) (ln : Nat) (th : Thread) : List Hit :=
  match num.toNat with
  | 0x20 => if 8 ≤ (th.r32 b).toNat then [{ ln, c := .reservedField }] else []
  | 0x21 => if 32 ≤ (th.r32 b).toNat then [{ ln, c := .reservedField }] else []
  | 0x37 =>
    if !handling then [{ ln, c := .permission, detail := 8 }]
    else (if (th.r64 b).toNat % 4 != 0 then [{ ln, c := .align }] else [])
      ++ (if 2 ^ 57 ≤ (th.r64 b).toNat then [{ ln, c := .reservedField }] else [])
  | _ => [{ ln, c := .permission, detail := 4 }]

/-- `SWRITE` (R360): `%fpctl` once for the convoy, `%fpflag` lane by lane, `%hpc` in the handling thread. -/
def execSwrite (h : Hd) (num b : BitVec 8) (s : State) : Out3 :=
  let i : Instr := .swrite h num b
  .next (match num.toNat with
    | 0x21 => s.lanewise i (fun _ _ th => { th := { th with flags := th.flags &&& ~~~((th.r32 b).setWidth 5) } })
        fun _ ln th => swriteHits num b false ln th
    | 0x20 => s.once i (fun s x ln => swriteHits num b false ln ((s.tm x.key).lane x.q ln)) fun s x ln =>
        s.onTm x.key fun t => { t with fpctl := ((t.lane x.q ln).r32 b).setWidth 3 }
    | _ => s.issue i
        (fun s x => x.act.flatMap fun ln =>
          swriteHits num b ((s.tm x.key).handling == some (x.q, ln)) ln ((s.tm x.key).lane x.q ln))
        fun s x =>
          let s := (s.issued x x.lanes).advance x x.lanes i.len
          x.act.foldl (fun s ln => s.onTm x.key fun t =>
            match t.phase with
            | .handler q l _ => { t with phase := .handler q l ((t.lane x.q ln).r64 b) }
            | _ => t) s)

/-- `CLOCK` (R127, R361). -/
def execClock (h : Hd) (d : BitVec 8) (s : State) : Out3 :=
  .next (s.lanewise (.clock h d) fun t _ th => { th := th.set64 d (s.cycle t.core) 0 })

/-- `SLEEP` (R361): each active lane leaves formation for its count; none does not wait. -/
def State.sleepOp (s : State) (i : Instr) (b : Opb) : State :=
  s.lanewise i fun _ _ th => { th := { th with wait := if b.word th = 0 then .none else .sleep (b.word th).toNat } }

/-- `SLEEP` (R361). -/
def execSleep (h : Hd) (b : BitVec 8) (s : State) : Out3 := .next (s.sleepOp (.sleep h b) (.reg b))
/-- `SLEEP` with an immediate count (R361). -/
def execSleepImm (h : Hd) (imm : Word) (s : State) : Out3 := .next (s.sleepOp (.sleepImm h imm) (.imm imm))

/-- `SLEEP_EXPIRE` (R361): a lane whose count has run out is eligible again; so is one whose sleep is held while it handles. -/
def execSleepExpire (tid : Nat) (s : State) : Out3 :=
  .next (s.onTm s.who fun t =>
    let isOver (w : Wait) : Bool := match w with | .sleep 0 => true | _ => false
    let th := t.thread tid
    if isOver th.wait then t.setThread tid { th with wait := .none } else t)

/-- `TRAP` and `BRK` (R362): only the trap, once for the convoy; the halt PC is the next instruction. -/
def State.softTrap (s : State) (i : Instr) (c : Cause) (code : Word) : State :=
  s.issue i (fun _ _ => []) fun s x =>
    let own := s.inHandler x.key
    let s := (s.issued x x.lanes).advance x x.lanes i.len
    match x.act with
    | [] => s
    | ln :: _ => s.raise x.key x.q x.pc [{ ln, c }] code own

/-- `TRAP` (R362). -/
def execTrap (h : Hd) (code : BitVec 16) (s : State) : Out3 := .next (s.softTrap (.trap h code) .software (code.setWidth 32))
/-- `BRK` (R362): the code is not recorded. -/
def execBrk (h : Hd) (code : BitVec 16) (s : State) : Out3 := .next (s.softTrap (.brk h code) .breakpoint 0)

/-- The state of a thread in its trap record (R248): every thread of a squad that a page fault parks is parked (R158), and so is one that
waits for a bin (R244); one that also waits at a barrier or in a squad instruction is named by that wait (log 60, DEDUCED). -/
def Team.threadState (t : Team) (tid : Nat) : Nat :=
  let th := t.thread tid
  let q := tid / 32
  if th.exited then 5
  else if t.handling == some (q, tid % 32) then 6
  else match th.wait with
  | .fetch .. | .bin .. => 2
  | .barrier .. => 3
  | .squad .. => 4
  | _ =>
    let held := (t.handling.map (·.1)) == some q && t.heldPark.any fun p => !p.reqs.isEmpty || p.captured
    if (t.squad q).park.isSome || held then 2 else 1

/-- A word of the trap record of a thread (R248). -/
def Team.trapWord (t : Team) (tid sel : Nat) : Word :=
  let x := t.squad (tid / 32)
  let th := t.thread tid
  let hpc : Dword := match t.phase with
    | .handler q ln h => if tidOf q ln = tid then h else th.haltPc
    | _ => th.haltPc
  let low (v : Dword) : Word := v.setWidth 32
  let high (v : Dword) : Word := (v >>> 32).setWidth 32
  match sel with
  | 0 => x.causes
  | 1 => x.code
  | 2 => x.detail
  | 3 => BitVec.ofNat 32 th.skid
  | 4 => low hpc
  | 5 => high hpc
  | 6 => low x.fpc
  | 7 => high x.fpc
  | 8 => low x.faddr
  | 9 => high x.faddr
  | 10 => low x.haltCyc
  | 11 => high x.haltCyc
  | 12 => BitVec.ofNat 32 (t.threadState tid)
  | _ => 0

/-- `TRAPINFO` (R248, R363). -/
def State.trapInfo (s : State) (i : Instr) (d a : BitVec 8) (b : Opb) : State :=
  s.lanewise i
    (fun t ln th => { th := th.setReg d (if t.handling == some (s.sq, ln) then t.trapWord (th.r32 a).toNat (b.word th).toNat else 0) 0 })
    fun t ln th =>
      if t.threads.length ≤ (th.r32 a).toNat ∨ 13 ≤ (b.word th).toNat then [{ ln, c := .reservedField }] else []

/-- `TRAPINFO` (R363). -/
def execTrapinfo (h : Hd) (d a b : BitVec 8) (s : State) : Out3 := .next (s.trapInfo (.trapinfo h d a b) d a (.reg b))
/-- `TRAPINFO` with an immediate selector (R363). -/
def execTrapinfoImm (h : Hd) (d a : BitVec 8) (imm : Word) (s : State) : Out3 :=
  .next (s.trapInfo (.trapinfoImm h d a imm) d a (.imm imm))

/-- An instruction of the handling thread alone (R250): `body` performs it. -/
def State.handlerOnly (s : State) (i : Instr) (body : State → Convoy → Nat → State) : State :=
  s.issue i
    (fun s x => x.act.flatMap fun ln =>
      if (s.tm x.key).handling == some (x.q, ln) then [] else [{ ln, c := .permission, detail := 8 }])
    fun s x =>
      let s := (s.issued x x.lanes).advance x x.lanes i.len
      match x.act with
      | [] => s
      | ln :: _ => body s x ln

/-- The bits that `TRAPCLR` clears in a squad of a team (R250): bit 17 stays while suspect state exists (R228; log 31, DEDUCED). -/
def State.clearBits (s : State) (key q : Nat) (bits : Word) : State :=
  let t := s.tm key
  let e := (s.core t.core).engine
  let suspect := e.owner == some key && e.suspect.isSome
  let bits := bits &&& 0x1FFFFFFF &&& (if suspect then ~~~Cause.assay.mask else 0xFFFFFFFF)
  s.onTm key fun t => t.setSquad q ((t.squad q).clear bits)

/-- `TRAPCLR` (R250; log 31, DEDUCED). -/
def execTrapclr (h : Hd) (a : BitVec 8) (s : State) : Out3 :=
  .next (s.handlerOnly (.trapclr h a) fun s x ln => s.clearBits x.key x.q (((s.tm x.key).lane x.q ln).r32 a))

/-- `TRAPRET.resume` (R251); a team that goes on and whose threads all wait takes its cause (R200). -/
def execTrapretResume (h : Hd) (s : State) : Out3 :=
  .next (s.handlerOnly (.trapretResume h) fun s x _ => (s.trapret x.key).deadlock x.key)
/-- `TRAPRET.kill` (R251). -/
def execTrapretKill (h : Hd) (s : State) : Out3 := .next (s.handlerOnly (.trapretKill h) fun s x _ => s.kill x.key 1)
/-- `TRAPRET.killsig` (R251). -/
def execTrapretKillsig (h : Hd) (s : State) : Out3 := .next (s.handlerOnly (.trapretKillsig h) fun s x _ => s.kill x.key 2)

/-- The cause of a head that does not decode (R264). -/
def decodeCause : DecodeTrap → Cause
  | .misland => .misland | .fetchBoundary => .fetchBoundary | .undefinedOpcode => .undefinedOpcode

/-- `UNASSIGNED_OPCODE` (R264): every member of the convoy takes the cause, whatever its guard (R266). -/
def execUnassignedOpcode (k : DecodeTrap) (s : State) : Out3 :=
  .next (s.issue (.unassignedOpcode k) (fun _ x => x.lanes.map fun ln => { ln, c := decodeCause k }) fun s _ => s)

/-- A wait that stands at its instruction, which has not completed (R103, R126). -/
def Wait.stands : Wait → Bool | .barrier .. | .squad .. => true | _ => false

/-- A squad that a debugger steps can still issue its instruction (R259): a convoy stands, or one can form. -/
def Team.canStep (t : Team) (q : Nat) : Bool :=
  t.mayIssue q && !((t.squad q).convoy.isEmpty && (t.chooseGroup q).isEmpty)

/-- A squad of a halting team is stopped once all it has issued, other than copies and engine operations, has completed
(R243): its halt PCs and halt cycle count are fixed; an instruction that a lane still waits in is not counted in its skid (R126). In its handler the trap record stays as it is; a squad that a debugger steps
issues its instruction first, where it can (R259). -/
def State.squadStop (s : State) (key q : Nat) : State :=
  let t := s.tm key
  let x := t.squad q
  if (match x.run with | .halting _ => !(t.stepping == some q && t.canStep q) | _ => false) then
    match x.amids with
    | m :: _ => s.setTm key (t.toAmid q m)
    | [] =>
      let s := s.cease key q
      if s.quiet key q then
        let t := s.tm key
        let t := if t.stepping = some q then { t with stepping := none } else t
        let x := { t.squad q with run := .stopped, latch := none }
        if t.handling.isSome then s.setTm key (t.setSquad q x)
        else
          let t := t.mapLanes q (List.range 32) fun _ th =>
            { th with haltPc := th.pc, windows := [], skid := if th.wait.stands then th.skid - 1 else th.skid }
          s.setTm key (t.setSquad q { x with haltCyc := s.cycle t.core })
      else s
  else s

/-- `SQUAD_STOPPED` (R126, R243). -/
def execSquadStopped (sq : Nat) (s : State) : Out3 := .next (s.squadStop s.who sq)

/-- `HANDLER_ENTRY` (R246, R252, R260): the team has halted with a cause and no debugger holds it. -/
def execHandlerEntry (s : State) : Out3 :=
  let t := s.tm s.who
  .next (if t.phase == .running && t.halting && t.halted && !t.held && !t.waking && !t.squads.isEmpty
    && (s.ctx (s.launchOf t).ctx).phase != .freezing then s.handler s.who else s)

end Sys2Proof.Machine
end

