-- ==== Sys2Proof/Machine/Links.lean ====
section
/-!
DEFINITION. Ports (R18 to R27): flits and link retry, training, packets, fences, markers, failure, inbound requests at their home slice
(R33, R34, R40, R44, R45), and uncorrectable errors of a stack. The port, destination or line that an event concerns is `who`.
-/
namespace Sys2Proof.Machine

/-- Change a port. -/
def State.onPort (s : State) (k : Nat) (f : Port → Port) : State := s.setPort k (f (s.port k))

/-- Sequence number a is at or after b, modulo 2^12. -/
def seqFrom (b a : Nat) : Bool := (a + 4096 - b) % 4096 < 2048

/-- Send again the flits that a port has outstanding from a sequence number on (R20). -/
def State.resend (s : State) (k seq : Nat) : State :=
  let p := s.port k
  ((p.replay.take replayRoom).filter fun f => seqFrom seq f.1.seq.toNat).foldl (fun s f => s.send (.flit k f.1)) s

/-- An acknowledged number frees the flits up to it, and flits that waited for room are sent (R20). -/
def State.ackFlits (s : State) (k ack : Nat) : State :=
  let p := s.port k
  let rest := p.replay.dropWhile fun f => seqFrom f.1.seq.toNat ack
  let n := p.replay.length - rest.length
  if n = 0 then s
  else
    let s := s.setPort k { p with replay := rest, oldest := 0 }
    ((rest.take replayRoom).drop (replayRoom - n)).foldl (fun s f => s.send (.flit k f.1)) s

/-- A port asks for the flit it misses, and counts the request (R20). A flit that is discarded while another is missing, and whose own number
cannot be known, is asked for so too, at once, and counts toward the 16 of the missing number (log 70, DESIGN CHOICE). -/
def State.askReplay (s : State) (k : Nat) : State :=
  let p := s.port k
  let n := match p.missing with | some (n, _) => n | none => 0
  (s.setPort k { p with missing := some (n + 1, 0), replays := min 0xFFFF (p.replays + 1) }).send (.replayRequest k p.expect)

/-- The half-lines of a message's data whose carried check value fails (R21, R23). -/
def badHalves (m : FabMsg) : Nat :=
  let c := carried m.data
  let touch (h : Nat) : Bool := match m.op with
    | .store => m.cells.any fun c => c.1 / 64 == h
    | _ => decide (64 * h < m.data.length)
  (if touch 0 && c.1 != m.checkLo then 1 else 0) + (if touch 1 && c.2 != m.checkHi then 1 else 0)

/-- A message as it arrives on a port, in plain; none where its tag fails (R40). -/
def State.arrived (s : State) (k : Nat) (m : FabMsg) : Option FabMsg :=
  if guarded (s.port k) m.world then s.unprotect m.src.toNat m else some m

/-- A port delivers a message (R15, R21): failed half-lines are counted, of protected traffic those in plain (R40, R42); a request goes to its home
slice, marked where one has failed; an answer is the outcome of the accesses to its line, as failed where its tag or a half-line fails
(log 56, DESIGN CHOICE). A device without an identity accepts none. -/
def State.deliverMsg (s : State) (k : Nat) (m : FabMsg) : State :=
  if !s.fabValid then s
  else
    let d := s.arrived k m
    let n := (d.map badHalves).getD 0
    let s := s.onPort k fun p => { p with checks := min 15 (p.checks + n) }
    match m.op with
    | .answer r => { s with heard := s.heard.put m.line (if d.isNone then .tagFail else if n != 0 then .checkFail else r) }
    | _ => { s with inreqs := s.inreqs ++ [{ port := k, msg := m, bad := n != 0 }] }

/-- A flit of these kinds takes a sequence number (R20; log 15, DESIGN CHOICE). -/
def sequenced : FlitKind → Bool
  | .traffic | .fence _ | .management => true
  | .idle | .training => false

/-- `FLIT_RECEIVE` (R20, R21): a flit as its sender formed it, and the bytes that the link has changed. What arrives in order is delivered, with the
last flit of its message, and acknowledged, and what has been delivered before is acknowledged again (log 15, DESIGN CHOICE). -/
def execFlitReceive (f : Flit) (errs : List (Nat × Byte)) (s : State) : Out3 :=
  let k := s.who
  let p := s.port k
  let repaired := errs.any fun e => e.2 != 0
  .next (if p.mode != 1 || !p.up then s
    else if !fecCorrects errs || !f.whole then s.askReplay k
    else
      let s := s.onPort k fun p => { p with fecfix := if repaired then min 0xFFFFFFFF (p.fecfix + 1) else p.fecfix }
      let s := s.ackFlits k f.ack.toNat
      if !sequenced f.kind then s
      else if f.seq.toNat = p.expect then
        let s := s.onPort k fun p => { p with expect := (p.expect + 1) % 4096, missing := none }
        (if f.ends then f.msgs.foldl (fun s m => s.deliverMsg k m) s else s).sendAck k
      else if seqFrom p.expect f.seq.toNat then (if p.missing.isNone then s.askReplay k else s)
      else s.sendAck k)

/-- `REPLAY_REQUEST` (R20). -/
def execReplayRequest (seq : BitVec 12) (s : State) : Out3 :=
  .next (if (s.port s.who).mode = 1 ∧ (s.port s.who).up = true then s.resend s.who seq.toNat else s)

/-- `REPLAY_REQUEST_REPEAT` (R20): 2 µs without the missing flit. -/
def execReplayRequestRepeat (s : State) : Out3 :=
  let p := s.port s.who
  .next (match p.missing with
    | some (n, t) => if p.up && decide (200 ≤ t) && decide (n < 16) then s.askReplay s.who else s
    | none => s)

/-- `ACK_TIMEOUT_RESEND` (R20): 4 µs without an acknowledgement. -/
def execAckTimeoutResend (s : State) : Out3 :=
  let p := s.port s.who
  .next (match p.replay with
    | [] => s
    | f :: _ =>
      if p.mode = 1 ∧ p.up = true ∧ 400 ≤ p.oldest then (s.resend s.who f.1.seq.toNat).onPort s.who fun p => { p with oldest := 0 }
      else s)

/-- A port reset begins (R13, R20): the port trains, holding its replay buffer. -/
def State.startRetrain (s : State) (k : Nat) : State :=
  s.onPort k fun p =>
    if p.mode = 0 ∨ p.state = 1 then p
    else { p with state := 1, width := 0, training := some 0, missing := p.missing.map fun _ => (0, 0) }

/-- `RETRAIN` (R13, R18, R20): `PORTCTL.RETRAIN` is written from the management world. -/
def execRetrain (w : World) (s : State) : Out3 :=
  .next (if w = 1 ∧ s.who < 36 then s.startRetrain s.who else s)

/-- `RETRAIN_AFTER_REPLAYS` (R20): 16 requests for one sequence number. -/
def execRetrainAfterReplays (s : State) : Out3 :=
  let p := s.port s.who
  .next (match p.missing with
    | some (n, _) => if p.up && decide (16 ≤ n) then s.startRetrain s.who else s
    | none => s)

/-- An operation in flight fails in some of its units with the lost-path code (R27). -/
def State.loseFlight (s : State) (k : Nat) (sel : LaneAcc → Bool) : State :=
  match s.flights.find k with
  | none => s
  | some f =>
    let hit (a : LaneAcc) : Bool := !a.performed && sel a
    let f' := { f with rel := none, lanes := f.lanes.map fun a => if hit a then { a.fail (.integrity, 4) with replied := true } else a }
    let s := (f.lanes.filter hit).foldl (fun s a => s.failLane k f a (.integrity, 4)) { s with flights := s.flights.put k f' }
    match s.flights.find k with
    | none => s
    | some f => if f.lanes.all (·.replied) then s.finish k f else s

/-- Releases that can never perform are lost (R27): those in flight fail with their operation; the others are seen by who makes
them. -/
def State.loseReleases (s : State) (bad : Release → Bool) : State :=
  let s := s.mapReleases fun r => if bad r then { r with lost := true } else r
  (s.flights.filter fun f => match f.2.rel with | some r => r.lost | none => false).foldl (fun s f => s.loseFlight f.1 fun _ => true) s

/-- Operations sent and not acknowledged complete as failed (R27): units of operations in flight and requests of agents to places of `sel`, and
the releases that depend on them; of a copy the units and the counter add that wait for their answers (R208, R210). -/
def State.loseOps (s : State) (tags : List Nat) (sel : Nat → Bool) (bad : Release → Bool) : State :=
  let remote (a : LaneAcc) : Bool := match a.place with | .glob key => isRemote key && sel key | _ => false
  let s := s.loseReleases fun r => bad r || r.stores.any tags.contains
  let s := tags.foldl (fun s k => s.loseFlight k remote) s
  let lose (r : AgentReq) : AgentReq := if r.res.isNone && sel r.key then { r with res := some .lost } else r
  let areqs : Map AgentReq := (s.areqs.map fun r => (r.1, if tags.contains r.1 then lose r.2 else r.2)).filter fun r => r.2.agent != 0 || r.2.res.isNone
  tags.foldl (fun s k => if (s.flights.find k).isSome || (s.areqs.find k).isSome then s else s.acked k) { s with areqs }

/-- A device is reached by the next hop of a port (R20; log 20, DESIGN CHOICE). -/
def State.hopOf (s : State) (p : Port) (dev : Nat) : Bool :=
  let r := s.routes.look {} dev
  r.hop == p.hop && r.eth == (p.mode == 2)

/-- What a Decam port that has gone Down leaves goes to another port of the same next hop (R20): its flits, its counts, the operations that wait
for their homes, and its fences; of a fence that the old port had delivered, a new flit is sent there with the count of the operations
still open (log 70, DESIGN CHOICE). -/
def State.moveTo (s : State) (p : Port) (k j : Nat) : State :=
  let s := p.replay.foldl (fun s f => s.sendFlit j f.1.kind f.1.msgs f.2 f.1.part) s
  let s := (p.fences.filter fun f => !p.replay.any fun x => x.2 == f.1).foldl (fun s f => s.sendFlit j (.fence f.2.length) [] f.1) s
  let s := s.onPort j fun q =>
    { q with sent := p.sent.foldl (fun m e => m.put e.1 (m.look [] e.1 ++ e.2)) q.sent
             opens := q.opens ++ p.opens.filter fun x => !q.opens.contains x
             fences := q.fences ++ p.fences }
  s.mapReleases fun r => { r with ports := r.ports.map fun x => if x.1 = k then (j, x.2) else x }

/-- Markers in flight to a destination are sent again down a replacement path, the next one (R26; log 70, DESIGN CHOICE). -/
def State.remark (s : State) (d : Nat) (hit : Mark → Bool) : State :=
  let c := s.conns.look {} d
  let paths := max 1 (min 64 (s.routes.look {} d).paths)
  let move (m : Mark) : Mark := if hit m then { m with path := (m.path + 1) % paths } else m
  let s := (c.marks.filter hit).foldl (fun s m => s.send (.marker d (move m))) s
  { s with conns := s.conns.put d { c with marks := c.marks.map move } }

/-- A path to a destination fails (R26): a marker in flight on it is sent again on a replacement path. -/
def State.pathFail (s : State) (d path : Nat) : State :=
  if (s.conns.find d).isSome then s.remark d fun m => m.path == path else s

/-- What a port that has gone Down leaves (R20, R26, R27): the flits of its replay buffer are sent on another Up or Degraded port of the same
next hop, or its requests and fences fail; in Ethernet mode the markers in flight are sent again. -/
def State.reroute (s : State) (k : Nat) : State :=
  let p := s.port k
  let other := (List.range 36).find? fun j => let q := s.port j; j != k && q.up && q.mode == p.mode && q.hop == p.hop
  let s := s.setPort k { p with replay := [], sent := [], opens := [], fences := [], oldest := 0 }
  if p.mode = 2 then
    s.conns.foldl (fun s c => if s.hopOf p c.1 then s.remark c.1 fun _ => true else s) s
  else match other with
  | some j => s.moveTo p k j
  | none =>
    let stranded := !p.fences.isEmpty || p.replay.any fun f => f.1.msgs.any fun m => match m.op with | .answer _ => false | _ => true
    if stranded then s.loseOps p.opens (fun key => s.hopOf p (deviceOf key)) fun r => r.ports.any fun x => x.1 == k
    else s.onPort k fun q => { q with opens := p.opens, sent := p.sent }

/-- A port goes Down (R20). -/
def State.portDown (s : State) (k : Nat) : State :=
  (s.onPort k fun p => { p with state := 0, width := 0, training := none, missing := none }).reroute k

/-- Training ends with the lanes that have trained (R13, R18, R20): Up, Degraded on an adjacent pair, or Down; what is outstanding is sent
again. The reset clears the replay buffer once that has been done to the end, as what it holds is acknowledged (log 70, DEDUCED). -/
def State.trained (s : State) (k : Nat) (lanes : BitVec 4) : State :=
  let up (st width : Nat) : State :=
    let s := s.onPort k fun p => { p with state := st, width, training := none, lanes := lanes.toNat, oldest := 0 }
    ((s.port k).replay.take replayRoom).foldl (fun s f => s.send (.flit k f.1)) s
  if lanes = 15 then up 2 4
  else if lanes.extractLsb' 0 2 = 3 ∨ lanes.extractLsb' 2 2 = 3 then up 3 2
  else s.portDown k

/-- `RETRAIN_COMPLETE` (R20). -/
def execRetrainComplete (lanes : BitVec 4) (s : State) : Out3 :=
  let p := s.port s.who
  .next (if p.state = 1 ∧ p.training.isSome then s.trained s.who lanes else s)

/-- `PORT_TRAINING_COMPLETE` (R18). -/
def execPortTrainingComplete (lanes : BitVec 4) (s : State) : Out3 :=
  let p := s.port s.who
  .next (if p.state = 1 ∧ p.training.isNone then s.trained s.who lanes else s)

/-- `RETRAIN_DEADLINE` (R20): 100 ms of the 100 MHz clock. -/
def execRetrainDeadline (s : State) : Out3 :=
  .next (match (s.port s.who).training with
    | some t => if 10000000 ≤ t then s.portDown s.who else s
    | none => s)

/-- `ETHERNET_PACKET_RECEIVE` (R22, R23, R43): a packet whose tag fails is not delivered (log 77, DESIGN CHOICE); from a CZ-512 the carried check
values are verified, from another endpoint they are made. -/
def execEthernetPacketReceive (m : FabMsg) (cz : Bool) (s : State) : Out3 :=
  let p := s.port s.who
  .next (if p.mode != 2 || !p.up then s
    else match s.unprotect (channel p m.src.toNat) m with
    | none => s
    | some m =>
      let c := carried m.data
      s.deliverMsg s.who (if cz then m else { m with checkLo := c.1, checkHi := c.2 }))

/-- `FENCE_COMPLETE` (R25): the oldest fence of the port returns, for every release that waits for it; on a direct link only once the
operations it counts are acknowledged. -/
def execFenceComplete (s : State) : Out3 :=
  let p := s.port s.who
  .next (match p.fences with
    | [] => s
    | (n, ops) :: fs =>
      if !p.switched && !ops.isEmpty then s
      else (s.setPort s.who { p with fences := fs }).mapReleases fun r => { r with ports := r.ports.filter fun y => y != (s.who, n) })

/-- `FLUSH_MARKER_RECEIVE` (R26): distinct markers of an epoch of a source are gathered; with all of them the epoch is acknowledged. -/
def execFlushMarkerReceive (epoch path used : Nat) (s : State) : Out3 :=
  let src := s.who
  let old : Gather := (s.gathers.find? fun g => g.src == src && g.epoch == epoch).getD { src, epoch, need := used, have_ := [] }
  let g : Gather := { old with have_ := if old.have_.contains path then old.have_ else path :: old.have_ }
  let full := !g.acked && decide (g.need ≤ g.have_.length)
  let rest := s.gathers.filter fun g => !(g.src == src && g.epoch == epoch)
  let s' := { s with gathers := rest ++ [{ g with acked := g.acked || full }] }
  .next (if full then s'.send (.epochAck src epoch) else s')

/-- `EPOCH_ACK_RECEIVE` (R26). -/
def execEpochAckReceive (epoch : Nat) (s : State) : Out3 :=
  let d := s.who
  let c := s.conns.look {} d
  let s : State := { s with conns := s.conns.put d { c with marks := c.marks.filter fun m => m.epoch != epoch } }
  .next (s.mapReleases fun r => { r with dests := r.dests.filter fun x => x != (d, epoch) })

/-- `CONNECTION_TIMEOUT` (R27): the transport abandons a connection; its operations and the releases that wait for it fail. -/
def execConnectionTimeout (s : State) : Out3 :=
  let d := s.who
  let c := s.conns.look {} d
  let waits := s.releases.any fun r => r.dests.any fun x => x.1 == d
  .next (if c.age < s.failTimeout ∨ (c.unacked.isEmpty ∧ !waits) then s
    else
      ({ s with conns := s.conns.put d { c with unacked := [], sprayed := 0, marks := [], age := 0 } } : State).loseOps c.unacked.eraseDups
        (fun key => deviceOf key == d) fun r => r.dests.any fun x => x.1 == d)

/-- What a failed access answers to the requester on the fabric (R34, R40, R44, R52). -/
def resOf (f : Fail) : FabricRes :=
  match f.1 with
  | .world => .world | .poison => .poison | .ingotAccess => .ingot | _ => .checkFail

/-- The data a request stores carry the check values it came with (R21, R43, R45): a whole half-line keeps them, failed or not; in a
partial half-line failed data are dropped. -/
def State.storeCarried (s : State) (w : World) (a : Nat) (m : FabMsg) (bad : Bool) : Except Fail State :=
  let cells := m.cells.map fun c => (a / 128 * 128 + c.1, c.2)
  if bad && partialStore cells then s.store w cells .checkFail
  else match s.store w cells with
  | .error f => .error f
  | .ok s =>
    let keep (s : State) (h : Nat) (v : BitVec 24) : State :=
      if !cells.any fun c => c.1 / 64 * 64 == h then s
      else s.setLine h (if h % 128 < 64 then { s.line h with checkLo := v } else { s.line h with checkHi := v })
    .ok (if bad then keep (keep s (a / 128 * 128) m.checkLo) (a / 128 * 128 + 64) m.checkHi else s)

/-- The atomics of a request at its line, lane by lane (R153, R162): the old values, or the first failure; `res` says whether the operands
passed their check. -/
def State.serveLanes (s : State) (w : World) (line n : Nat) (res : FabricRes) : List (Nat × (Nat → Option Nat)) → FabricRes × List Byte × State
  | [] => (.ok, [], s)
  | (off, f) :: rest =>
    match s.atomic w (line + off) n f res with
    | .error e => (resOf e, [], s)
    | .ok (old, s) => let r := s.serveLanes w line n res rest; (r.1, toBytes n old ++ r.2.1, r.2.2)

/-- A request is served at its home slice (R33, R34, R45, R162): the answer, the data slots of the answer, and the state. -/
def State.serve (s : State) (m : FabMsg) (bad : Bool) : FabricRes × List Byte × State :=
  let a := m.addr.toNat % 2 ^ 44
  let line := a / 128 * 128
  let res : FabricRes := if bad then .checkFail else .ok
  let operands (ty : BitVec 6) (count : Nat) : List (Nat × List Nat) := operandsOf (tyBytes ty) count m.data.length m.data
  match m.op with
  | .load n => (match s.load m.world a n with
    | .ok bs => (.ok, padTo 128 (List.replicate (a % 128) 0 ++ bs), s)
    | .error e => (resOf e, [], s))
  | .store => (match s.storeCarried m.world a m bad with | .ok s => (.ok, [], s) | .error e => (resOf e, [], s))
  | .atomic op ty => s.serveLanes m.world line (tyBytes ty) res ((operands ty 1).map fun l =>
      (l.1 % 128, fun old => some (atomNew op ty old (l.2.getD 0 0))))
  | .cas ty => s.serveLanes m.world line (tyBytes ty) res ((operands ty 2).map fun l =>
      (l.1 % 128, fun old => if old = l.2.getD 0 0 then some (l.2.getD 1 0) else none))
  | .answer _ => (.ok, [], s)

/-- Answer a request on the port it came by (R19, R20, R22, R23, R40): with its data, their check values, and the protection of its traffic. -/
def State.answerMsg (s : State) (k : Nat) (m : FabMsg) (x : FabricRes × List Byte × State) : State :=
  let c := carried x.2.1
  x.2.2.sendMsg k m.src.toNat { m with src := BitVec.ofNat 20 s.device, op := .answer x.1, data := x.2.1, checkLo := c.1
                                       checkHi := c.2, ctr := 0, tag := [] } 0

/-- `FABRIC_REQUEST` (R15, R31, R33, R34, R40): a request that a port has delivered is served, or failed. -/
def execFabricRequest (m : FabMsg) (s : State) : Out3 :=
  let k := s.who
  let p := s.port k
  .next (match s.inreqs.find? fun r => r.port == k && r.msg == m with
    | none => s
    | some r =>
      let s : State := { s with inreqs := s.inreqs.erase r }
      if p.world != 1 && p.world != m.world then s.answerMsg k m (.world, [], s)
      else if m.addr.toNat / 2 ^ 44 != s.device then s.answerMsg k m (.lost, [], s)
      else if !guarded p m.world then s.answerMsg k m (s.serve m r.bad)
      else match s.unprotect m.src.toNat m with
        | none => s.answerMsg k m (.tagFail, [], s)
        | some d =>
          let (tx, rx) := s.pairKeys.look (0, 0) m.src.toNat
          let s : State := { s with pairKeys := s.pairKeys.put m.src.toNat (tx, max rx (m.ctr.toNat + 1)) }
          s.answerMsg k d (s.serve d r.bad))

/-- `HBM_UNCORRECTABLE_ERROR` (R44): the line is poisoned, with no event. -/
def execHbmUncorrectableError (s : State) : Out3 :=
  .next (if isLocal s.who then s.setLine s.who { s.line s.who with poison := true } else s)

end Sys2Proof.Machine
end

