-- ==== Sys2Proof/Machine/Package.lean ====
section
/-!
DEFINITION. The package (R5 to R14): clocks, power states, resets and the boot chain's measurements (R46), and the rekeying of the
die-to-stack links (R39). The die or the direction that an event concerns is `who`.
-/
namespace Sys2Proof.Machine

/-- `CLOCK_THROTTLE_STEP` (R7): one compute die's arithmetic clock moves by 25 MHz between 350 and 700 MHz. -/
def execClockThrottleStep (up : Bool) (s : State) : Out3 :=
  let step (c : Nat) : Nat := if up then min 700 (c + 25) else max 350 (c - 25)
  .next { s with clocks := s.clocks.modify s.who step }

/-- Extend a measurement register (R46). -/
def State.extend (s : State) (k : Nat) (digest : List Byte) : State :=
  { s with meas := s.meas.put k (sha384 (s.meas.look (List.replicate 48 0) k ++ digest)) }

/-- Extend a register with a digest whose content the specification does not give (R36, R46, R52, R53, R256, log 19, DESIGN CHOICE). -/
def State.extendFree (s : State) (k : Nat) : State :=
  ({ s with free := s.free + 1 } : State).extend k ((List.range 48).map (Config.bytes (2 ^ 40 + s.free)))

/-- The digest that the boot chain extends a register with: of fixed images, and of the fuses (R46, log 17, PRESUMED). -/
def State.bootDigest (s : State) (k : Nat) : List Byte :=
  (List.range 48).map (Config.bytes (2 ^ 41 + (if k = 1 then 2 ^ 41 + s.fuseVersion * 2 ^ 32 + s.fuseDebug else k)))

/-- What a reset leaves (R8, R12, R13, R14, R35, R38, R39, R46, R47, R54, R157): the fuses, what the outside holds (memory of the host
and of other devices, how devices are reached) and, of a warm reset, the ports' lane settings; fresh keys, identifiers and secrets; the
model's own counters run on. -/
def State.cleared (s : State) (warm : Bool) : State :=
  let e := s.entropy
  let port (p : Port) : Port := { hop := p.hop, switched := p.switched, lanes := if warm then p.lanes else 0 }
  { State.reset with
    stepping := s.stepping, fuseVersion := s.fuseVersion, fuseDebug := s.fuseDebug, fuseSecret := s.fuseSecret
    mgmtBase := s.mgmtBase, mgmtSize := s.mgmtSize, routes := s.routes
    ports := (s.ports.map fun x => (x.1, port x.2)).filter fun x => x.2 != ({} : Port)
    mem := s.mem.filter fun c => !isLocal c.1
    boot := { bootId := e, serial := e + 1, links := e + 2, wrap := e + 14 }
    worlds := [(0, (e + 15, 0)), (1, (e + 16, 0))], entropy := e + 17
    agenda := s.agenda, out := s.out, free := s.free, fresh := s.fresh }

/-- Boot runs from the first stage: each stage is measured (R46). -/
def State.booted (s : State) : State := (List.range 8).foldl (fun s k => s.extend k (s.bootDigest k)) s

/-- `COLD_RESET` (R13). -/
def execColdReset (s : State) : Out3 := .next (s.cleared false).booted

/-- The package has power (log 18, DESIGN CHOICE). -/
def State.powered (s : State) : Bool := s.power == .d0 || s.power == .d3hot

/-- `WARM_RESET` (R13, R14). -/
def execWarmReset (s : State) : Out3 := .next (if s.powered then (s.cleared true).booted else s)

/-- `POWER_LOSS` (R12). -/
def execPowerLoss (s : State) : Out3 := .next { s.cleared false with power := .off }

/-- `THERMAL_TRIP` (R9): the next operation is a cold reset. -/
def execThermalTrip (s : State) : Out3 := .next (if s.powered then { s.cleared false with power := .off } else s)

/-- A freeze, a drain or a resume is in progress (R11; log 55, DEDUCED). -/
def State.moving (s : State) : Bool :=
  s.ctxs.any fun x => x.2.phase == .freezing || x.2.phase == .draining || x.2.resuming || x.2.restored || x.2.ends

/-- `D3HOT_ENTRY` (R11): while a freeze is in progress the entry waits; resident contexts are frozen by the firmware; with none
resident and none on the move, the compute dies are clock-gated (log 55, DEDUCED). -/
def execD3hotEntry (s : State) : Out3 :=
  let cs := s.contexts.filter fun c => !(s.ctxTeams c).isEmpty
  .next (if s.power != .d0 then s
    else if s.moving then { s with d3wait := true }
    else if cs.isEmpty then { s with power := .d3hot, d3wait := false }
    else cs.foldl (fun s c =>
      match s.claimReserve c with
      | some s => (s.onCtx c fun x => { x with d3 := true, desc := 0 }).beginFreeze c
      | none => s) { s with d3wait := true })

/-- `D0_RETURN` (R11): the contexts frozen for D3hot resume by `AUTO_RESUME`, and an entry that waits is given up. -/
def execD0Return (s : State) : Out3 := .next (if s.power = .d3hot ∨ s.d3wait = true then { s with power := .d0, d3wait := false } else s)

/-- `D3COLD_ENTRY` (R11): the compute dies and the stacks lose their contents, and every context is lost. -/
def execD3coldEntry (s : State) : Out3 :=
  .next (if !s.powered then s
    else { s with power := .d3cold, d3wait := false, teams := [], flights := [], copies := [], launches := [], ctxs := [], ecc := [], reqs := []
                  cores := (s.cores.map fun c => (c.1, ({ fenced := c.2.fenced } : Core))).filter fun c => c.2 != ({} : Core)
                  clusterTlb := [], remote := [], presence := [], lines := [], mem := s.mem.filter fun c => !isLocal c.1 })

/-- Bits cross a direction of a die-to-stack link (R39; log 76, DESIGN CHOICE): with 2^40 bits under the present key the next step of the
direction is its rekeying, and no more cross. -/
def State.cross (s : State) (dir bits : Nat) : State :=
  if dir < 24 then { s with crossed := s.crossed.put dir (min (8 * rekeyAfter) (s.crossed.look 0 dir + bits)) } else s

/-- `LINK_REKEY` (R39): after 2^40 bits of a direction of a link both ends move to the next key. -/
def execLinkRekey (s : State) : Out3 :=
  let k := (s.linkKeys.look (0, 0) s.who).1 + 1
  .next (if s.who < 24 ∧ 8 * rekeyAfter ≤ s.crossed.look 0 s.who then
    { s with linkKeys := s.linkKeys.put s.who (k, k), crossed := s.crossed.del s.who } else s)

end Sys2Proof.Machine
end

