-- ==== Sys2Proof/Machine/Trust.lean ====
section
/-!
DEFINITION. Worlds and keys (R30 to R57): the assign command, realm worlds, TDISP, SPDM, the vendor-defined requests, ingots, and the
handover of contexts. The region, function, world, register or context that an event concerns is `who`.
-/
namespace Sys2Proof.Machine

/-- The world-map entry of a region by its index. -/
def State.regionAt (s : State) (r : Nat) : Region := s.region (r * 2 ^ 21)
/-- Replace the world-map entry of a region. -/
def State.setRegion (s : State) (r : Nat) (x : Region) : State := { s with wmap := s.wmap.put r x }

/-- `ASSIGN` (R32, R35): the region begins to be scrubbed; a second command for it waits its turn (log 53, DEDUCED). -/
def execAssign (w : World) (s : State) : Out3 :=
  let r := s.who
  let x := s.regionAt r
  .next (if 2 ^ 23 ≤ r ∨ s.inMgmt (r * 2 ^ 21) ∨ x.ingot ∨ x.state = 2 ∨ !s.exists_ w then s
    else { s.setRegion r { x with state := 1 } with assigns := s.assigns ++ [{ region := r, world := w }] })

/-- A key lies in a region. -/
def inRegion (r key : Nat) : Bool := isLocal key && key / 2 ^ 21 == r

/-- The lines of a region are scrubbed (R35, R38): cached copies are dropped without write-back, every byte is zero with fresh check
values and clear attributes, GEN advances and the region has its new world; with GEN at its end it is retired. -/
def State.scrub (s : State) (r : Nat) (w : World) : State :=
  let x := s.regionAt r
  let core (c : Core) : Core :=
    { c with l1d := c.l1d.filter fun l => !inRegion r l.key, l1i := c.l1i.filter fun l => !inRegion r l.key }
  let s : State := { s with cores := (s.cores.map fun c => (c.1, core c.2)).filter fun c => c.2 != ({} : Core) }
  if x.gen = 0xFFFFFFFF then s.setRegion r { x with state := 2 }
  else
    ({ s with mem := s.mem.filter fun c => !inRegion r c.1, lines := s.lines.filter fun l => !inRegion r (l.1 * 128) } : State).setRegion r
      { x with gen := x.gen + 1, world := w, state := 0 }

/-- `ASSIGN_COMPLETE` (R35): the commands for a region are carried out in the order they came (log 53, DEDUCED). -/
def execAssignComplete (s : State) : Out3 :=
  let r := s.who
  .next (match s.assigns.find? fun a => a.region == r with
    | none => s
    | some a =>
      let rest := s.assigns.erase a
      let s := ({ s with assigns := rest } : State).scrub r a.world
      if rest.any fun b => b.region == r then
        (if (s.regionAt r).state = 2 then { s with assigns := rest.filter fun b => b.region != r }
         else s.setRegion r { s.regionAt r with state := 1 })
      else s)

/-- `WORLD_CREATE` (R36): a realm for a virtual function before its interface is locked, or for the VM of a control core, which takes it
at once; the lowest free identifier, with a fresh root key. `MEAS8` takes the identifier and the requester (log 17,
PRESUMED), which is the function or the VM that the realm is for (log 79, DESIGN CHOICE). -/
def execWorldCreate (s : State) : Out3 :=
  let f := s.who
  let vf := 1 ≤ f && f ≤ 254
  let vm := 256 ≤ f && f < 272
  .next (if !vf && !vm || (s.fn f).locked || (vm && 2 ≤ (s.fn f).world.toNat) then s
    else match (List.range 256).find? fun w => decide (2 ≤ w) && (s.worlds.find w).isNone with
    | none => s
    | some w =>
      let s : State := { s with worlds := s.worlds.put w (s.entropy, f), entropy := s.entropy + 1 }
      (if vm then s.setFn f { s.fn f with world := BitVec.ofNat 8 w, serving := true } else s).extend 8
        (sha384 (toBytes 1 w ++ toBytes 2 f)))

/-- `TDISP_INTERFACE_LOCK` (R28): a virtual function takes the world of its realm. -/
def execTdispInterfaceLock (w : World) (s : State) : Out3 :=
  let f := s.who
  let its := match s.worlds.find w.toNat with | some x => x.2 == f | none => false
  .next (if 1 ≤ f && f ≤ 254 && 2 ≤ w.toNat && its && s.exists_ w && !(s.fn f).locked then
      s.setFn f { s.fn f with world := w, locked := true, serving := true }
    else s)

/-- A slot is erased (R53): the lines of its bindings are zero with fresh check values, and no longer sealed. -/
def State.releaseSlot (s : State) (k : Nat) : State :=
  match s.slots.find k with
  | none => s
  | some x =>
    let bound (line : Nat) : Bool := x.binds.any fun b => decide (b.start ≤ line) && decide (line < b.start + b.lines)
    let clean (m : LineMeta) : LineMeta := { retracted := m.retracted }
    let lines : Map LineMeta := s.lines.filterMap fun e => if !bound e.1 then some e
      else if clean e.2 = {} then none else some (e.1, clean e.2)
    let s : State := { s with slots := s.slots.del k, lines, mem := s.mem.filter fun c => !(isLocal c.1 && bound (c.1 / 128)) }
    let sealed (r : Nat) : Bool := s.lines.any fun e => e.2.ingot && e.1 / 2 ^ 14 == r
    ({ s with wmap := s.wmap.map fun e => (e.1, if e.2.ingot && !sealed e.1 then { e.2 with ingot := false } else e.2) } : State).extendFree 8

/-- The last steps of a world's destruction (R36): its root key is erased, and the identifier is free. -/
def State.worldGone (s : State) (w : Nat) : State :=
  ({ s with worlds := s.worlds.del w, dying := s.dying.filter (· != w) } : State).extendFree 8

/-- Every debugger session of a world is closed (R36, R256). -/
def State.closeSessions (s : State) (w : World) : State :=
  let gone := s.sessions.filter fun x => x.2.world == w
  gone.foldl (fun s _ => s.extendFree 8) { s with sessions := s.sessions.filter fun x => x.2.world != w }

/-- The contexts of a world. -/
def State.worldContexts (s : State) (w : World) : List Nat :=
  s.contexts.filter fun c => s.ctxWorld c == w || (s.ctxLaunches c).any fun l => l.2.world == w

/-- The functions of a destroyed world serve no request (R36). -/
def Fn.orphan (w : World) (x : Fn) : Fn := if x.world = w then { x with world := 0, locked := false, serving := false } else x

/-- `WORLD_DESTROY` (R36), in its order; a port with traffic keeps the identifier until it has drained. -/
def execWorldDestroy (s : State) : Out3 :=
  let k := s.who
  let w : World := BitVec.ofNat 8 k
  .next (if k < 2 ∨ 255 < k ∨ !s.exists_ w then s
    else
      let s := s.closeSessions w
      let s := (s.worldContexts w).foldl (fun s c => s.resetFor c) s
      let s := (s.queues.filter fun q => q.2.world == w).foldl
        (fun s q => (s.setQueue q.1 { q.2.ending with key := none, running := ((s.queue? q.1).getD {}).running }).finishDestroy q.1) s
      let s := (s.slots.filter fun x => x.2.world == w).foldl (fun s x => s.releaseSlot x.1) s
      let held := s.wmap.filter fun r => r.2.world == w && r.2.state == 0
      let s := held.foldl (fun s r => s.scrub r.1 0) s
      let s : State := { s with assigns := s.assigns.map fun a => if a.world = w then { a with world := 0 } else a
                                fns := s.fns.map fun x => (x.1, x.2.orphan w)
                                ports := s.ports.map fun p => (p.1, if p.2.world = w then { p.2 with returnWorld := true } else p.2) }
      if s.ports.any fun p => p.2.returnWorld && p.2.world == w then { s with dying := s.dying ++ [k] } else s.worldGone k)

/-- `PORT_WORLD_RETURN` (R36): a port of a destroyed world whose traffic has drained returns to world 1. -/
def execPortWorldReturn (s : State) : Out3 :=
  let p := s.port s.who
  let w := p.world
  .next (if p.returnWorld && !s.busyPort s.who then
      let s := s.setPort s.who { p with world := 1, returnWorld := false }
      if s.dying.contains w.toNat && !s.ports.any fun p => p.2.returnWorld && p.2.world == w then s.worldGone w.toNat else s
    else s)

/-- `HOST_MEASUREMENT_EXTEND` (R46): of `MEAS16` to `MEAS31`. -/
def execHostMeasurementExtend (digest : List Byte) (s : State) : Out3 :=
  .next (if 16 ≤ s.who ∧ s.who ≤ 31 ∧ digest.length = 48 then s.extend s.who digest else s)

/-- The SPDM connection of a function. -/
def State.conn (s : State) (f : Nat) : Spdm := s.spdm.look {} f

/-- The responder answers a message of a function (R48, log 16, DESIGN CHOICE): where the connection is ready for it, the connection changes and the
body is sent, else an error. -/
def State.respond (s : State) (code : Nat) (ok : Spdm → Bool) (f : Spdm → Spdm) (body : List Byte := []) : State :=
  let c := s.conn s.who
  if ok c then { s with spdm := s.spdm.put s.who (f c) }.send (.spdm s.who code 0 body)
  else s.send (.spdm s.who code 1 [])

/-- A body that the SPDM standards define and this specification does not (log 16, DESIGN CHOICE). -/
def State.freeBody (s : State) (n : Nat) : List Byte := (List.range n).map (Config.bytes (2 ^ 50 + s.free))

/-- `GET_VERSION` (R48): negotiation begins anew. -/
def execGetVersion (s : State) : Out3 :=
  .next (s.respond 0x84 (fun _ => true) fun c => { c with version := true, caps := false, algs := false })
/-- `GET_CAPABILITIES` (R48). -/
def execGetCapabilities (s : State) : Out3 := .next (s.respond 0xE1 (·.version) fun c => { c with caps := true })
/-- `NEGOTIATE_ALGORITHMS` (R48): the requester offers the algorithms of the device. -/
def execNegotiateAlgorithms (offered : Bool) (s : State) : Out3 :=
  .next (s.respond 0xE3 (fun c => c.caps && offered) fun c => { c with algs := true })
/-- `GET_DIGESTS` (R48). -/
def execGetDigests (s : State) : Out3 := .next (s.respond 0x81 (·.algs) id (s.freeBody 48))
/-- `GET_CERTIFICATE` (R48). -/
def execGetCertificate (s : State) : Out3 := .next (s.respond 0x82 (·.algs) id (s.freeBody 1024))
/-- `CHALLENGE` (R48): signed by the alias key. -/
def execChallenge (s : State) : Out3 :=
  .next (({ s with free := s.free + 1 } : State).respond 0x83 (·.algs) id (s.freeBody 96))

/-- The boot identifier (R46; log 8, DESIGN CHOICE). -/
def State.bootId (s : State) : List Byte := toBytes 32 (Config.random s.boot.bootId)
/-- The public half of the ingot wrapping key, 97 bytes (R47). -/
def State.wrapKey (s : State) : List Byte := publicKey s.wrapSecret

/-- What a measurement index reports (R48). -/
def State.measurement (s : State) (k : Nat) : Option (List Byte) :=
  if 1 ≤ k ∧ k ≤ 32 then some (s.meas.look (List.replicate 48 0) (k - 1))
  else if k = 33 then some s.wrapKey
  else if k = 34 then some s.bootId
  else none

/-- `GET_MEASUREMENTS` (R48). -/
def execGetMeasurements (index : Nat) (s : State) : Out3 :=
  .next (s.respond 0xE0 (fun c => c.algs && (s.measurement index).isSome) id ((s.measurement index).getD []))
/-- `KEY_EXCHANGE` (R48). -/
def execKeyExchange (s : State) : Out3 :=
  .next (({ s with free := s.free + 1 } : State).respond 0xE4 (fun c => c.algs && c.session.isNone)
    (fun c => { c with session := some false, updates := 0 }) (s.freeBody 96))
/-- `FINISH` (R48): the handshake is complete; one that does not verify ends the session. -/
def execFinish (ok : Bool) (s : State) : Out3 :=
  .next (if (s.conn s.who).session = some false ∧ ok = false then
      (({ s with spdm := s.spdm.put s.who { s.conn s.who with session := none } } : State).respond 0xE5 (fun _ => false) id)
    else s.respond 0xE5 (fun c => c.session == some false) fun c => { c with session := some true })
/-- `KEY_UPDATE` (R48). -/
def execKeyUpdate (s : State) : Out3 :=
  .next (s.respond 0xE9 (fun c => c.session == some true) fun c => { c with updates := c.updates + 1 })
/-- `HEARTBEAT` (R48). -/
def execHeartbeat (s : State) : Out3 := .next (s.respond 0xE8 (fun c => c.session == some true) id)
/-- `END_SESSION` (R48). -/
def execEndSession (s : State) : Out3 :=
  .next (s.respond 0xEC (fun c => c.session == some true) fun c => { c with session := none })

/-- The codes of the vendor-defined requests (R49). -/
def vendorCodes : List Nat := [0x0001, 0x0002, 0x0003, 0x0010, 0x0020]

/-- A vendor-defined request with a CODE is answered inside a session (R49): one that does not succeed changes nothing. `body` gives
the STATUS of a failure, or the state and the body of the response; a response of none comes later. A payload shorter than its header names
no CODE that could be answered (log 71, DESIGN CHOICE). A function whose world is destroyed serves none (R36). -/
def State.vendor (s : State) (code : Nat) (req : List Byte) (size : List Byte → Bool)
    (body : List Byte → Except Nat (State × Option (List Byte))) : State :=
  let d := req.drop 8
  if !(s.fn s.who).serving || (s.conn s.who).session != some true || req.length < 8 || fieldAt req 0 2 != code then s
  else if !zeroAt req 2 2 || fieldAt req 4 4 != d.length || !size d then s.answer s.who code 1 []
  else match body d with
    | .error e => s.answer s.who code e []
    | .ok (s, some b) => s.answer s.who code 0 b
    | .ok (s, none) => s

/-- `VENDOR_DEFINED_REQUEST` (R49): of a CODE that the table does not list. -/
def execVendorDefinedRequest (req : List Byte) (s : State) : Out3 :=
  let code := fieldAt req 0 2
  .next (if !(s.fn s.who).serving || (s.conn s.who).session != some true || vendorCodes.contains code then s else s.answer s.who code 1 [])

/-- The shared secret of an owner's ephemeral key and the ingot wrapping key (R51): the first coordinate of the product, where the key is a
point of the curve. -/
def State.ecdh (s : State) (eph : List Byte) : Option (List Byte) :=
  (ecPoint eph).bind fun q => (ecMul s.wrapSecret (some q)).map fun p => beBytes 48 p.1

/-- The model key of a policy record (R51), where it unwraps. -/
def State.unwrap (s : State) (d : List Byte) : Option (List Byte) :=
  (s.ecdh ((d.drop 0x38).take 97)).bind fun z =>
    keyUnwrap (hkdf32 z (sha384 (d.take 0x10 ++ d.drop 0x99))) ((d.drop 0x10).take 40)

/-- The form of a policy record (R51). -/
def policyForm (d : List Byte) : Bool :=
  let n := fieldAt d 2 1
  fieldAt d 0 1 ≤ 63 && 2 ≤ fieldAt d 1 1 && 1 ≤ n && n ≤ 8 && zeroAt d 3 13 && zeroAt d 0x99 7
    && zeroAt d (0xA0 + 48 * n) (48 * (8 - n))

/-- `INGOT_INSTALL` (R49, R51). -/
def execIngotInstall (req : List Byte) (s : State) : Out3 :=
  .next (s.vendor 0x0001 req (fun d => d.length == 0x220) fun d =>
    let k := fieldAt d 0 1
    if !policyForm d then .error 1
    else if (s.slots.find k).isSome then .error 5
    else match s.unwrap d with
    | none => .error 5
    | some key =>
      if !s.exists_ (BitVec.ofNat 8 (fieldAt d 1 1)) then .error 3
      else
        let x : KeySlot := { key, world := BitVec.ofNat 8 (fieldAt d 1 1), digest := sha384 d
                             marks := (List.range (fieldAt d 2 1)).map fun j => (d.drop (0xA0 + 48 * j)).take 48 }
        .ok (({ s with slots := s.slots.put k x } : State).extend 8 (sha384 d), some []))

/-- The session of the request may act on a slot (R49): of its permitted world, or of physical function 0. -/
def State.mayAct (s : State) (x : KeySlot) : Bool := s.who == 0 || (s.fn s.who).world == x.world

/-- A slot that a request names, for a session that may act on it (R49): no such slot comes before not permitted (log 71, DESIGN CHOICE). -/
def State.slotFor (s : State) (k : Nat) : Except Nat KeySlot :=
  match s.slots.find k with
  | none => .error 3
  | some x => if s.mayAct x then .ok x else .error 4

/-- A range of lines can be bound to a slot (R52). -/
def State.canBind (s : State) (x : KeySlot) (start lines first : Nat) : Bool :=
  let region (r : Nat) : Bool := (s.regionAt r).world == x.world && (s.regionAt r).state == 0
  let r0 := start / 2 ^ 14
  let r1 := (start + lines - 1) / 2 ^ 14
  ((List.range (r1 + 1 - r0)).all fun k => region (r0 + k))
    && !(s.lines.any fun e => e.2.ingot && decide (start ≤ e.1) && decide (e.1 < start + lines))
    && !(x.binds.any fun b => decide (b.first < first + lines) && decide (first < b.first + b.lines))

/-- `INGOT_SEAL` (R49, R52): Invalid, no such object and not permitted come before refused (log 71, DESIGN CHOICE). -/
def execIngotSeal (req : List Byte) (s : State) : Out3 :=
  .next (s.vendor 0x0002 req (fun d => d.length == 0x20) fun d =>
    let k := fieldAt d 0 1; let at_ := fieldAt d 8 8; let n := fieldAt d 0x10 4; let first := fieldAt d 0x18 4
    if decide (63 < k) || !zeroAt d 1 7 || !zeroAt d 0x14 4 || !zeroAt d 0x1C 4 || at_ % 128 != 0 || n < 1 || decide (2 ^ 24 < n)
      || decide (2 ^ 44 ≤ at_) then .error 1
    else match s.slotFor k with
    | .error e => .error e
    | .ok x =>
      let start := at_ / 128
      if !s.canBind x start n first then .error 5
      else
        let s : State := { s with slots := s.slots.put k { x with binds := x.binds ++ [{ start, lines := n, first }] } }
        let s := (List.range n).foldl (fun s j => s.setLine (128 * (start + j)) { s.line (128 * (start + j)) with ingot := true }) s
        let r0 := start / 2 ^ 14
        let s := (List.range ((start + n - 1) / 2 ^ 14 + 1 - r0)).foldl
          (fun s j => s.setRegion (r0 + j) { s.regionAt (r0 + j) with ingot := true }) s
        .ok (s.extendFree 8, some []))

/-- A plane was filled from a slot (R53). -/
def Plane.from (p : Plane) (k : Nat) : Bool := match p.src with | .ingot j .. => j == k | _ => false
/-- An engine holds, or is filling, a plane from a slot. -/
def Engine.uses (e : Engine) (k : Nat) : Bool :=
  e.active.from k || e.shadow.from k || (match e.fill with | some f => f.ing == some k | none => false)

/-- A resident or frozen context has a plane loaded from a slot (R53). -/
def State.slotBusy (s : State) (k : Nat) : Bool :=
  (s.cores.any fun c => c.2.engine.uses k)
    || s.ctxs.any fun c => c.2.saved.any fun v => match v.engine with | some e => e.uses k | none => false

/-- `INGOT_RELEASE` (R49, R53): Busy comes last (log 71, DESIGN CHOICE). -/
def execIngotRelease (req : List Byte) (s : State) : Out3 :=
  .next (s.vendor 0x0003 req (fun d => d.length == 8) fun d =>
    let k := fieldAt d 0 1
    if 63 < k ∨ !zeroAt d 1 7 then .error 1
    else match s.slotFor k with
    | .error e => .error e
    | .ok _ => if s.slotBusy k then .error 2 else .ok (s.releaseSlot k, some []))

/-- `QUEUE_KEY` (R49, R64, R72): a queue that is being destroyed is none (log 71, DESIGN CHOICE). -/
def execQueueKey (req : List Byte) (s : State) : Out3 :=
  .next (s.vendor 0x0010 req (fun d => d.length == 0x28) fun d =>
    let n := fieldAt d 0 2
    if 4095 < n ∨ !zeroAt d 2 6 then .error 1
    else match s.queue? n with
    | none => .error 3
    | some q =>
      if q.destroy then .error 3
      else if (s.fn s.who).world ≠ q.world then .error 4
      else if q.state = 2 then .error 2
      else
        let again := q.state == 6
        let s := s.onQueue n fun q =>
          let q : Queue := { q with key := some ((d.drop 8).take 32), expseq := 0, exhausted := false }
          if again then { q with state := 0 }.owe else q
        .ok (s, some (toBytes 8 0)))

/-- The keep list of a pod command (R112), with its reserved bits. -/
def keepList (d : List Byte) (n : Nat) : List (Nat × Nat × Bool) :=
  (List.range n).map fun j =>
    let v := fieldAt d (8 + 8 * j) 8
    (v % 2 ^ 20, v / 2 ^ 32, v / 2 ^ 20 % 2 ^ 12 == 0)

/-- `POD_PREEMPT` (R49, R112): a session that may not ask comes before the body's form (log 71, DESIGN CHOICE); the command is relayed to every member, which here is this device and every device reached over Decam;
the answer follows their reports. -/
def execPodPreempt (req : List Byte) (s : State) : Out3 :=
  .next (s.vendor 0x0020 req (fun d => 8 ≤ d.length && d.length == 8 + 8 * fieldAt d 4 2) fun d =>
    let n := fieldAt d 4 2
    let ks := keepList d n
    let deadline := fieldAt d 0 2
    let space := fieldAt d 2 1
    if s.who ≠ 0 then .error 4
    else if 1500 < deadline ∨ 1 < space ∨ 64 < n ∨ !zeroAt d 3 1 ∨ !zeroAt d 6 2 ∨ !ks.all (·.2.2) then .error 1
    else if s.pod.isSome then .error 2
    else
      let keep := ks.map fun k => (k.1, k.2.1)
      let others := (s.routes.filter fun r => !r.2.1 && r.1 != s.device).map (·.1)
      let s : State := { s with pod := some { deadline, space, keep, members := s.device :: others, receiver := true } }
      .ok (others.foldl (fun s m => s.send (.podRelay m deadline space keep)) s, none))

/-- The ingot policies that the planes of captured engines name (R54, R56): slot and digest of the record. -/
def State.policies (s : State) (saved : List Saved) : List (Nat × List Byte) :=
  let from_ (p : Plane) : List Nat := match p.src with | .ingot k .. => [k] | _ => []
  (saved.flatMap fun v => match v.engine with | some e => from_ e.active ++ from_ e.shadow | none => []).eraseDups.filterMap fun k =>
    (s.slots.find k).map fun x => (k, x.digest)

/-- `PREPARE_SEND` (R56, R57): a frozen context goes In doubt; the peer's measurements equal the device's own. -/
def execPrepareSend (peer : List (List Byte)) (bootId : List Byte) (s : State) : Out3 :=
  let c := s.who
  let x := s.ctx c
  .next (match x.image with
    | none => s
    | some m =>
      if x.phase != .frozen || x.resuming || x.cmd.isSome || x.ends || peer != s.bootMeas then s
      else (s.onCtx c fun x => { x with phase := .inDoubt, destBoot := some bootId }).send
        (.prepare c m.serial m.chunks.length (drawn 32 m.key) (lastTag m.chunks) (s.ctxWorld c) (s.policies x.saved)))

/-- `COMMIT` (R56, R57): on a valid one the image key and every key of the context are erased, and it is migrated. -/
def execCommit (ok : Bool) (s : State) : Out3 :=
  let c := s.who
  let x := s.ctx c
  .next (if x.phase != .inDoubt || !ok then s
    else
      let room := match x.image with | some m => m.room | none => 0
      let s : State := { s with reserveUsed := s.reserveUsed - room
                                queues := s.queues.map fun q => (q.1, if q.2.ctx = c then { q.2 with key := none } else q.2) }
      s.onCtx c fun x => { x with phase := .migrated, image := none, saved := [] })

/-- The context in doubt is frozen again, and may resume where it was (R57). -/
def State.refreeze (s : State) (c : Nat) : State := s.onCtx c fun x => { x with phase := .frozen, destBoot := none }

/-- `ABORTED` (R57). -/
def execAborted (ok : Bool) (s : State) : Out3 :=
  .next (if (s.ctx s.who).phase = .inDoubt ∧ ok = true then s.refreeze s.who else s)

/-- `DESTINATION_REBOOT_DETECTED` (R57): the destination attests another boot identifier than at PREPARE. -/
def execDestinationRebootDetected (bootId : List Byte) (s : State) : Out3 :=
  let x := s.ctx s.who
  .next (if x.phase = .inDoubt ∧ x.destBoot ≠ some bootId then s.refreeze s.who else s)

/-- A handed-over context is refused before its restore begins (R56): also where its number is in use here (log 73, DESIGN CHOICE). -/
def State.refuses (s : State) (x : Inbound) : Bool :=
  !s.exists_ x.world
    || (x.policies.any fun p => match s.slots.find p.1 with | some k => k.digest != p.2 | none => true)
    || (s.ctxs.any fun c => (c.2.phase == .freezing || c.2.phase == .frozen || c.2.phase == .inDoubt)
          && c.2.image.any fun m => m.serial == x.serial)
    || (s.ctx x.ctx).phase != .running || (s.ctx x.ctx).image.isSome || !(s.ctxLaunches x.ctx).isEmpty

/-- The launches of a handed-over context take numbers of this device. -/
def State.takeLaunches (s : State) : List (Nat × Launch) → List (Nat × Nat) × State
  | [] => ([], s)
  | (k, l) :: ls =>
    let (n, s) := s.take
    let (ks, s) := ({ s with launches := s.launches.put n l } : State).takeLaunches ls
    ((k, n) :: ks, s)

/-- A number of this device for one of the source. -/
def renumber (ks : List (Nat × Nat)) (k : Nat) : Nat := match ks.find? fun p => p.1 == k with | some p => p.2 | none => k

/-- A copy of a handed-over team names the teams by the numbers of this device. -/
def Copy.rekey (ts : List (Nat × Nat)) (c : Copy) : Copy :=
  { c with team := renumber ts c.team, src := { c.src with team := c.src.team.map (renumber ts) }
           dst := { c.dst with team := c.dst.team.map (renumber ts) } }

/-- The teams of a handed-over context take numbers of this device. -/
def State.takeTeams (s : State) (ks : List (Nat × Nat)) (saved : List Saved) : List Saved × State :=
  let (ts, s) := saved.foldl (fun (x : List (Nat × Nat) × State) v => let (n, s) := x.2.take; ((v.key, n) :: x.1, s)) ([], s)
  (saved.map fun v => { v with key := renumber ts v.key, team := { v.team with launch := renumber ks v.team.launch }
                               copies := v.copies.map fun c => (c.1, c.2.rekey ts) }, s)

/-- `PREPARE` (R56): the destination checks the source's measurements, refuses with a signed ABORTED, or restores the image. -/
def execPrepare (peer : List (List Byte)) (s : State) : Out3 :=
  let c := s.who
  .next (match s.inbound.find? fun x => x.ctx == c with
    | none => s
    | some x =>
      let s : State := { s with inbound := s.inbound.erase x }
      let m : Image := { key := x.key, serial := x.serial, chunks := x.chunks, last := true }
      if peer != s.bootMeas || s.refuses x then s.handover c m false
      else
        let (ks, s) := s.takeLaunches x.launches
        let (saved, s) := s.takeTeams ks x.saved
        s.setCtx c { phase := .frozen, saved, image := some m, resuming := true, migrating := true, watches := x.watches })

end Sys2Proof.Machine
end

