-- ==== Sys2Proof/Machine/Debugger.lean ====
section
/-!
DEFINITION. The debugger (R256 to R260, R37): its commands, the state it names and the checks of what it writes. `who` is the function
whose `DBGCMD` is busy.
-/
namespace Sys2Proof.Machine

/-- STAT of a function's `DBGCMD` (R256). -/
def State.dbgStat (s : State) (f stat : Nat) : State :=
  let x := s.fn f
  s.setFn f { x with dbgcmd := (x.dbgcmd &&& 0xF0000000FFFFFFFF) ||| (BitVec.ofNat 64 stat <<< 58) }

/-- The context that a function's busy `DBGCMD` names. -/
def State.dbgcmd? (s : State) (f oper : Nat) : Option Nat :=
  let v := (s.fn f).dbgcmd
  if (v.extractLsb' 58 2).toNat = 1 ∧ (v.extractLsb' 60 4).toNat = oper then some (v.extractLsb' 0 32).toNat else none

/-- A request block (R257). -/
structure DbgReq where
  en : Nat
  tm : Nat
  stage : Nat
  sq : Nat
  ln : Nat
  space : Nat
  index : Nat
  addr : Nat
  len : Nat
  mask : Word
  buf : Nat
  widx : Nat
  wkind : Nat
  queue : Nat
  pkt : Nat

/-- Read the fields of a request block. -/
def reqOf (d : List Byte) : DbgReq where
  en := fieldAt d 0 4
  tm := fieldAt d 4 1
  stage := fieldAt d 5 1
  sq := fieldAt d 6 1
  ln := fieldAt d 7 1
  space := fieldAt d 8 1
  index := fieldAt d 0x0C 4
  addr := fieldAt d 0x10 8
  len := fieldAt d 0x18 4
  mask := BitVec.ofNat 32 (fieldAt d 0x1C 4)
  buf := fieldAt d 0x20 8
  widx := fieldAt d 0x28 1
  wkind := fieldAt d 0x29 1
  queue := fieldAt d 0x34 2
  pkt := fieldAt d 0x38 8

/-- The reserved bytes of a request block are zero (R257). -/
def reqForm (d : List Byte) : Bool := zeroAt d 0x09 3 && zeroAt d 0x2A 6 && zeroAt d 0x36 2
/-- LENGTH is in its range (R257). -/
def DbgReq.lenOk (r : DbgReq) : Bool := r.len % 4 == 0 && 4 ≤ r.len && r.len ≤ 4096

/-- The agent that serves the debugger of a context. -/
def dbgAgent (c : Nat) : Nat := agentNum .debug c

/-- The world that a debugger command of a function acts in (R31, R37): that of the session, which a later change of the function's world leaves
as it was. -/
def State.dbgWorld (s : State) (c : Nat) : World := match s.session c with | some y => y.world | none => (s.fn s.who).world

/-- A command has acted: its RESULT is written into its request block (R257), in the step that acts or in a later one; STAT is done once it is
written, or cannot be (log 22, DESIGN CHOICE). -/
def State.dbgEnd (s : State) (f c : Nat) (d : DbgDue) : State :=
  let due (s : State) (d : Option DbgDue) : State := s.setFn f { s.fn f with dbgDue := d }
  match s.agentWrite (dbgAgent c) d.world (c % 65536) d.va (toBytes 4 d.result) with
  | (.wait, s) => due s (some d)
  | (_, s) => (due s none).dbgStat f 0

/-- A debugger command (R37, R256, R257): refused for another function's context, for a realm's context from world 1, without a session
of this function, or without a request block; else it acts once on the block, and ends with a RESULT, or stays busy. -/
def State.dbg (s : State) (oper : Nat) (act : State → Nat → DbgReq → Option Nat × State) : State :=
  let f := s.who
  match s.dbgcmd? f oper with
  | none => s
  | some c =>
    let x := s.fn f
    let w := s.dbgWorld c
    let own := match s.session c with | some y => y.fn == f | none => false
    let ended (s : State) (result : Nat) : State := s.dbgEnd f c { world := w, va := x.dbgarg.toNat + 0x30, result }
    match x.dbgDue with
    | some d => s.dbgEnd f c d
    | none =>
    if !mayName f c || (w == 1 && 2 ≤ (s.ctxWorld c).toNat) || (if oper = 1 then (s.session c).isSome else !own)
      || x.dbgarg.toNat % 64 != 0 then s.dbgStat f 2
    else match s.agentRead (dbgAgent c) w (c % 65536) x.dbgarg.toNat 64 with
      | (.wait, s) => s
      | (.fail _, s) => s.dbgStat f 2
      | (.ok d, s) =>
        if !reqForm d then ended s 5
        else match act s c (reqOf d) with
          | (none, s) => s
          | (some r, s) => ended s r

/-- The team that a request block names (R257). -/
def State.dbgTeam (s : State) (c : Nat) (r : DbgReq) : Option (Nat × Team) :=
  s.teams.find? fun e =>
    let l := s.launchOf e.2
    l.ctx == c && l.queue == r.queue && l.pkt == r.pkt && e.2.stage == r.stage && e.2.en == r.en && e.2.tm == r.tm && e.2.phase != .killed

/-- A command on a team (R37, R257, R260): RESULT 4 where it names none, 2 where the session's world does not reach the team's, 1 where it
needs the team stopped and it is not. -/
def State.onDbgTeam (s : State) (c : Nat) (r : DbgReq) (stopped : Bool) (act : Nat → Team → Option Nat × State) : Option Nat × State :=
  match s.dbgTeam c r with
  | none => (some 4, s)
  | some (k, t) =>
    if t.squads.length ≤ r.sq ∨ 32 ≤ r.ln then (some 4, s)
    else if !worldAllowed (s.dbgWorld c) { world := (s.launchOf t).world } then (some 2, s)
    else if stopped && !t.halted then (some 1, s)
    else act k t

/-- A team goes on (R259): its handler runs on, is entered first where a cause is set, or its threads continue; not while a freeze halts
it, or before its resume wakes it (R102, R110). -/
def State.dbgResume (s : State) (k : Nat) : State :=
  let t := { s.tm k with held := false, stepping := none }
  let s := s.setTm k t
  if (s.ctx (s.launchOf t).ctx).phase = .freezing || t.waking then s
  else match t.phase with
  | .handler q ln _ => s.setTm k (t.handlerOn q ln)
  | .running =>
    if t.causeSquad.isSome then (if t.halted then s.handler k else s)
    else s.setTm k ({ t with threads := t.threads.mapIdx fun i th =>
      if (t.squad (i / 32)).run = Run.stopped then th else { th with haltPc := th.pc } }).continue_ |>.deadlock k
  | .killed => s

/-- `DBG_ATTACH` (R256, R259). -/
def execDbgAttach (s : State) : Out3 :=
  .next (s.dbg 1 fun s c r =>
    (some 0, ({ s with sessions := s.sessions.put c { fn := s.who, world := (s.fn s.who).world, stopMask := r.mask } } : State).extendFree 8))

/-- `DBG_DETACH` (R256, R259): of a frozen context's teams too, which then go on when it resumes (R102). -/
def execDbgDetach (s : State) : Out3 :=
  .next (s.dbg 2 fun s c _ =>
    let s := ((s.ctxTeams c).filter fun t => t.2.held).foldl (fun s t => s.dbgResume t.1) s
    let s := s.onCtx c fun x => { x with watches := List.replicate 4 {}
                                         saved := x.saved.map fun v => { v with team := { v.team with held := false, stepping := none } } }
    (some 0, ({ s with sessions := s.sessions.del c } : State).extendFree 8))

/-- `DBG_STOP` (R243, R259): done once each team has halted. -/
def execDbgStop (s : State) : Out3 :=
  .next (s.dbg 3 fun s c _ =>
    let s := (s.ctxTeams c).foldl (fun s t => s.onTm t.1 fun t =>
      if t.phase = .killed then t else { t.halt with held := true, stepping := none }) s
    if (s.ctxTeams c).all fun t => t.2.halted then (some 0, s) else (none, s))

/-- `DBG_RESUME` (R259). -/
def execDbgResume (s : State) : Out3 :=
  .next (s.dbg 4 fun s c r => s.onDbgTeam c r true fun k _ => (some 0, s.dbgResume k))

/-- `DBG_STEP` (R259): the squad issues one instruction from its halt PCs, and stops again. -/
def execDbgStep (s : State) : Out3 :=
  .next (s.dbg 5 fun s c r => s.onDbgTeam c r true fun k t =>
    let t := match t.handling with
      | some (q, ln) => t.setThread (tidOf q ln) (t.lane q ln).replayed
      | none => t.mapLanes r.sq (List.range 32) fun _ th => if th.exited then th else { th.replayed with pc := th.haltPc }
    (some 0, s.setTm k ({ t with stepping := some r.sq, held := true }.setSquad r.sq
      { (t.squad r.sq).replayed with run := .halting 1, convoy := [], latch := none, sinceForm := 4 })))

/-- The RESULT of a failed access of the debugger's (R257, R260). -/
def dbgFail (f : Fail) : Nat := match f.1 with | .world => 2 | .ingotAccess => 3 | _ => 5

/-- The special registers (R359) and their bytes. -/
def specialWidth (n : Nat) : Option Nat :=
  if n ≤ 0x11 ∨ n = 0x20 ∨ n = 0x21 ∨ (0x30 ≤ n ∧ n ≤ 0x33) then some 4 else if 0x34 ≤ n ∧ n ≤ 0x37 then some 8 else none

/-- The bytes of a tile as the debugger names them: data, scale store, tag (R345). -/
def Tile.dbgBytes (x : Tile) : List Byte :=
  (Map.dense 0 0 8192 x.data) ++ Map.dense 127 0 512 x.scales ++ toBytes 4 x.tag.toNat

/-- A plane that the debugger may read (R260). -/
def State.dbgPlane (s : State) (k : Nat) (t : Team) (shadow : Bool) : Except Nat (List Byte) :=
  let e := (s.core t.core).engine
  let p := if shadow then e.shadow else e.active
  if e.owner != some k then .error 4
  else match p.src with
  | .empty => .error 4
  | .ingot .. => .error 3
  | .memory => .ok (Map.dense 0 0 imageSize p.image)

/-- The state of a team that a request names (R257), from INDEX or ADDR on (log 22, DESIGN CHOICE). -/
def State.dbgState (s : State) (k : Nat) (t : Team) (r : DbgReq) : Except Nat (List Byte) :=
  let hdr := (s.launchOf t).hdr
  let th := t.lane r.sq r.ln
  let from_ (n : Nat) (f : Nat → List Byte) : Except Nat (List Byte) := .ok ((List.range (n - r.index)).flatMap fun j => f (r.index + j))
  match r.space with
  | 1 => from_ (8 * hdr.regs) fun j => let v := th.reg (BitVec.ofNat 8 j); toBytes 4 v.1.toNat ++ toBytes 4 v.2.toNat
  | 2 => from_ 8 fun j => toBytes 4 (th.pred (BitVec.ofNat 3 j)).toNat
  | 3 => from_ 16 fun j => toBytes 32 (t.brec (BitVec.ofNat 4 j)).toNat
  | 4 => from_ 8 fun j => toBytes 4 (t.fm j).toNat
  | 5 => if r.index < hdr.tiles then .ok ((t.tile r.index).dbgBytes.drop r.addr) else .error 5
  | 6 => if r.addr + r.len ≤ 4096 * hdr.scratch then .ok (t.sliceRead r.addr 0 r.len) else .error 5
  | 7 => match specialWidth r.index with
    | some n => .ok (toBytes n (s.specialReg t r.sq r.ln th r.index))
    | none => .error 5
  | 8 => from_ 13 fun j => toBytes 4 (t.trapWord (tidOf r.sq r.ln) j).toNat
  | 11 => if r.index ≤ 1 then (s.dbgPlane k t (r.index == 1)).map fun bs => bs.drop r.addr else .error 5
  | _ => .error 5

/-- The words of bytes. -/
def wordsOf (bs : List Byte) : List Nat := (List.range ((bs.length + 3) / 4)).map fun k => fieldAt bs (4 * k) 4

/-- Write registers from one on: values and, between them, tag codes (R258). -/
def Thread.dbgRegs (th : Thread) (d : Nat) : List Nat → Thread
  | [] => th
  | [v] => th.setReg (BitVec.ofNat 8 d) (BitVec.ofNat 32 v) (th.reg (BitVec.ofNat 8 d)).2
  | v :: g :: ws => (th.setReg (BitVec.ofNat 8 d) (BitVec.ofNat 32 v) (BitVec.ofNat 5 g)).dbgRegs (d + 1) ws

/-- A write into the state of a stopped team, checked as the matching instruction checks it (R258); `old` is that state (log 22, DESIGN CHOICE). -/
def State.dbgPut (s : State) (k : Nat) (t : Team) (r : DbgReq) (old bs : List Byte) : Except Nat State :=
  let tid := tidOf r.sq r.ln
  let th := t.thread tid
  let ws := wordsOf bs
  let v := ofBytes bs
  match r.space with
  | 1 =>
    if (List.range ws.length).any fun j => j % 2 == 1 && 24 ≤ ws.getD j 0 then .error 5
    else .ok (s.setTm k (t.setThread tid (th.dbgRegs r.index ws)))
  | 2 =>
    if ws.any fun w => 2 ≤ w then .error 5
    else .ok (s.setTm k (t.setThread tid ((List.range ws.length).foldl (fun th j =>
      th.setPred (BitVec.ofNat 3 (r.index + j)) (ws.getD j 0 == 1)) th)))
  | 3 =>
    let new := bs ++ old.drop bs.length
    let recs := (List.range ((bs.length + 31) / 32)).map fun j => (BitVec.ofNat 4 (r.index + j), BitVec.ofNat 256 (fieldAt new (32 * j) 32))
    if recs.any fun x => !(s.recordFails t x.2 x.1).isEmpty then .error 5
    else .ok (s.setTm k (recs.foldl (fun t x => t.setBrec x.1 x.2) t))
  | 4 =>
    if ws.any fun w => !Float.descValid (BitVec.ofNat 32 w) then .error 5
    else .ok (s.setTm k { t with fms := (List.range ws.length).foldl (fun m j => m.store 0 (r.index + j) (BitVec.ofNat 32 (ws.getD j 0))) t.fms })
  | 5 =>
    let x := (t.tile r.index).dbgBytes
    let new := x.take r.addr ++ bs ++ x.drop (r.addr + bs.length)
    let tag := fieldAt new 8704 4
    if 24 ≤ tag || !(s.lockHits k 0 [(BitVec.ofNat 6 r.index, 1)]).isEmpty then .error 5
    else .ok (s.setTm k (t.setTile r.index { data := Map.sparse 0 0 (new.take 8192), scales := Map.sparse 127 0 ((new.drop 8192).take 512)
                                             tag := BitVec.ofNat 5 tag }))
  | 6 => .ok ((s.setTm k (t.sliceWrite r.addr 0 0 bs)).sliceMend k r.addr 0 bs.length)
  | 7 =>
    match r.index, t.phase with
    | 0x20, _ => if 8 ≤ v then .error 5 else .ok (s.setTm k { t with fpctl := BitVec.ofNat 3 v })
    | 0x21, _ => if 32 ≤ v then .error 5 else .ok (s.setTm k (t.setThread tid { th with flags := th.flags &&& ~~~(BitVec.ofNat 5 v) }))
    | 0x37, .handler q ln _ =>
      if bs.length ≠ 8 ∨ q ≠ r.sq ∨ ln ≠ r.ln ∨ v % 4 ≠ 0 ∨ 2 ^ 57 ≤ v then .error 5
      else .ok (s.setTm k { t with phase := .handler q ln (BitVec.ofNat 64 v) })
    | _, _ => .error 5
  | 8 =>
    if r.index = 0 ∧ bs.length = 4 then
      (let cur := (t.squad r.sq).causes
       if BitVec.ofNat 32 v &&& ~~~cur != 0 then .error 5 else .ok (s.clearBits k r.sq (cur &&& ~~~(BitVec.ofNat 32 v))))
    else if r.index = 4 ∧ bs.length ≤ 8 then
      (let pc := if bs.length = 8 then v else th.haltPc.toNat / 2 ^ 32 * 2 ^ 32 + v
       if pc % 4 ≠ 0 ∨ 2 ^ 57 ≤ pc ∨ t.handling = some (r.sq, r.ln) then .error 5
       else
         let s := s.voidLane k r.sq r.ln
         .ok (s.onTm k fun t => t.setThread tid { t.thread tid with haltPc := BitVec.ofNat 64 pc, wait := .none, rel := none }))
    else .error 5
  | _ => .error 5

/-- Read memory for the debugger (R37, R260): a plain access of the session's world. -/
def State.dbgMem (s : State) (c : Nat) (r : DbgReq) : Agent (List Byte) × State :=
  s.agentRead (dbgAgent c) (s.dbgWorld c) (c % 65536) r.addr r.len 1

/-- `DBG_READ` (R257, R259, R260): LENGTH bytes of the named state into BUF. -/
def execDbgRead (s : State) : Out3 :=
  .next (s.dbg 6 fun s c r =>
    let out (bs : List Byte) (s : State) : Option Nat × State :=
      match s.agentWrite (dbgAgent c) (s.dbgWorld c) (c % 65536) r.buf bs with
      | (.wait, s) => (none, s)
      | (.fail f, s) => (some (dbgFail f), s)
      | (.ok _, s) => (some 0, s)
    if !r.lenOk || r.space < 1 || 11 < r.space then (some 5, s)
    else if r.space = 9 ∨ r.space = 10 then
      (match s.dbgMem c r with
        | (.wait, s) => (none, s)
        | (.fail f, s) => (some (dbgFail f), s)
        | (.ok bs, s) => out bs s)
    else s.onDbgTeam c r true fun k t =>
      match s.dbgState k t r with
      | .error e => (some e, s)
      | .ok bs => if bs.length < r.len then (some 5, s) else out (bs.take r.len) s)

/-- Code that the debugger has written is published to the device, and dropped from every loop buffer (R260). -/
def State.dbgPublish (s : State) (c : Nat) (r : DbgReq) : State :=
  match s.agentKeys (dbgAgent c) (s.dbgWorld c) (c % 65536) .store (pagesOf r.addr r.len) with
  | (.ok ks, s) =>
    let lines := localLines ks
    let s := s.markCode false (fun _ => true) lines
    (List.range 512).foldl (fun s core => s.dropLoops core fun e => lines.contains e.line) s
  | (_, s) => s

/-- `DBG_WRITE` (R257 to R260): LENGTH bytes from BUF into the named state. -/
def execDbgWrite (s : State) : Out3 :=
  .next (s.dbg 7 fun s c r =>
    let data (s : State) (go : State → List Byte → Option Nat × State) : Option Nat × State :=
      match s.agentRead (dbgAgent c) (s.dbgWorld c) (c % 65536) r.buf r.len 1 with
      | (.wait, s) => (none, s)
      | (.fail f, s) => (some (dbgFail f), s)
      | (.ok bs, s) => go s bs
    if !r.lenOk || r.space < 1 || 11 < r.space then (some 5, s)
    else if r.space = 9 ∨ r.space = 10 then
      data s fun s bs =>
        match s.agentWrite (dbgAgent c) (s.dbgWorld c) (c % 65536) r.addr bs with
        | (.wait, s) => (none, s)
        | (.fail f, s) => (some (dbgFail f), s)
        | (.ok _, s) => (some 0, if r.space = 10 then s.dbgPublish c r else s)
    else s.onDbgTeam c r true fun k t =>
      if r.space = 11 then (some 5, s)
      else match s.dbgState k t r with
      | .error e => (some e, s)
      | .ok old =>
        if old.length < r.len then (some 5, s)
        else data s fun s bs =>
          match s.dbgPut k t r old bs with
          | .error e => (some e, s)
          | .ok s => (some 0, s))

/-- `DBG_WATCH` (R259, R260). -/
def execDbgWatch (s : State) : Out3 :=
  .next (s.dbg 8 fun s c r =>
    if 3 < r.widx ∨ 7 < r.wkind ∨ (r.wkind ≠ 0 ∧ !r.lenOk) then (some 5, s)
    else
      let w : Watch := { lo := r.addr, len := r.len, kind := BitVec.ofNat 3 r.wkind }
      (some 0, s.onCtx c fun x => { x with watches := x.watches.set r.widx w }))

/-- `DBG_HALT_REQUEST` (R259, R260): a squad without a live thread takes none, for no handler could run in it (R245; log 74, DESIGN
CHOICE). -/
def execDbgHaltRequest (s : State) : Out3 :=
  .next (s.dbg 9 fun s c r => s.onDbgTeam c r false fun k t =>
    if (t.live r.sq).isEmpty then (some 4, s) else (some 0, s.raise k r.sq 0 [{ ln := r.ln, c := .haltRequest }]))

/-- `DBG_STOP_MASK` (R259). -/
def execDbgStopMask (s : State) : Out3 :=
  .next (s.dbg 10 fun s c r =>
    match s.session c with
    | none => (some 5, s)
    | some x => (some 0, { s with sessions := s.sessions.put c { x with stopMask := r.mask } }))

end Sys2Proof.Machine
end

