-- ==== Sys2Proof/Machine/Moves.lean ====
section
/-!
DEFINITION. Moves, selection, address arithmetic and predicates (R293 to R297).
-/
namespace Sys2Proof.Machine

/-- Copy an operand with its tags (R137, R293). -/
def Thread.copy (t : Thread) (wd : Bool) (d a : BitVec 8) : Thread :=
  let lo := t.reg a
  let hi := t.reg (a + 1)
  let t := t.setReg d lo.1 lo.2
  if wd then t.setReg (d + 1) hi.1 hi.2 else t

/-- `MOV` (R293). -/
def execMov (h : Hd) (ty : BitVec 6) (d a : BitVec 8) (s : State) : Out3 :=
  .next (s.lanewise (.mov h ty d a) fun _ _ th => { th := th.copy (wide ty) d a })

/-- `MOVI` (R293). -/
def execMovi (h : Hd) (ty : BitVec 6) (d : BitVec 8) (imm : Word) (s : State) : Out3 :=
  .next (s.lanewise (.movi h ty d imm) fun _ _ th => { th := th.setBits (wide ty) d (immBits ty imm) (tyTag ty) })

/-- `SEL` (R294): the chosen register with its tag. -/
def execSel (h : Hd) (ty : BitVec 6) (d a b : BitVec 8) (c : BitVec 3) (s : State) : Out3 :=
  .next (s.lanewise (.sel h ty d a b c) fun _ _ th => { th := th.copy (wide ty) d (if th.pred c then a else b) })

/-- `SEL` with an immediate, which is raw (R294). -/
def execSelImm (h : Hd) (ty : BitVec 6) (d a : BitVec 8) (c : BitVec 3) (imm : Word) (s : State) : Out3 :=
  .next (s.lanewise (.selImm h ty d a c imm) fun _ _ th =>
    { th := if th.pred c then th.copy (wide ty) d a else th.setBits (wide ty) d (immBits ty imm) 0 })

/-- The address of `LEA` (R295): opb extended by its type and shifted, added to the base. -/
def leaAddr (ty : BitVec 6) (base : Dword) (b : Word) (sh : BitVec 3) : Dword :=
  base + ((if ty = 1 then b.signExtend 64 else b.setWidth 64) <<< sh.toNat)

/-- `LEA` (R295). -/
def execLea (h : Hd) (ty : BitVec 6) (d a b : BitVec 8) (sh : BitVec 3) (s : State) : Out3 :=
  .next (s.lanewise (.lea h ty d a b sh) fun _ ln th =>
    LaneOut.checked (th.tagged ty b) ln th { th := th.set64 d (leaAddr ty (th.r64 a) (th.r32 b) sh) 0 })

/-- `LEA` with an immediate (R295). -/
def execLeaImm (h : Hd) (ty : BitVec 6) (d a : BitVec 8) (sh : BitVec 3) (imm : Word) (s : State) : Out3 :=
  .next (s.lanewise (.leaImm h ty d a sh imm) fun _ _ th =>
    { th := th.set64 d (leaAddr ty (th.r64 a) imm sh) 0 })

/-- The operations of `PLOP` (R296). -/
def predOp (op : PredOp) (a b : Bool) : Bool := match op with | .and => a && b | .or => a || b | .xor => a != b

/-- `PLOP` (R296). -/
def execPlop (h : Hd) (op : PredOp) (ia ib : Bool) (d a b : BitVec 3) (s : State) : Out3 :=
  .next (s.lanewise (.plop h op ia ib d a b) fun _ _ th =>
    { th := th.setPred d (predOp op (th.pred a != ia) (th.pred b != ib)) })

/-- `PMOV` to a register (R297): bit 0 reads 1. -/
def execPmovToRegister (h : Hd) (d : BitVec 8) (s : State) : Out3 :=
  .next (s.lanewise (.pmovToRegister h d) fun _ _ th => { th := th.setReg d ((th.preds ||| 1).setWidth 32) 0 })

/-- `PMOV` to the predicates `p1` to `p7` (R297). -/
def execPmovToPredicates (h : Hd) (a : BitVec 8) (s : State) : Out3 :=
  .next (s.lanewise (.pmovToPredicates h a) fun _ _ th => { th := { th with preds := (th.r32 a).setWidth 8 ||| 1 } })

end Sys2Proof.Machine
end

