-- ==== Sys2Proof/Machine/Registers.lean ====
section
/-!
DEFINITION. The registers in BAR0 (R2, R16 to R18, R58, R98, R113, R157, R226, R237, R254, R256): writes, and what the host reads by its link,
as it reads and writes memory (R28, R29, R34). The function whose BAR0 is accessed, or the port, is `who`; `w` is the world of the writer.
-/
namespace Sys2Proof.Machine

/-- A register of physical function 0 that only the management world may write (R16). -/
def managed (w : World) : Bool := w == 1

/-- Some port carries traffic other than training (R17). -/
def State.traffic (s : State) : Bool := s.ports.any fun p => s.busyPort p.1

/-- What a write of `FABID` stores (R16, R17): none where it is ignored. -/
def State.fabidNew (s : State) (v : Dword) : Option Dword :=
  let v := v &&& 0x800FFFFFC00FFFFF
  let ids := 0x000FFFFFC00FFFFF#64
  if 639 < (v.extractLsb' 30 10).toNat then none
  else if s.fabValid && (v &&& ids) != (s.fabid &&& ids) then none
  else if !v.getLsbD 63 && s.traffic then none
  else some v

/-- `FABID_WRITE` (R16, R17): the firmware of the device has agreed a fresh key with every other when it sets VALID (R40; log 8, DESIGN
CHOICE). -/
def execFabidWrite (w : World) (v : Dword) (s : State) : Out3 :=
  .next (match if managed w then s.fabidNew v else none with
    | none => s
    | some v =>
      if v.getLsbD 63 && !s.fabValid then
        { s with fabid := v, pairBase := s.entropy, entropy := s.entropy + 2 ^ 21, pairKeys := [] }
      else { s with fabid := v })

/-- `PWRCAP_WRITE` (R16). -/
def execPwrcapWrite (w : World) (v : Dword) (s : State) : Out3 :=
  .next (if managed w then { s with pwrcap := min 4000 (max 1500 (v.extractLsb' 0 16).toNat) } else s)

/-- `DRAINDL_WRITE` (R98). -/
def execDraindlWrite (w : World) (v : Dword) (s : State) : Out3 :=
  .next (if managed w then { s with draindl := min 10000 (max 1 (v.extractLsb' 0 14).toNat) } else s)

/-- The three tolerances of a word, at least a minimum (R226). -/
def tolerances (low : Nat) (v : Dword) : List Nat := (List.range 3).map fun k => max low (v.extractLsb' (16 * k) 16).toNat

/-- `ASYTOL_WRITE` (R226): of `ASYTOLR`, or of `ASYTOLC`. -/
def execAsytolWrite (w : World) (col : Bool) (v : Dword) (s : State) : Out3 :=
  .next (if !managed w then s
    else if col then { s with asytolc := tolerances 16 v } else { s with asytolr := tolerances 256 v })

/-- `ASYINJ_WRITE` (R237). -/
def execAsyinjWrite (w : World) (n : Nat) (v : Dword) (s : State) : Out3 :=
  let core := (v.extractLsb' 46 10).toNat
  .next (if !managed w || (512 ≤ core && core ≤ 1022) then s
    else { s with asyinj := s.asyinj.set n (v &&& 0xFFFFFFFCFFFFFFFF) })

/-- `PORTCTL_WRITE` (R18, R20): a port whose mode is set begins its training; RETRAIN starts a port reset. -/
def execPortctlWrite (w : World) (v : Dword) (s : State) : Out3 :=
  let k := s.who
  let p := s.port k
  let mode := (v.extractLsb' 0 2).toNat
  .next (if !managed w || 36 ≤ k || mode == 3 || (mode != p.mode && p.state != 0) then s
    else
      let s := s.setPort k { p with world := v.extractLsb' 8 8 }
      if mode ≠ p.mode then
        s.onPort k fun p => { p with mode, state := if mode = 0 then 0 else 1, width := 0, training := none }
      else if v.getLsbD 2 then s.startRetrain k
      else s)

/-- The writer may write the registers of a function (R16, R31, R36): it is in the function's world, and the function serves (log 52, DEDUCED). -/
def State.mayWrite (s : State) (f : Nat) (w : World) : Bool := (s.fn f).serving && (s.fn f).world == w

/-- What a write of `FLTCFG` stores (R254): a LOGSIZE out of range stores 6, DROPS bits written 1 are cleared. -/
def fltcfgNew (old v : Dword) : Dword :=
  let size := (v.extractLsb' 44 4).toNat
  let size := if 6 ≤ size ∧ size ≤ 12 then size else 6
  (v &&& 0xFFFF080007FF0000) ||| (BitVec.ofNat 64 size <<< 44) ||| (old &&& ~~~v &&& 0xFFFF)

/-- `FLTCFG_WRITE` (R254). -/
def execFltcfgWrite (w : World) (v : Dword) (s : State) : Out3 :=
  let f := s.who
  .next (if s.mayWrite f w then s.setFn f { s.fn f with fltcfg := fltcfgNew (s.fn f).fltcfg v } else s)

/-- A command register as written (R2, R58, R98, R157, R256): `at_` is the place of its two STAT bits, `clean` the bits it keeps; `strict` bits
refuse the command where one is set (R59, R157). While a command is busy a write is ignored; with no command STAT is done; an unknown
command is refused (log 52, DEDUCED). -/
def command (old v : Dword) (at_ opAt opBits known : Nat) (clean strict : Dword) : Dword :=
  let stat (x : Nat) : Dword := BitVec.ofNat 64 x <<< at_
  let oper := (v.extractLsb' opAt opBits).toNat
  if (old.extractLsb' at_ 2).toNat = 1 then old
  else (v &&& clean) ||| stat (if oper = 0 then 0 else if known < oper || v &&& strict != 0 then 2 else 1)

/-- A write of a function's register (R16, R58, R98, R157, R254, R256). -/
def Fn.write (x : Fn) (off : Nat) (v : Dword) : Fn :=
  match off with
  | 0x100 => { x with qcmd := command x.qcmd v 60 62 2 3 0xC800FFFF07FF0FFF 0x07FF0000F800F000 }
  | 0x180 => { x with ctxcmd := command x.ctxcmd v 58 60 4 4 0xF0000000FFFFFFFF 0 }
  | 0x188 => { x with ctxarg := v }
  | 0x1C0 => { x with ptcmd := command x.ptcmd v 60 62 2 3 0xCFC0FFFF00000000 0x003F0000FFFFFFFF }
  | 0x1C8 => { x with ptarg := v }
  | 0x240 => { x with fltbase := v &&& ~~~0xFFF }
  | 0x250 => { x with fltidx := (x.fltidx &&& 0xFFFF0000) ||| (v &&& 0xFFFF) }
  | 0x280 => { x with dbgcmd := command x.dbgcmd v 58 60 4 10 0xF0000000FFFFFFFF 0 }
  | 0x288 => { x with dbgarg := v }
  | _ => x

/-- The counters of `PORTSTAT` are cleared where they are written 1 (R18). -/
def Port.clearStat (p : Port) (v : Dword) : Port :=
  let clear (n old w at_ : Nat) : Nat := (BitVec.ofNat n old &&& ~~~(BitVec.ofNat n (v.toNat / 2 ^ at_ % 2 ^ w))).toNat
  { p with fecfix := clear 32 p.fecfix 32 32, replays := clear 16 p.replays 16 16, checks := clear 4 p.checks 4 4 }

/-- `REGISTER_WRITE` (R16, R18, R58, R98, R113, R157, R254, R256): a register that has no row of its own. -/
def execRegisterWrite (w : World) (off : Nat) (v : Dword) (s : State) : Out3 :=
  let f := s.who
  let k := (off - 0x1000) / 0x40
  .next (if 0x1000 ≤ off then
      (if managed w && f == 0 && k < 36 && off % 0x40 == 8 then s.onPort k fun p => p.clearStat v else s)
    else if off = 0x198 ∨ off = 0x1A0 then
      (if !managed w || f != 0 then s
       else if off = 0x198 then { s with podpool := v &&& ~~~0xFFF } else { s with podsize := v &&& ~~~0xFFF })
    else if s.mayWrite f w then s.setFn f ((s.fn f).write off v) else s)

/-- Bit k of `COREMAP` is 1 where core k is not fenced (R16). -/
def State.present (s : State) (k : Nat) : Bool := !(s.core k).fenced
/-- `DEVINFO` (R6, R16): the part number, the stepping and the number of cores not fenced. -/
def State.devinfo (s : State) : Nat := 0x0512 * 2 ^ 48 + s.stepping.toNat * 2 ^ 40 + ((List.range 512).filter s.present).length
/-- `COREMAP` j (R6, R16). -/
def State.coremap (s : State) (j : Nat) : Nat := (List.range 64).foldl (fun v k => if s.present (64 * j + k) then v + 2 ^ k else v) 0
/-- `PORTCTL` and `PORTSTAT` (R18). -/
def Port.ctl (p : Port) : Nat := p.mode + 2 ^ 8 * p.world.toNat
def Port.stat (p : Port) : Nat := p.state + 2 ^ 4 * p.checks + 2 ^ 8 * p.width + 2 ^ 16 * p.replays + 2 ^ 32 * p.fecfix
/-- Three fields of 16 bits (R226). -/
def packTol (ts : List Nat) : Nat := ts.foldr (fun t v => t + 2 ^ 16 * v) 0

/-- The registers that every function has in its BAR0 (R58, R98, R157, R254, R256). -/
def Fn.read (x : Fn) (off : Nat) : Option Nat :=
  match off with
  | 0x100 => some x.qcmd.toNat | 0x180 => some x.ctxcmd.toNat | 0x188 => some x.ctxarg.toNat | 0x1C0 => some x.ptcmd.toNat
  | 0x1C8 => some x.ptarg.toNat | 0x240 => some x.fltbase.toNat | 0x248 => some x.fltcfg.toNat | 0x250 => some x.fltidx.toNat
  | 0x280 => some x.dbgcmd.toNat | 0x288 => some x.dbgarg.toNat | _ => none

/-- The registers of physical function 0 (R16, R18, R113, R226, R237). -/
def State.readPf (s : State) (off : Nat) : Option Nat :=
  if 0x1000 ≤ off then
    let p := s.port ((off - 0x1000) / 0x40)
    if 0x1000 + 0x40 * 36 ≤ off then none else if off % 0x40 = 0 then some p.ctl else if off % 0x40 = 8 then some p.stat else none
  else if 0x08 ≤ off ∧ off ≤ 0x40 ∧ off % 8 = 0 then some (s.coremap (off / 8 - 1))
  else if 0x210 ≤ off ∧ off ≤ 0x228 ∧ off % 8 = 0 then some (s.asyinj.getD ((off - 0x210) / 8) 0).toNat
  else match off with
  | 0x00 => some s.devinfo | 0x48 => some s.fabid.toNat | 0x50 => some s.pwrcap | 0x198 => some s.podpool.toNat
  | 0x1A0 => some s.podsize.toNat | 0x200 => some (packTol s.asytolr) | 0x208 => some (packTol s.asytolc) | _ => none

/-- A register in the BAR0 of a function, by its offset; `DRAINDL` is in that of each (R98). -/
def State.readReg (s : State) (f off : Nat) : Option Nat := ((s.fn f).read off).or (if off = 0x190 then some s.draindl else if f = 0 then s.readPf off else none)

/-- Bytes of the BAR0 of a function: those of no register are free (log 19, DESIGN CHOICE). -/
def State.barBytes (s : State) (f off n : Nat) : List Byte :=
  (List.range n).map fun k =>
    match s.readReg f ((off + k) / 8 * 8) with
    | some v => (toBytes 8 v).getD ((off + k) % 8) 0
    | none => Config.bytes (2 ^ 51 + s.free) k

/-- A function serves requests (R36). -/
def State.serves (s : State) (f : Nat) : Bool := (s.fn f).serving

/-- `HOST_LINK_READ` (R28, R33, R34, R44, R52): of a function's BAR0 over CXL.io, or of the usable HBM over CXL.mem. -/
def execHostLinkRead (addr : HostAddr) (len : Nat) (s : State) : Out3 :=
  let w := (s.fn s.who).world
  .next (if !s.serves s.who || len == 0 then s
    else match addr with
    | .io off => { s with free := s.free + 1 }.send (.hostData (s.barBytes s.who off len) false)
    | .mem a =>
      if (linesOf a len).any fun k => !s.admits w k then (s.send .completerAbort).send .aer
      else s.send (.hostData (s.read a len) (s.readable w a len).isSome))

/-- `HOST_LINK_WRITE` (R28, R29, R33, R34, R43, R52): line by line; data that fail IDE are discarded and reported. -/
def execHostLinkWrite (addr : Nat) (data : List Byte) (ide : Bool) (s : State) : Out3 :=
  .next (if !s.serves s.who then s
    else if !ide then s.send .aer
    else (linesOf addr data.length).foldl (fun s line =>
      let cells := (cellsAt addr data).filter fun c => c.1 / 128 * 128 == line
      if !isLocal line then s.send .aer
      else match s.store (s.fn s.who).world cells with
      | .ok s => s
      | .error (.ingotAccess, _) => s
      | .error _ => s.send .aer) s)

end Sys2Proof.Machine
end

