-- ==== Sys2Proof/Machine/Squad.lean ====
section
/-!
DEFINITION. Squad instructions: arrival, completion and results (R96, R302 to R306).
-/
namespace Sys2Proof.Machine

/-- What a thread brings to a squad instruction: its lane, the instruction, opa with its tags, opc, and the predicate
operand with its inversion, as read at the arrival (R304). -/
structure Part where
  ln : Nat
  i : Instr
  a : Dword
  tags : Tag × Tag
  c : Word
  pa : Bool
  deriving DecidableEq, Repr

/-- What the threads that wait at a site with a mask bring, in ascending lanes. -/
def Team.parts (t : Team) (q : Nat) (site : Dword) (mask : Word) : List Part :=
  (List.range 32).filterMap fun ln =>
    let th := t.lane q ln
    match th.wait with
    | .squad i m a tags c pa => if m == mask && th.pc == site && mask.getLsbD ln then some { ln, i, a, tags, c, pa } else none
    | _ => none

/-- A set of lanes as a word. -/
def lanesWord (ls : List Nat) : Word := ls.foldl (fun w l => w ||| (1#32 <<< l)) 0

/-- The source rank of `SHFL` (R304). -/
def shflRank (mode : ShflMode) (r n c : Nat) : Nat :=
  match mode with
  | .rank => c % n
  | .rot => (r + c) % n
  | .rev => n - 1 - r
  | .seg => let l := if c = 0 ∨ n < c then n else c; r / l * l

/-- The operation of `REDUX` on two values of a type (R304). -/
def redOp (op : RedOp) (ty : BitVec 6) (a b : Nat) : Nat :=
  match op with
  | .sum => (a + b) % 2 ^ tyWidth ty
  | .low => if valOf ty b < valOf ty a then b else a
  | .high => if valOf ty a < valOf ty b then b else a
  | .band => a &&& b
  | .bor => a ||| b
  | .bxor => a ^^^ b

/-- The identity of a `REDUX` operation (R304). -/
def redIdentity (op : RedOp) (ty : BitVec 6) : Nat :=
  match op with
  | .sum | .bor | .bxor => 0
  | .band => ones (tyWidth ty)
  | .low => wrap (tyWidth ty) (Float.intRange (signedTy ty) (tyWidth ty)).2
  | .high => wrap (tyWidth ty) (Float.intRange (signedTy ty) (tyWidth ty)).1

/-- `REDUX` at a rank over the participants' values (R304). -/
def reduce (op : RedOp) (mode : ScanMode) (ty : BitVec 6) (vs : List Nat) (r : Nat) : Nat :=
  (match mode with | .tot => vs | .inc => vs.take (r + 1) | .exc => vs.take r).foldl (redOp op ty) (redIdentity op ty)

/-- Write a 64-bit or 32-bit result with a tag for each register. -/
def Thread.setTags (t : Thread) (ty : BitVec 6) (d : BitVec 8) (v : Dword) (tags : Tag × Tag) : Thread :=
  let t := t.setReg d (v.setWidth 32) tags.1
  if wide ty then t.setReg (d + 1) ((v >>> 32).setWidth 32) tags.2 else t

/-- `VOTE` in a participant (R304). -/
def voteResult (op : VoteOp) (d : BitVec 8) (ps : List Part) (th : Thread) : Thread :=
  match op with
  | .all => th.setPred (d.setWidth 3) (ps.all (·.pa))
  | .any => th.setPred (d.setWidth 3) (ps.any (·.pa))
  | .ballot => th.setReg d (lanesWord ((ps.filter (·.pa)).map (·.ln))) 0

/-- `SHFL` in the participant of a rank (R304). -/
def shflResult (mode : ShflMode) (ty : BitVec 6) (d : BitVec 8) (ps : List Part) (r : Nat) (p : Part) (th : Thread) :
    Thread :=
  let src := ps.getD (shflRank mode r ps.length p.c.toNat) p
  th.setTags ty d src.a src.tags

/-- `MATCH` in a participant (R304). -/
def matchResult (op : MatchOp) (ty : BitVec 6) (d : BitVec 8) (ps : List Part) (p : Part) (th : Thread) : Thread :=
  let same := ps.filter fun u => u.a == p.a
  let w : Word := match op with
    | .any => lanesWord (same.map (·.ln))
    | .all => if same.length = ps.length then lanesWord (ps.map (·.ln)) else 0
  th.setBits (wide ty) d w.toNat 0

/-- `REDUX` in the participant of a rank (R304). -/
def reduxResult (op : RedOp) (mode : ScanMode) (ty : BitVec 6) (d : BitVec 8) (ps : List Part) (r : Nat) (th : Thread) :
    Thread :=
  th.setBits (wide ty) d (reduce op mode ty (ps.map fun p => p.a.toNat) r) (tyTag ty)

/-- `CONVOY` in the participant of a rank (R304). -/
def convoyResult (d : BitVec 8) (ps : List Part) (r : Nat) (th : Thread) : Thread :=
  th.setReg d (BitVec.ofNat 32 (r + 256 * ps.length)) 0

/-- The result of a squad instruction in the participant of a rank (R304). -/
def squadResult (ps : List Part) (r : Nat) (p : Part) (th : Thread) : Thread :=
  match p.i with
  | .vote _ op _ d .. | .voteImm _ op _ d .. => voteResult op d ps th
  | .shfl _ mode ty d .. | .shflImm _ mode ty d .. => shflResult mode ty d ps r p th
  | .sqMatch _ op ty d .. | .sqMatchImm _ op ty d .. => matchResult op ty d ps p th
  | .redux _ op mode ty d .. | .reduxImm _ op mode ty d .. => reduxResult op mode ty d ps r th
  | .convoy _ d _ | .convoyImm _ d _ => convoyResult d ps r th
  | _ => th

/-- The instruction completes in its participants (R303): each takes its result and continues; they issue as one convoy,
together with those of the issuing convoy that stand at the same PC (R96). -/
def Team.completeSquad (t : Team) (q : Nat) (ps : List Part) : Team :=
  let t := (ps.zip (List.range ps.length)).foldl (fun t (p, r) =>
    t.setThread (tidOf q p.ln) ((squadResult ps r p (t.lane q p.ln)).past p.i.len)) t
  let x := t.squad q
  let lanes := ps.map (·.ln)
  let joined := lanes.any fun ln => !x.convoy.contains ln
  if x.run = .halting 0 || x.run = .stopped then t
  else
    let convoy := (List.range 32).filter fun ln => x.convoy.contains ln || lanes.contains ln
    t.setSquad q { x with convoy, latch := if joined then none else x.latch, lone := x.lone && !joined }

/-- One lane arrives at a squad instruction (R303; log 32, DEDUCED). -/
def State.arriveLane (s : State) (x : Convoy) (mask : Word) (p : Part) : State :=
  let t := s.tm x.key
  let differs (u : Nat) : Bool := match (t.lane x.q u).atSquad with | some g => g != (x.pc, mask) | none => false
  let names (u : Nat) : Bool := match (t.lane x.q u).atSquad with | some (_, m) => m.getLsbD p.ln | none => false
  let named := (List.range 32).filter fun u => mask.getLsbD u
  let others := (List.range 32).filter fun u => differs u && (mask.getLsbD u || names u)
  let alone := !mask.getLsbD p.ln || named.any fun u => (t.lane x.q u).exited
  if alone || !others.isEmpty || (s.inHandler x.key && mask != 1#32 <<< p.ln) then
    s.misuse x.key x.q x.pc (p.ln :: others) (some p.ln)
  else
    let th := t.lane x.q p.ln
    let t := t.setThread (tidOf x.q p.ln) { th with wait := .squad p.i mask p.a p.tags p.c p.pa }
    let ps := t.parts x.q x.pc mask
    s.setTm x.key (if ps.length = named.length then t.completeSquad x.q ps else t)

/-- The meaning of a squad instruction (R303, R305): an arrival waits until every earlier load of its thread has its value;
the active lanes arrive in ascending order. `tagged` is the tag check of `REDUX` (R283; log 32, DEDUCED). -/
def State.squadInstr (s : State) (i : Instr) (b : Opb) (part : Thread → Dword × (Tag × Tag) × Word × Bool)
    (tagged : Thread → Bool := fun _ => true) : State :=
  s.issue i (fun _ _ => []) fun s x =>
    if x.act.any fun ln => s.loadsOut x.key x.q ln then s
    else
      let t := s.tm x.key
      let bad := x.act.filter fun ln => !tagged (t.lane x.q ln)
      let go := x.lanes.filter fun ln => !bad.contains ln
      let s := (s.issued x go).advance x (x.lanes.filter fun ln => !x.act.contains ln) i.len
      let s := (x.act.filter fun ln => !bad.contains ln).foldl (fun s ln =>
        let th := t.lane x.q ln
        let v := part th
        s.arriveLane x (b.word th) { ln, i, a := v.1, tags := v.2.1, c := v.2.2.1, pa := v.2.2.2 }) s
      (s.raise x.key x.q x.pc (bad.map fun ln => { ln, c := .tagMismatch }) (own := s.inHandler x.key)).stuck x.key x.q

/-- The operand that `SHFL`, `MATCH` and `REDUX` read, with its tags. -/
def Thread.squadArg (t : Thread) (ty : BitVec 6) (a : BitVec 8) : Dword × (Tag × Tag) :=
  (BitVec.ofNat 64 (t.bits (wide ty) a), (t.reg a).2, (t.reg (a + 1)).2)

/-- `SQSYNC` of a mask. -/
def State.sqsyncOp (s : State) (i : Instr) (b : Opb) : State := s.squadInstr i b fun _ => (0, (0, 0), 0, false)
/-- `VOTE` over a mask. -/
def State.voteOp (s : State) (i : Instr) (ia : Bool) (a : BitVec 3) (b : Opb) : State :=
  s.squadInstr i b fun th => (0, (0, 0), 0, th.pred a != ia)
/-- `SHFL` over a mask. -/
def State.shflOp (s : State) (i : Instr) (ty : BitVec 6) (a c : BitVec 8) (b : Opb) : State :=
  s.squadInstr i b fun th => let v := th.squadArg ty a; (v.1, v.2, th.r32 c, false)
/-- `MATCH` over a mask. -/
def State.matchOp (s : State) (i : Instr) (ty : BitVec 6) (a : BitVec 8) (b : Opb) : State :=
  s.squadInstr i b fun th => let v := th.squadArg ty a; (v.1, v.2, 0, false)
/-- `REDUX` over a mask: the arithmetic operations check tags (R283). -/
def State.reduxOp (s : State) (i : Instr) (op : RedOp) (ty : BitVec 6) (a : BitVec 8) (b : Opb) : State :=
  s.squadInstr i b (fun th => let v := th.squadArg ty a; (v.1, v.2, 0, false))
    fun th => op == .band || op == .bor || op == .bxor || th.tagged ty a
/-- `CONVOY` over a mask. -/
def State.convoyOp (s : State) (i : Instr) (b : Opb) : State := s.squadInstr i b fun _ => (0, (0, 0), 0, false)

/-- `SQSYNC` (R303). -/
def execSqsync (h : Hd) (b : BitVec 8) (s : State) : Out3 := .next (s.sqsyncOp (.sqsync h b) (.reg b))
/-- `SQSYNC` with an immediate mask (R303). -/
def execSqsyncImm (h : Hd) (imm : Word) (s : State) : Out3 := .next (s.sqsyncOp (.sqsyncImm h imm) (.imm imm))
/-- `VOTE` (R304). -/
def execVote (h : Hd) (op : VoteOp) (ia : Bool) (d : BitVec 8) (a : BitVec 3) (b : BitVec 8) (s : State) : Out3 :=
  .next (s.voteOp (.vote h op ia d a b) ia a (.reg b))
/-- `VOTE` with an immediate mask (R304). -/
def execVoteImm (h : Hd) (op : VoteOp) (ia : Bool) (d : BitVec 8) (a : BitVec 3) (imm : Word) (s : State) : Out3 :=
  .next (s.voteOp (.voteImm h op ia d a imm) ia a (.imm imm))
/-- `SHFL` (R304). -/
def execShfl (h : Hd) (mode : ShflMode) (ty : BitVec 6) (d a b c : BitVec 8) (s : State) : Out3 :=
  .next (s.shflOp (.shfl h mode ty d a b c) ty a c (.reg b))
/-- `SHFL` with an immediate mask (R304). -/
def execShflImm (h : Hd) (mode : ShflMode) (ty : BitVec 6) (d a c : BitVec 8) (imm : Word) (s : State) : Out3 :=
  .next (s.shflOp (.shflImm h mode ty d a c imm) ty a c (.imm imm))
/-- `MATCH` (R304). -/
def execSqMatch (h : Hd) (op : MatchOp) (ty : BitVec 6) (d a b : BitVec 8) (s : State) : Out3 :=
  .next (s.matchOp (.sqMatch h op ty d a b) ty a (.reg b))
/-- `MATCH` with an immediate mask (R304). -/
def execSqMatchImm (h : Hd) (op : MatchOp) (ty : BitVec 6) (d a : BitVec 8) (imm : Word) (s : State) : Out3 :=
  .next (s.matchOp (.sqMatchImm h op ty d a imm) ty a (.imm imm))
/-- `REDUX` (R304). -/
def execRedux (h : Hd) (op : RedOp) (mode : ScanMode) (ty : BitVec 6) (d a b : BitVec 8) (s : State) : Out3 :=
  .next (s.reduxOp (.redux h op mode ty d a b) op ty a (.reg b))
/-- `REDUX` with an immediate mask (R304). -/
def execReduxImm (h : Hd) (op : RedOp) (mode : ScanMode) (ty : BitVec 6) (d a : BitVec 8) (imm : Word) (s : State) :
    Out3 := .next (s.reduxOp (.reduxImm h op mode ty d a imm) op ty a (.imm imm))
/-- `CONVOY` (R304). -/
def execConvoy (h : Hd) (d b : BitVec 8) (s : State) : Out3 := .next (s.convoyOp (.convoy h d b) (.reg b))
/-- `CONVOY` with an immediate mask (R304). -/
def execConvoyImm (h : Hd) (d : BitVec 8) (imm : Word) (s : State) : Out3 := .next (s.convoyOp (.convoyImm h d imm) (.imm imm))

end Sys2Proof.Machine
end

