-- ==== Sys2Proof/Machine/Dispatch.lean ====
section
/-!
DEFINITION. The meaning of each instruction, by one direct call.
-/
namespace Sys2Proof.Machine

/-- The meaning of an instruction in a state. -/
def exec (i : Instr) (s : State) : Host.Outcome State Fault Refusal :=
  match i with
  | .nop h => Sys2Proof.Machine.execNop h s
  | .nop96 h => Sys2Proof.Machine.execNop96 h s
  | .nop128 h => Sys2Proof.Machine.execNop128 h s
  | .nopOneParcel h => Sys2Proof.Machine.execNopOneParcel h s
  | .bra h off => Sys2Proof.Machine.execBra h off s
  | .brx h a => Sys2Proof.Machine.execBrx h a s
  | .call h d off => Sys2Proof.Machine.execCall h d off s
  | .callx h d a => Sys2Proof.Machine.execCallx h d a s
  | .ret h a => Sys2Proof.Machine.execRet h a s
  | .exit h => Sys2Proof.Machine.execExit h s
  | .yield h => Sys2Proof.Machine.execYield h s
  | .iadd h sat ty d a b => Sys2Proof.Machine.execIadd h sat ty d a b s
  | .iaddImm h sat ty d a imm => Sys2Proof.Machine.execIaddImm h sat ty d a imm s
  | .isub h sat ty d a b => Sys2Proof.Machine.execIsub h sat ty d a b s
  | .isubImm h sat ty d a imm => Sys2Proof.Machine.execIsubImm h sat ty d a imm s
  | .imul h ty d a b => Sys2Proof.Machine.execImul h ty d a b s
  | .imulImm h ty d a imm => Sys2Proof.Machine.execImulImm h ty d a imm s
  | .imulh h ty d a b => Sys2Proof.Machine.execImulh h ty d a b s
  | .imulhImm h ty d a imm => Sys2Proof.Machine.execImulhImm h ty d a imm s
  | .imad h ty d a b c => Sys2Proof.Machine.execImad h ty d a b c s
  | .imadImm h ty d a c imm => Sys2Proof.Machine.execImadImm h ty d a c imm s
  | .imin h ty d a b => Sys2Proof.Machine.execImin h ty d a b s
  | .iminImm h ty d a imm => Sys2Proof.Machine.execIminImm h ty d a imm s
  | .imax h ty d a b => Sys2Proof.Machine.execImax h ty d a b s
  | .imaxImm h ty d a imm => Sys2Proof.Machine.execImaxImm h ty d a imm s
  | .iabs h ty d a => Sys2Proof.Machine.execIabs h ty d a s
  | .ineg h ty d a => Sys2Proof.Machine.execIneg h ty d a s
  | .idiv h ty d a b => Sys2Proof.Machine.execIdiv h ty d a b s
  | .idivImm h ty d a imm => Sys2Proof.Machine.execIdivImm h ty d a imm s
  | .imod h ty d a b => Sys2Proof.Machine.execImod h ty d a b s
  | .imodImm h ty d a imm => Sys2Proof.Machine.execImodImm h ty d a imm s
  | .icmp h cmp ty d a b => Sys2Proof.Machine.execIcmp h cmp ty d a b s
  | .icmpImm h cmp ty d a imm => Sys2Proof.Machine.execIcmpImm h cmp ty d a imm s
  | .and h ty d a b => Sys2Proof.Machine.execAnd h ty d a b s
  | .andImm h ty d a imm => Sys2Proof.Machine.execAndImm h ty d a imm s
  | .or h ty d a b => Sys2Proof.Machine.execOr h ty d a b s
  | .orImm h ty d a imm => Sys2Proof.Machine.execOrImm h ty d a imm s
  | .xor h ty d a b => Sys2Proof.Machine.execXor h ty d a b s
  | .xorImm h ty d a imm => Sys2Proof.Machine.execXorImm h ty d a imm s
  | .not h ty d a => Sys2Proof.Machine.execNot h ty d a s
  | .andn h ty d a b => Sys2Proof.Machine.execAndn h ty d a b s
  | .andnImm h ty d a imm => Sys2Proof.Machine.execAndnImm h ty d a imm s
  | .shl h ty d a b => Sys2Proof.Machine.execShl h ty d a b s
  | .shlImm h ty d a imm => Sys2Proof.Machine.execShlImm h ty d a imm s
  | .shr h ty d a b => Sys2Proof.Machine.execShr h ty d a b s
  | .shrImm h ty d a imm => Sys2Proof.Machine.execShrImm h ty d a imm s
  | .sar h ty d a b => Sys2Proof.Machine.execSar h ty d a b s
  | .sarImm h ty d a imm => Sys2Proof.Machine.execSarImm h ty d a imm s
  | .rot h ty d a b => Sys2Proof.Machine.execRot h ty d a b s
  | .rotImm h ty d a imm => Sys2Proof.Machine.execRotImm h ty d a imm s
  | .popc h ty d a => Sys2Proof.Machine.execPopc h ty d a s
  | .clz h ty d a => Sys2Proof.Machine.execClz h ty d a s
  | .ctz h ty d a => Sys2Proof.Machine.execCtz h ty d a s
  | .brev h ty d a => Sys2Proof.Machine.execBrev h ty d a s
  | .bfx h ty d a b => Sys2Proof.Machine.execBfx h ty d a b s
  | .bfxImm h ty d a imm => Sys2Proof.Machine.execBfxImm h ty d a imm s
  | .bfi h ty d a b c => Sys2Proof.Machine.execBfi h ty d a b c s
  | .bfiImm h ty d a c imm => Sys2Proof.Machine.execBfiImm h ty d a c imm s
  | .bperm h ty d a b c => Sys2Proof.Machine.execBperm h ty d a b c s
  | .bpermImm h ty d a c imm => Sys2Proof.Machine.execBpermImm h ty d a c imm s
  | .mov h ty d a => Sys2Proof.Machine.execMov h ty d a s
  | .movi h ty d imm => Sys2Proof.Machine.execMovi h ty d imm s
  | .sel h ty d a b c => Sys2Proof.Machine.execSel h ty d a b c s
  | .selImm h ty d a c imm => Sys2Proof.Machine.execSelImm h ty d a c imm s
  | .lea h ty d a b sh => Sys2Proof.Machine.execLea h ty d a b sh s
  | .leaImm h ty d a sh imm => Sys2Proof.Machine.execLeaImm h ty d a sh imm s
  | .plop h op ia ib d a b => Sys2Proof.Machine.execPlop h op ia ib d a b s
  | .pmovToRegister h d => Sys2Proof.Machine.execPmovToRegister h d s
  | .pmovToPredicates h a => Sys2Proof.Machine.execPmovToPredicates h a s
  | .sqsync h b => Sys2Proof.Machine.execSqsync h b s
  | .sqsyncImm h imm => Sys2Proof.Machine.execSqsyncImm h imm s
  | .vote h op ia d a b => Sys2Proof.Machine.execVote h op ia d a b s
  | .voteImm h op ia d a imm => Sys2Proof.Machine.execVoteImm h op ia d a imm s
  | .shfl h mode ty d a b c => Sys2Proof.Machine.execShfl h mode ty d a b c s
  | .shflImm h mode ty d a c imm => Sys2Proof.Machine.execShflImm h mode ty d a c imm s
  | .sqMatch h op ty d a b => Sys2Proof.Machine.execSqMatch h op ty d a b s
  | .sqMatchImm h op ty d a imm => Sys2Proof.Machine.execSqMatchImm h op ty d a imm s
  | .redux h op mode ty d a b => Sys2Proof.Machine.execRedux h op mode ty d a b s
  | .reduxImm h op mode ty d a imm => Sys2Proof.Machine.execReduxImm h op mode ty d a imm s
  | .convoy h d b => Sys2Proof.Machine.execConvoy h d b s
  | .convoyImm h d imm => Sys2Proof.Machine.execConvoyImm h d imm s
  | .fadd h ft rm d a b => Sys2Proof.Machine.execFadd h ft rm d a b s
  | .fsub h ft rm d a b => Sys2Proof.Machine.execFsub h ft rm d a b s
  | .fmul h ft rm d a b => Sys2Proof.Machine.execFmul h ft rm d a b s
  | .ffma h ft rm d a b c => Sys2Proof.Machine.execFfma h ft rm d a b c s
  | .fmin h ft rm d a b => Sys2Proof.Machine.execFmin h ft rm d a b s
  | .fmax h ft rm d a b => Sys2Proof.Machine.execFmax h ft rm d a b s
  | .fcmp h cmp ft rm d a b => Sys2Proof.Machine.execFcmp h cmp ft rm d a b s
  | .frcp h ft rm d a => Sys2Proof.Machine.execFrcp h ft rm d a s
  | .frsq h ft rm d a => Sys2Proof.Machine.execFrsq h ft rm d a s
  | .fsqrt h ft rm d a => Sys2Proof.Machine.execFsqrt h ft rm d a s
  | .fdiv h ft rm d a b => Sys2Proof.Machine.execFdiv h ft rm d a b s
  | .fexp2 h ft rm d a => Sys2Proof.Machine.execFexp2 h ft rm d a s
  | .flog2 h ft rm d a => Sys2Proof.Machine.execFlog2 h ft rm d a s
  | .fsin h ft rm d a => Sys2Proof.Machine.execFsin h ft rm d a s
  | .fcos h ft rm d a => Sys2Proof.Machine.execFcos h ft rm d a s
  | .fclass h ft rm d a => Sys2Proof.Machine.execFclass h ft rm d a s
  | .fround h ft rm d a => Sys2Proof.Machine.execFround h ft rm d a s
  | .fldexp h ft rm d a b => Sys2Proof.Machine.execFldexp h ft rm d a b s
  | .fcvt h d a c dty sty rm sat => Sys2Proof.Machine.execFcvt h d a c dty sty rm sat s
  | .icvt h d a c dty sty rm sat => Sys2Proof.Machine.execIcvt h d a c dty sty rm sat s
  | .i2f h d a c dty sty rm sat => Sys2Proof.Machine.execI2f h d a c dty sty rm sat s
  | .f2i h d a c dty sty rm sat => Sys2Proof.Machine.execF2i h d a c dty sty rm sat s
  | .dot2 h bf ft rm d a b c => Sys2Proof.Machine.execDot2 h bf ft rm d a b c s
  | .dot4 h ef ft rm d a b c => Sys2Proof.Machine.execDot4 h ef ft rm d a b c s
  | .fmtset h d a => Sys2Proof.Machine.execFmtset h d a s
  | .fmtsetImm h d imm => Sys2Proof.Machine.execFmtsetImm h d imm s
  | .fmtget h d a => Sys2Proof.Machine.execFmtget h d a s
  | .tag h d a b => Sys2Proof.Machine.execTag h d a b s
  | .tagImm h d a imm => Sys2Proof.Machine.execTagImm h d a imm s
  | .tagget h d a => Sys2Proof.Machine.execTagget h d a s
  | .bscale h ef ty d a => Sys2Proof.Machine.execBscale h ef ty d a s
  | .packn h d a c dty sty rm sat => Sys2Proof.Machine.execPackn h d a c dty sty rm sat s
  | .unpackn h d a c dty sty rm sat => Sys2Proof.Machine.execUnpackn h d a c dty sty rm sat s
  | .ld h ty d ad ord scp => Sys2Proof.Machine.execLd h ty d ad ord scp s
  | .st h ty ad c ord scp => Sys2Proof.Machine.execSt h ty ad c ord scp s
  | .atom h op ty d ad c ord scp => Sys2Proof.Machine.execAtom h op ty d ad c ord scp s
  | .cas h ty d ad c ord scp y => Sys2Proof.Machine.execCas h ty d ad c ord scp y s
  | .red h op ty ad c ord scp => Sys2Proof.Machine.execRed h op ty ad c ord scp s
  | .fence h ord scp => Sys2Proof.Machine.execFence h ord scp s
  | .brload h d ad ord scp => Sys2Proof.Machine.execBrload h d ad ord scp s
  | .brset h d a => Sys2Proof.Machine.execBrset h d a s
  | .brsetToRegisters h d a => Sys2Proof.Machine.execBrsetToRegisters h d a s
  | .prefetch h ad ord scp => Sys2Proof.Machine.execPrefetch h ad ord scp s
  | .cctl h ad ord scp => Sys2Proof.Machine.execCctl h ad ord scp s
  | .publish h ad c ord scp => Sys2Proof.Machine.execPublish h ad c ord scp s
  | .publishM h d ad c ord scp => Sys2Proof.Machine.execPublishM h d ad c ord scp s
  | .adopt h ad c ord scp => Sys2Proof.Machine.execAdopt h ad c ord scp s
  | .retract h ad c ord scp => Sys2Proof.Machine.execRetract h ad c ord scp s
  | .barinit h d b => Sys2Proof.Machine.execBarinit h d b s
  | .barinitImm h d imm => Sys2Proof.Machine.execBarinitImm h d imm s
  | .bararrive h d a => Sys2Proof.Machine.execBararrive h d a s
  | .barwait h a b => Sys2Proof.Machine.execBarwait h a b s
  | .barsync h a => Sys2Proof.Machine.execBarsync h a s
  | .barinval h a => Sys2Proof.Machine.execBarinval h a s
  | .barquery h d a => Sys2Proof.Machine.execBarquery h d a s
  | .teamsync h => Sys2Proof.Machine.execTeamsync h s
  | .copy h k bar => Sys2Proof.Machine.execCopy h k bar s
  | .copy2d h k bar => Sys2Proof.Machine.execCopy2d h k bar s
  | .copyg h k bar => Sys2Proof.Machine.execCopyg h k bar s
  | .copyrem h k scp cRec cOff => Sys2Proof.Machine.execCopyrem h k scp cRec cOff s
  | .tld h ty d ad ord scp => Sys2Proof.Machine.execTld h ty d ad ord scp s
  | .tst h ty ad c ord scp => Sys2Proof.Machine.execTst h ty ad c ord scp s
  | .tzero h ty d => Sys2Proof.Machine.execTzero h ty d s
  | .tmov h d a => Sys2Proof.Machine.execTmov h d a s
  | .tcvt h rm df d a sf seg c => Sys2Proof.Machine.execTcvt h rm df d a sf seg c s
  | .ttrans h d a => Sys2Proof.Machine.execTtrans h d a s
  | .tadd h ty d a b => Sys2Proof.Machine.execTadd h ty d a b s
  | .tscale h d a => Sys2Proof.Machine.execTscale h d a s
  | .tgetv h ty d a b => Sys2Proof.Machine.execTgetv h ty d a b s
  | .tsetv h ty d a b => Sys2Proof.Machine.execTsetv h ty d a b s
  | .mloadw h ad slot ing wf => Sys2Proof.Machine.execMloadw h ad slot ing wf s
  | .mswap h => Sys2Proof.Machine.execMswap h s
  | .mma h wf d a c af acc p => Sys2Proof.Machine.execMma h wf d a c af acc p s
  | .mlocate h d => Sys2Proof.Machine.execMlocate h d s
  | .mcorrect h d => Sys2Proof.Machine.execMcorrect h d s
  | .mretry h d => Sys2Proof.Machine.execMretry h d s
  | .mdiscard h => Sys2Proof.Machine.execMdiscard h s
  | .mstat h d => Sys2Proof.Machine.execMstat h d s
  | .spawn h d a => Sys2Proof.Machine.execSpawn h d a s
  | .notify h a b => Sys2Proof.Machine.execNotify h a b s
  | .trap h code => Sys2Proof.Machine.execTrap h code s
  | .brk h code => Sys2Proof.Machine.execBrk h code s
  | .trapinfo h d a b => Sys2Proof.Machine.execTrapinfo h d a b s
  | .trapinfoImm h d a imm => Sys2Proof.Machine.execTrapinfoImm h d a imm s
  | .trapclr h a => Sys2Proof.Machine.execTrapclr h a s
  | .trapretResume h => Sys2Proof.Machine.execTrapretResume h s
  | .trapretKill h => Sys2Proof.Machine.execTrapretKill h s
  | .trapretKillsig h => Sys2Proof.Machine.execTrapretKillsig h s
  | .sread h d num => Sys2Proof.Machine.execSread h d num s
  | .swrite h num b => Sys2Proof.Machine.execSwrite h num b s
  | .clock h d => Sys2Proof.Machine.execClock h d s
  | .sleep h b => Sys2Proof.Machine.execSleep h b s
  | .sleepImm h imm => Sys2Proof.Machine.execSleepImm h imm s
  | .clockThrottleStep up => Sys2Proof.Machine.execClockThrottleStep up s
  | .fabidWrite w v => Sys2Proof.Machine.execFabidWrite w v s
  | .pwrcapWrite w v => Sys2Proof.Machine.execPwrcapWrite w v s
  | .portctlWrite w v => Sys2Proof.Machine.execPortctlWrite w v s
  | .retrain w => Sys2Proof.Machine.execRetrain w s
  | .draindlWrite w v => Sys2Proof.Machine.execDraindlWrite w v s
  | .asytolWrite w col v => Sys2Proof.Machine.execAsytolWrite w col v s
  | .asyinjWrite w n v => Sys2Proof.Machine.execAsyinjWrite w n v s
  | .fltcfgWrite w v => Sys2Proof.Machine.execFltcfgWrite w v s
  | .registerWrite w off v => Sys2Proof.Machine.execRegisterWrite w off v s
  | .flitReceive f repaired => Sys2Proof.Machine.execFlitReceive f repaired s
  | .replayRequest seq => Sys2Proof.Machine.execReplayRequest seq s
  | .retrainComplete lanes => Sys2Proof.Machine.execRetrainComplete lanes s
  | .ethernetPacketReceive m cz => Sys2Proof.Machine.execEthernetPacketReceive m cz s
  | .flushMarkerReceive epoch path used => Sys2Proof.Machine.execFlushMarkerReceive epoch path used s
  | .epochAckReceive epoch => Sys2Proof.Machine.execEpochAckReceive epoch s
  | .fabricRequest m => Sys2Proof.Machine.execFabricRequest m s
  | .hostLinkRead addr len => Sys2Proof.Machine.execHostLinkRead addr len s
  | .hostLinkWrite addr data ide => Sys2Proof.Machine.execHostLinkWrite addr data ide s
  | .homeSliceWrite ln res => Sys2Proof.Machine.execHomeSliceWrite ln res s
  | .assign w => Sys2Proof.Machine.execAssign w s
  | .hostMeasurementExtend digest => Sys2Proof.Machine.execHostMeasurementExtend digest s
  | .negotiateAlgorithms offered => Sys2Proof.Machine.execNegotiateAlgorithms offered s
  | .getMeasurements index => Sys2Proof.Machine.execGetMeasurements index s
  | .finish ok => Sys2Proof.Machine.execFinish ok s
  | .ingotInstall req => Sys2Proof.Machine.execIngotInstall req s
  | .ingotSeal req => Sys2Proof.Machine.execIngotSeal req s
  | .ingotRelease req => Sys2Proof.Machine.execIngotRelease req s
  | .queueKey req => Sys2Proof.Machine.execQueueKey req s
  | .podPreempt req => Sys2Proof.Machine.execPodPreempt req s
  | .podCommandReceive deadline space keep => Sys2Proof.Machine.execPodCommandReceive deadline space keep s
  | .podReport dev ok => Sys2Proof.Machine.execPodReport dev ok s
  | .prepare peer => Sys2Proof.Machine.execPrepare peer s
  | .commit ok => Sys2Proof.Machine.execCommit ok s
  | .aborted ok => Sys2Proof.Machine.execAborted ok s
  | .destinationRebootDetected bootId => Sys2Proof.Machine.execDestinationRebootDetected bootId s
  | .restoreChunk chunk => Sys2Proof.Machine.execRestoreChunk chunk s
  | .notifyRecord off data => Sys2Proof.Machine.execNotifyRecord off data s
  | .binTeamLaunch stage => Sys2Proof.Machine.execBinTeamLaunch stage s
  | .binAgeExpiry stage => Sys2Proof.Machine.execBinAgeExpiry stage s
  | .pageRequestReply ok => Sys2Proof.Machine.execPageRequestReply ok s
  | .memoryReply lanes hit res => Sys2Proof.Machine.execMemoryReply lanes hit res s
  | .copyTransfer n res => Sys2Proof.Machine.execCopyTransfer n res s
  | .mloadwFill res => Sys2Proof.Machine.execMloadwFill res s
  | .squadStopped sq => Sys2Proof.Machine.execSquadStopped sq s
  | .sleepExpire tid => Sys2Proof.Machine.execSleepExpire tid s
  | .spawnSlotReserve tid => Sys2Proof.Machine.execSpawnSlotReserve tid s
  | .portTrainingComplete lanes => Sys2Proof.Machine.execPortTrainingComplete lanes s
  | .tdispInterfaceLock w => Sys2Proof.Machine.execTdispInterfaceLock w s
  | .vendorDefinedRequest req => Sys2Proof.Machine.execVendorDefinedRequest req s
  | .prepareSend peer bootId => Sys2Proof.Machine.execPrepareSend peer bootId s
  | .unassignedOpcode k => Sys2Proof.Machine.execUnassignedOpcode k s
  | .coldReset => Sys2Proof.Machine.execColdReset s
  | .warmReset => Sys2Proof.Machine.execWarmReset s
  | .functionLevelReset => Sys2Proof.Machine.execFunctionLevelReset s
  | .powerLoss => Sys2Proof.Machine.execPowerLoss s
  | .thermalTrip => Sys2Proof.Machine.execThermalTrip s
  | .coreFence => Sys2Proof.Machine.execCoreFence s
  | .d3hotEntry => Sys2Proof.Machine.execD3hotEntry s
  | .d0Return => Sys2Proof.Machine.execD0Return s
  | .d3coldEntry => Sys2Proof.Machine.execD3coldEntry s
  | .replayRequestRepeat => Sys2Proof.Machine.execReplayRequestRepeat s
  | .ackTimeoutResend => Sys2Proof.Machine.execAckTimeoutResend s
  | .retrainAfterReplays => Sys2Proof.Machine.execRetrainAfterReplays s
  | .retrainDeadline => Sys2Proof.Machine.execRetrainDeadline s
  | .fenceComplete => Sys2Proof.Machine.execFenceComplete s
  | .connectionTimeout => Sys2Proof.Machine.execConnectionTimeout s
  | .hbmUncorrectableError => Sys2Proof.Machine.execHbmUncorrectableError s
  | .linkRekey => Sys2Proof.Machine.execLinkRekey s
  | .assignComplete => Sys2Proof.Machine.execAssignComplete s
  | .worldCreate => Sys2Proof.Machine.execWorldCreate s
  | .worldDestroy => Sys2Proof.Machine.execWorldDestroy s
  | .portWorldReturn => Sys2Proof.Machine.execPortWorldReturn s
  | .getVersion => Sys2Proof.Machine.execGetVersion s
  | .getCapabilities => Sys2Proof.Machine.execGetCapabilities s
  | .getDigests => Sys2Proof.Machine.execGetDigests s
  | .getCertificate => Sys2Proof.Machine.execGetCertificate s
  | .challenge => Sys2Proof.Machine.execChallenge s
  | .keyExchange => Sys2Proof.Machine.execKeyExchange s
  | .keyUpdate => Sys2Proof.Machine.execKeyUpdate s
  | .heartbeat => Sys2Proof.Machine.execHeartbeat s
  | .endSession => Sys2Proof.Machine.execEndSession s
  | .podResponseDeadline => Sys2Proof.Machine.execPodResponseDeadline s
  | .queueCreate => Sys2Proof.Machine.execQueueCreate s
  | .queueDestroy => Sys2Proof.Machine.execQueueDestroy s
  | .queueDestroyComplete => Sys2Proof.Machine.execQueueDestroyComplete s
  | .queueRestart => Sys2Proof.Machine.execQueueRestart s
  | .statusRecordWrite => Sys2Proof.Machine.execStatusRecordWrite s
  | .queueMap => Sys2Proof.Machine.execQueueMap s
  | .packetAccept => Sys2Proof.Machine.execPacketAccept s
  | .nopPacket => Sys2Proof.Machine.execNopPacket s
  | .launch => Sys2Proof.Machine.execLaunch s
  | .wait => Sys2Proof.Machine.execWait s
  | .waitEvaluate => Sys2Proof.Machine.execWaitEvaluate s
  | .signal => Sys2Proof.Machine.execSignal s
  | .launchComplete => Sys2Proof.Machine.execLaunchComplete s
  | .placementPass => Sys2Proof.Machine.execPlacementPass s
  | .blockedItemTimeout => Sys2Proof.Machine.execBlockedItemTimeout s
  | .stageRoomClaim => Sys2Proof.Machine.execStageRoomClaim s
  | .teamRetire => Sys2Proof.Machine.execTeamRetire s
  | .convoyFormation => Sys2Proof.Machine.execConvoyFormation s
  | .fetchBlock => Sys2Proof.Machine.execFetchBlock s
  | .ctxPreempt => Sys2Proof.Machine.execCtxPreempt s
  | .ctxFreezeNow => Sys2Proof.Machine.execCtxFreezeNow s
  | .ctxResume => Sys2Proof.Machine.execCtxResume s
  | .ctxDiscardImage => Sys2Proof.Machine.execCtxDiscardImage s
  | .drainDeadline => Sys2Proof.Machine.execDrainDeadline s
  | .teamCapture => Sys2Proof.Machine.execTeamCapture s
  | .imageChunkWrite => Sys2Proof.Machine.execImageChunkWrite s
  | .autoResume => Sys2Proof.Machine.execAutoResume s
  | .contextReset => Sys2Proof.Machine.execContextReset s
  | .ptSetRoot => Sys2Proof.Machine.execPtSetRoot s
  | .ptInvalidateAsid => Sys2Proof.Machine.execPtInvalidateAsid s
  | .ptInvalidateRange => Sys2Proof.Machine.execPtInvalidateRange s
  | .ptInvalidateComplete => Sys2Proof.Machine.execPtInvalidateComplete s
  | .copyComplete => Sys2Proof.Machine.execCopyComplete s
  | .mmaStart => Sys2Proof.Machine.execMmaStart s
  | .mmaDrain => Sys2Proof.Machine.execMmaDrain s
  | .mswapExecute => Sys2Proof.Machine.execMswapExecute s
  | .handlerEntry => Sys2Proof.Machine.execHandlerEntry s
  | .dbgAttach => Sys2Proof.Machine.execDbgAttach s
  | .dbgDetach => Sys2Proof.Machine.execDbgDetach s
  | .dbgStop => Sys2Proof.Machine.execDbgStop s
  | .dbgResume => Sys2Proof.Machine.execDbgResume s
  | .dbgStep => Sys2Proof.Machine.execDbgStep s
  | .dbgRead => Sys2Proof.Machine.execDbgRead s
  | .dbgWrite => Sys2Proof.Machine.execDbgWrite s
  | .dbgWatch => Sys2Proof.Machine.execDbgWatch s
  | .dbgHaltRequest => Sys2Proof.Machine.execDbgHaltRequest s
  | .dbgStopMask => Sys2Proof.Machine.execDbgStopMask s
  | .longLatencyResult => Sys2Proof.Machine.execLongLatencyResult s

end Sys2Proof.Machine
end

