-- ==== Sys2Proof/Decode.lean ====
section
/-!
DEFINITION. Decoding and encoding (R262 to R274): the fields of an instruction as encoded (`Raw`), the decoder of a
head inside its fetch block, and the encoder written from the same tables. Decoding is total: a head that is no
instruction answers the trap of R264 that ends its decoding.
-/
namespace Sys2Proof

/-- The fields of R262 as encoded, with the number of parcels (R263: 1 for the one-parcel `NOP`) and whether a
continuation parcel has non-zero low bits. -/
structure Raw where
  par : Nat
  sub : BitVec 6
  d : BitVec 8
  pn : Bool
  pg : BitVec 3
  la : BitVec 4
  op : BitVec 8
  m : BitVec 6
  c : BitVec 8
  b : BitVec 8
  a : BitVec 8
  x : BitVec 30
  y : BitVec 30
  low : Bool
  deriving DecidableEq, Repr

/-- LEN of a number of parcels (R262, R263). -/
def lenOf (par : Nat) : BitVec 2 := if par ≤ 2 then 1 else if par = 3 then 2 else 3

/-- Parcel 0 of R262. -/
def Raw.head (r : Raw) : Word :=
  r.sub ++ r.d ++ BitVec.ofBool r.pn ++ r.pg ++ r.la ++ r.op ++ lenOf r.par

/-- Parcel 1 of R262. -/
def Raw.operands (r : Raw) : Word := r.m ++ r.c ++ r.b ++ r.a ++ 0#2

/-- The parcels of an instruction, first parcel first. -/
def Raw.words (r : Raw) : List Word :=
  [r.head, r.operands, r.x ++ 0#2, r.y ++ 0#2].take r.par

/-- The four bytes of a parcel, least significant first (R2, R262). -/
def wordBytes (w : Word) : List Byte :=
  [w.extractLsb' 0 8, w.extractLsb' 8 8, w.extractLsb' 16 8, w.extractLsb' 24 8]

/-- The parcel at a byte offset of a block. -/
def parcelAt (block : List Byte) (off : Nat) : Word :=
  block.getD (off + 3) 0 ++ block.getD (off + 2) 0 ++ block.getD (off + 1) 0 ++ block.getD off 0

/-- The common part of a decoded form; `unused` says whether a reserved field is non-zero (R264, R265). -/
def Raw.hd (r : Raw) (unused : Bool) : Hd := ⟨r.pg, r.pn, r.la, unused || r.low⟩

/-- The immediate of the RI family (R270). -/
def immOf (r : Raw) : Word := (r.b.setWidth 2) ++ r.x

/-- The operands of the CP family (R268, R271, R342). -/
def copyArgs (r : Raw) : CopyArgs where
  vS := r.d
  dRec := r.a.setWidth 4
  sRec := (r.a >>> 4).setWidth 4
  vK := r.b
  vJ := r.c
  dImm := r.x.setWidth 24
  sImm := r.y.setWidth 24
  len := (r.y >>> 24).setWidth 2 ++ (r.x >>> 24).setWidth 6
  ord := r.sub.getLsbD 5

/-- `BSCALE`'s element format codes (R325). -/
def scaleFmtOk (s : BitVec 6) : Bool :=
  s.toNat ≤ 4 || s.toNat = 8 || s.toNat = 9 || (16 ≤ s.toNat && s.toNat ≤ 23)

/-- The SUB code of a Cmp (R289). -/
def cmpSub : Cmp → BitVec 6
  | .eq => 0
  | .ne => 1
  | .lt => 2
  | .le => 3
  | .gt => 4
  | .ge => 5

/-- The Cmp of SUB; none when unassigned (R269, R289). -/
def cmpOf (sub : BitVec 6) : Option Cmp :=
  match sub.toNat with
  | 0 => some .eq
  | 1 => some .ne
  | 2 => some .lt
  | 3 => some .le
  | 4 => some .gt
  | 5 => some .ge
  | _ => none

/-- The SUB code of a FCmp (R311). -/
def fCmpSub : FCmp → BitVec 6
  | .eq => 0
  | .ne => 1
  | .lt => 2
  | .le => 3
  | .gt => 4
  | .ge => 5
  | .un => 6

/-- The FCmp of SUB; none when unassigned (R269, R311). -/
def fCmpOf (sub : BitVec 6) : Option FCmp :=
  match sub.toNat with
  | 0 => some .eq
  | 1 => some .ne
  | 2 => some .lt
  | 3 => some .le
  | 4 => some .gt
  | 5 => some .ge
  | 6 => some .un
  | _ => none

/-- The SUB code of a PredOp (R296). -/
def predOpSub : PredOp → BitVec 6
  | .and => 0
  | .or => 1
  | .xor => 2

/-- The PredOp of SUB; none when unassigned (R269, R296). -/
def predOpOf (sub : BitVec 6) : Option PredOp :=
  match sub.toNat with
  | 0 => some .and
  | 1 => some .or
  | 2 => some .xor
  | _ => none

/-- The SUB code of a VoteOp (R302). -/
def voteOpSub : VoteOp → BitVec 6
  | .all => 0
  | .any => 1
  | .ballot => 2

/-- The VoteOp of SUB; none when unassigned (R269, R302). -/
def voteOpOf (sub : BitVec 6) : Option VoteOp :=
  match sub.toNat with
  | 0 => some .all
  | 1 => some .any
  | 2 => some .ballot
  | _ => none

/-- The SUB code of a ShflMode (R302). -/
def shflModeSub : ShflMode → BitVec 6
  | .rank => 0
  | .rot => 1
  | .rev => 2
  | .seg => 3

/-- The ShflMode of SUB; none when unassigned (R269, R302). -/
def shflModeOf (sub : BitVec 6) : Option ShflMode :=
  match sub.toNat with
  | 0 => some .rank
  | 1 => some .rot
  | 2 => some .rev
  | 3 => some .seg
  | _ => none

/-- The SUB code of a MatchOp (R302). -/
def matchOpSub : MatchOp → BitVec 6
  | .any => 0
  | .all => 1

/-- The MatchOp of SUB; none when unassigned (R269, R302). -/
def matchOpOf (sub : BitVec 6) : Option MatchOp :=
  match sub.toNat with
  | 0 => some .any
  | 1 => some .all
  | _ => none

/-- The SUB code of a RedOp (R302). -/
def redOpSub : RedOp → BitVec 6
  | .sum => 0
  | .low => 1
  | .high => 2
  | .band => 3
  | .bor => 4
  | .bxor => 5

/-- The RedOp of a code (R302). -/
def redOpOf : Nat → Option RedOp
  | 0 => some .sum
  | 1 => some .low
  | 2 => some .high
  | 3 => some .band
  | 4 => some .bor
  | 5 => some .bxor
  | _ => none

/-- The SUB code of a ScanMode (R302). -/
def scanModeSub : ScanMode → BitVec 6
  | .tot => 0
  | .inc => 1
  | .exc => 2

/-- The ScanMode of a code (R302). -/
def scanModeOf : Nat → Option ScanMode
  | 0 => some .tot
  | 1 => some .inc
  | 2 => some .exc
  | _ => none

/-- The SUB code of a AtomOp (R332). -/
def atomOpSub : AtomOp → BitVec 6
  | .add => 0
  | .min => 1
  | .max => 2
  | .and => 3
  | .or => 4
  | .xor => 5
  | .exch => 6
  | .incw => 7
  | .decw => 8

/-- The AtomOp of SUB; none when unassigned (R269, R332). -/
def atomOpOf (sub : BitVec 6) : Option AtomOp :=
  match sub.toNat with
  | 0 => some .add
  | 1 => some .min
  | 2 => some .max
  | 3 => some .and
  | 4 => some .or
  | 5 => some .xor
  | 6 => some .exch
  | 7 => some .incw
  | 8 => some .decw
  | _ => none

/-- The SUB code of a Dot4Fmt (R322). -/
def dot4FmtSub : Dot4Fmt → BitVec 6
  | .e4m3 => 0
  | .e5m2 => 1
  | .i8 => 5
  | .n8 => 6

/-- The Dot4Fmt of SUB; none when unassigned (R269, R322). -/
def dot4FmtOf (sub : BitVec 6) : Option Dot4Fmt :=
  match sub.toNat with
  | 0 => some .e4m3
  | 1 => some .e5m2
  | 5 => some .i8
  | 6 => some .n8
  | _ => none

/-- SUB of `REDUX` (R302). -/
def reduxSub (op : RedOp) (mode : ScanMode) : BitVec 6 := redOpSub op ||| (scanModeSub mode <<< 3)

/-- Operation and mode of `REDUX`; none when unassigned (R302). -/
def reduxOf (sub : BitVec 6) : Option (RedOp × ScanMode) :=
  match redOpOf (sub.toNat % 8), scanModeOf (sub.toNat / 8) with
  | some op, some mode => some (op, mode)
  | _, _ => none

/-- The operation of `RED`: SUB 6 is unassigned there (R332). -/
def redOpOfSub (sub : BitVec 6) : Option AtomOp := if sub == 6 then none else atomOpOf sub

/-- The instruction of the encoded fields; none for an unassigned opcode, length or SUB (R263, R264, R269, R273,
R274; log 25, DEDUCED). -/
def decodeRaw (r : Raw) : Option Instr :=
  match r.op.toNat with
  | 0 => if r.par == 1 then (if r.sub == 0 then some (.nopOneParcel (r.hd (r.d != 0))) else none) else if r.par == 2 then (if r.sub == 0 then some (.nop (r.hd (r.m != 0 || r.d != 0 || r.a != 0 || r.b != 0 || r.c != 0))) else none) else if r.par == 3 then (if r.sub == 0 then some (.nop96 (r.hd (r.m != 0 || r.d != 0 || r.a != 0 || r.b != 0 || r.c != 0 || r.x != 0))) else none) else if r.par == 4 then (if r.sub == 0 then some (.nop128 (r.hd (r.m != 0 || r.d != 0 || r.a != 0 || r.b != 0 || r.c != 0 || r.x != 0 || r.y != 0))) else none) else none
  | 1 => if r.par == 3 then (if r.sub == 0 then some (.bra (r.hd (r.m != 0 || r.d != 0 || r.a != 0 || r.b != 0 || r.c != 0)) r.x) else none) else none
  | 2 => if r.par == 2 then (if r.sub == 0 then some (.brx (r.hd (r.m != 0 || r.d != 0 || r.b != 0 || r.c != 0)) r.a) else none) else none
  | 3 => if r.par == 3 then (if r.sub == 0 then some (.call (r.hd (r.m != 0 || r.a != 0 || r.b != 0 || r.c != 0)) r.d r.x) else none) else none
  | 4 => if r.par == 2 then (if r.sub == 0 then some (.callx (r.hd (r.m != 0 || r.b != 0 || r.c != 0)) r.d r.a) else none) else none
  | 5 => if r.par == 2 then (if r.sub == 0 then some (.ret (r.hd (r.m != 0 || r.d != 0 || r.b != 0 || r.c != 0)) r.a) else none) else none
  | 6 => if r.par == 2 then (if r.sub == 0 then some (.exit (r.hd (r.m != 0 || r.d != 0 || r.a != 0 || r.b != 0 || r.c != 0))) else none) else none
  | 7 => if r.par == 2 then (if r.sub == 0 then some (.yield (r.hd (r.m != 0 || r.d != 0 || r.a != 0 || r.b != 0 || r.c != 0))) else none) else none
  | 16 => if r.par == 2 then (if r.sub == 0 || r.sub == 1 then some (.iadd (r.hd (r.c != 0)) (r.sub == 1) r.m r.d r.a r.b) else none) else if r.par == 3 then (if r.sub == 0 || r.sub == 1 then some (.iaddImm (r.hd (r.c != 0 || r.b >>> 2 != 0)) (r.sub == 1) r.m r.d r.a (immOf r)) else none) else none
  | 17 => if r.par == 2 then (if r.sub == 0 || r.sub == 1 then some (.isub (r.hd (r.c != 0)) (r.sub == 1) r.m r.d r.a r.b) else none) else if r.par == 3 then (if r.sub == 0 || r.sub == 1 then some (.isubImm (r.hd (r.c != 0 || r.b >>> 2 != 0)) (r.sub == 1) r.m r.d r.a (immOf r)) else none) else none
  | 18 => if r.par == 2 then (if r.sub == 0 then some (.imul (r.hd (r.c != 0)) r.m r.d r.a r.b) else none) else if r.par == 3 then (if r.sub == 0 then some (.imulImm (r.hd (r.c != 0 || r.b >>> 2 != 0)) r.m r.d r.a (immOf r)) else none) else none
  | 19 => if r.par == 2 then (if r.sub == 0 then some (.imulh (r.hd (r.c != 0)) r.m r.d r.a r.b) else none) else if r.par == 3 then (if r.sub == 0 then some (.imulhImm (r.hd (r.c != 0 || r.b >>> 2 != 0)) r.m r.d r.a (immOf r)) else none) else none
  | 20 => if r.par == 2 then (if r.sub == 0 then some (.imad (r.hd (false)) r.m r.d r.a r.b r.c) else none) else if r.par == 3 then (if r.sub == 0 then some (.imadImm (r.hd (r.b >>> 2 != 0)) r.m r.d r.a r.c (immOf r)) else none) else none
  | 21 => if r.par == 2 then (if r.sub == 0 then some (.imin (r.hd (r.c != 0)) r.m r.d r.a r.b) else none) else if r.par == 3 then (if r.sub == 0 then some (.iminImm (r.hd (r.c != 0 || r.b >>> 2 != 0)) r.m r.d r.a (immOf r)) else none) else none
  | 22 => if r.par == 2 then (if r.sub == 0 then some (.imax (r.hd (r.c != 0)) r.m r.d r.a r.b) else none) else if r.par == 3 then (if r.sub == 0 then some (.imaxImm (r.hd (r.c != 0 || r.b >>> 2 != 0)) r.m r.d r.a (immOf r)) else none) else none
  | 23 => if r.par == 2 then (if r.sub == 0 then some (.iabs (r.hd (r.b != 0 || r.c != 0)) r.m r.d r.a) else none) else none
  | 24 => if r.par == 2 then (if r.sub == 0 then some (.ineg (r.hd (r.b != 0 || r.c != 0)) r.m r.d r.a) else none) else none
  | 25 => if r.par == 2 then (if r.sub == 0 then some (.idiv (r.hd (r.c != 0)) r.m r.d r.a r.b) else none) else if r.par == 3 then (if r.sub == 0 then some (.idivImm (r.hd (r.c != 0 || r.b >>> 2 != 0)) r.m r.d r.a (immOf r)) else none) else none
  | 26 => if r.par == 2 then (if r.sub == 0 then some (.imod (r.hd (r.c != 0)) r.m r.d r.a r.b) else none) else if r.par == 3 then (if r.sub == 0 then some (.imodImm (r.hd (r.c != 0 || r.b >>> 2 != 0)) r.m r.d r.a (immOf r)) else none) else none
  | 27 => if r.par == 2 then ((cmpOf r.sub).map fun x => (.icmp (r.hd (r.d >>> 3 != 0 || r.c != 0)) x r.m (r.d.setWidth 3) r.a r.b)) else if r.par == 3 then ((cmpOf r.sub).map fun x => (.icmpImm (r.hd (r.d >>> 3 != 0 || r.c != 0 || r.b >>> 2 != 0)) x r.m (r.d.setWidth 3) r.a (immOf r))) else none
  | 32 => if r.par == 2 then (if r.sub == 0 then some (.and (r.hd (r.c != 0)) r.m r.d r.a r.b) else none) else if r.par == 3 then (if r.sub == 0 then some (.andImm (r.hd (r.c != 0 || r.b >>> 2 != 0)) r.m r.d r.a (immOf r)) else none) else none
  | 33 => if r.par == 2 then (if r.sub == 0 then some (.or (r.hd (r.c != 0)) r.m r.d r.a r.b) else none) else if r.par == 3 then (if r.sub == 0 then some (.orImm (r.hd (r.c != 0 || r.b >>> 2 != 0)) r.m r.d r.a (immOf r)) else none) else none
  | 34 => if r.par == 2 then (if r.sub == 0 then some (.xor (r.hd (r.c != 0)) r.m r.d r.a r.b) else none) else if r.par == 3 then (if r.sub == 0 then some (.xorImm (r.hd (r.c != 0 || r.b >>> 2 != 0)) r.m r.d r.a (immOf r)) else none) else none
  | 35 => if r.par == 2 then (if r.sub == 0 then some (.not (r.hd (r.b != 0 || r.c != 0)) r.m r.d r.a) else none) else none
  | 36 => if r.par == 2 then (if r.sub == 0 then some (.andn (r.hd (r.c != 0)) r.m r.d r.a r.b) else none) else if r.par == 3 then (if r.sub == 0 then some (.andnImm (r.hd (r.c != 0 || r.b >>> 2 != 0)) r.m r.d r.a (immOf r)) else none) else none
  | 37 => if r.par == 2 then (if r.sub == 0 then some (.shl (r.hd (r.c != 0)) r.m r.d r.a r.b) else none) else if r.par == 3 then (if r.sub == 0 then some (.shlImm (r.hd (r.c != 0 || r.b >>> 2 != 0)) r.m r.d r.a (immOf r)) else none) else none
  | 38 => if r.par == 2 then (if r.sub == 0 then some (.shr (r.hd (r.c != 0)) r.m r.d r.a r.b) else none) else if r.par == 3 then (if r.sub == 0 then some (.shrImm (r.hd (r.c != 0 || r.b >>> 2 != 0)) r.m r.d r.a (immOf r)) else none) else none
  | 39 => if r.par == 2 then (if r.sub == 0 then some (.sar (r.hd (r.c != 0)) r.m r.d r.a r.b) else none) else if r.par == 3 then (if r.sub == 0 then some (.sarImm (r.hd (r.c != 0 || r.b >>> 2 != 0)) r.m r.d r.a (immOf r)) else none) else none
  | 40 => if r.par == 2 then (if r.sub == 0 then some (.rot (r.hd (r.c != 0)) r.m r.d r.a r.b) else none) else if r.par == 3 then (if r.sub == 0 then some (.rotImm (r.hd (r.c != 0 || r.b >>> 2 != 0)) r.m r.d r.a (immOf r)) else none) else none
  | 41 => if r.par == 2 then (if r.sub == 0 then some (.popc (r.hd (r.b != 0 || r.c != 0)) r.m r.d r.a) else none) else none
  | 42 => if r.par == 2 then (if r.sub == 0 then some (.clz (r.hd (r.b != 0 || r.c != 0)) r.m r.d r.a) else none) else none
  | 43 => if r.par == 2 then (if r.sub == 0 then some (.ctz (r.hd (r.b != 0 || r.c != 0)) r.m r.d r.a) else none) else none
  | 44 => if r.par == 2 then (if r.sub == 0 then some (.brev (r.hd (r.b != 0 || r.c != 0)) r.m r.d r.a) else none) else none
  | 45 => if r.par == 2 then (if r.sub == 0 then some (.bfx (r.hd (r.c != 0)) r.m r.d r.a r.b) else none) else if r.par == 3 then (if r.sub == 0 then some (.bfxImm (r.hd (r.c != 0 || r.b >>> 2 != 0)) r.m r.d r.a (immOf r)) else none) else none
  | 46 => if r.par == 2 then (if r.sub == 0 then some (.bfi (r.hd (false)) r.m r.d r.a r.b r.c) else none) else if r.par == 3 then (if r.sub == 0 then some (.bfiImm (r.hd (r.b >>> 2 != 0)) r.m r.d r.a r.c (immOf r)) else none) else none
  | 47 => if r.par == 2 then (if r.sub == 0 then some (.bperm (r.hd (false)) r.m r.d r.a r.b r.c) else none) else if r.par == 3 then (if r.sub == 0 then some (.bpermImm (r.hd (r.b >>> 2 != 0)) r.m r.d r.a r.c (immOf r)) else none) else none
  | 48 => if r.par == 2 then (if r.sub == 0 then some (.mov (r.hd (r.b != 0 || r.c != 0)) r.m r.d r.a) else none) else none
  | 49 => if r.par == 3 then (if r.sub == 0 then some (.movi (r.hd (r.a != 0 || r.c != 0 || r.b >>> 2 != 0)) r.m r.d (immOf r)) else none) else none
  | 50 => if r.par == 2 then (if r.sub == 0 then some (.sel (r.hd (r.c >>> 3 != 0)) r.m r.d r.a r.b (r.c.setWidth 3)) else none) else if r.par == 3 then (if r.sub == 0 then some (.selImm (r.hd (r.c >>> 3 != 0 || r.b >>> 2 != 0)) r.m r.d r.a (r.c.setWidth 3) (immOf r)) else none) else none
  | 51 => if r.par == 2 then (if r.sub == 0 then some (.lea (r.hd (r.c >>> 3 != 0)) r.m r.d r.a r.b (r.c.setWidth 3)) else none) else if r.par == 3 then (if r.sub == 0 then some (.leaImm (r.hd (r.c >>> 3 != 0 || r.b >>> 2 != 0)) r.m r.d r.a (r.c.setWidth 3) (immOf r)) else none) else none
  | 52 => if r.par == 2 then ((predOpOf r.sub).map fun x => (.plop (r.hd (r.m >>> 2 != 0 || r.d >>> 3 != 0 || r.a >>> 3 != 0 || r.b >>> 3 != 0 || r.c != 0)) x (r.m.getLsbD 0) (r.m.getLsbD 1) (r.d.setWidth 3) (r.a.setWidth 3) (r.b.setWidth 3))) else none
  | 53 => if r.par == 2 then (if r.sub == 0 then some (.pmovToRegister (r.hd (r.m != 0 || r.a != 0 || r.b != 0 || r.c != 0)) r.d) else if r.sub == 1 then some (.pmovToPredicates (r.hd (r.m != 0 || r.d != 0 || r.b != 0 || r.c != 0)) r.a) else none) else none
  | 64 => if r.par == 2 then (if r.sub == 0 then some (.sqsync (r.hd (r.m != 0 || r.d != 0 || r.a != 0 || r.c != 0)) r.b) else none) else if r.par == 3 then (if r.sub == 0 then some (.sqsyncImm (r.hd (r.m != 0 || r.d != 0 || r.a != 0 || r.c != 0 || r.b >>> 2 != 0)) (immOf r)) else none) else none
  | 65 => if r.par == 2 then ((voteOpOf r.sub).map fun x => (.vote (r.hd (r.m >>> 1 != 0 || r.a >>> 3 != 0 || r.c != 0)) x (r.m.getLsbD 0) r.d (r.a.setWidth 3) r.b)) else if r.par == 3 then ((voteOpOf r.sub).map fun x => (.voteImm (r.hd (r.m >>> 1 != 0 || r.a >>> 3 != 0 || r.c != 0 || r.b >>> 2 != 0)) x (r.m.getLsbD 0) r.d (r.a.setWidth 3) (immOf r))) else none
  | 66 => if r.par == 2 then ((shflModeOf r.sub).map fun x => (.shfl (r.hd (false)) x r.m r.d r.a r.b r.c)) else if r.par == 3 then ((shflModeOf r.sub).map fun x => (.shflImm (r.hd (r.b >>> 2 != 0)) x r.m r.d r.a r.c (immOf r))) else none
  | 67 => if r.par == 2 then ((matchOpOf r.sub).map fun x => (.sqMatch (r.hd (r.c != 0)) x r.m r.d r.a r.b)) else if r.par == 3 then ((matchOpOf r.sub).map fun x => (.sqMatchImm (r.hd (r.c != 0 || r.b >>> 2 != 0)) x r.m r.d r.a (immOf r))) else none
  | 68 => if r.par == 2 then ((reduxOf r.sub).map fun x => (.redux (r.hd (r.c != 0)) x.1 x.2 r.m r.d r.a r.b)) else if r.par == 3 then ((reduxOf r.sub).map fun x => (.reduxImm (r.hd (r.c != 0 || r.b >>> 2 != 0)) x.1 x.2 r.m r.d r.a (immOf r))) else none
  | 69 => if r.par == 2 then (if r.sub == 0 then some (.convoy (r.hd (r.m != 0 || r.a != 0 || r.c != 0)) r.d r.b) else none) else if r.par == 3 then (if r.sub == 0 then some (.convoyImm (r.hd (r.m != 0 || r.a != 0 || r.c != 0 || r.b >>> 2 != 0)) r.d (immOf r)) else none) else none
  | 80 => if r.par == 2 then (if r.sub == 0 then some (.fadd (r.hd (r.c != 0)) (r.m.setWidth 3) ((r.m >>> 3).setWidth 3) r.d r.a r.b) else none) else none
  | 81 => if r.par == 2 then (if r.sub == 0 then some (.fsub (r.hd (r.c != 0)) (r.m.setWidth 3) ((r.m >>> 3).setWidth 3) r.d r.a r.b) else none) else none
  | 82 => if r.par == 2 then (if r.sub == 0 then some (.fmul (r.hd (r.c != 0)) (r.m.setWidth 3) ((r.m >>> 3).setWidth 3) r.d r.a r.b) else none) else none
  | 83 => if r.par == 2 then (if r.sub == 0 then some (.ffma (r.hd (false)) (r.m.setWidth 3) ((r.m >>> 3).setWidth 3) r.d r.a r.b r.c) else none) else none
  | 84 => if r.par == 2 then (if r.sub == 0 then some (.fmin (r.hd (r.c != 0)) (r.m.setWidth 3) ((r.m >>> 3).setWidth 3) r.d r.a r.b) else none) else none
  | 85 => if r.par == 2 then (if r.sub == 0 then some (.fmax (r.hd (r.c != 0)) (r.m.setWidth 3) ((r.m >>> 3).setWidth 3) r.d r.a r.b) else none) else none
  | 86 => if r.par == 2 then ((fCmpOf r.sub).map fun x => (.fcmp (r.hd (r.d >>> 3 != 0 || r.c != 0)) x (r.m.setWidth 3) ((r.m >>> 3).setWidth 3) (r.d.setWidth 3) r.a r.b)) else none
  | 87 => if r.par == 2 then (if r.sub == 0 then some (.frcp (r.hd (r.b != 0 || r.c != 0)) (r.m.setWidth 3) ((r.m >>> 3).setWidth 3) r.d r.a) else none) else none
  | 88 => if r.par == 2 then (if r.sub == 0 then some (.frsq (r.hd (r.b != 0 || r.c != 0)) (r.m.setWidth 3) ((r.m >>> 3).setWidth 3) r.d r.a) else none) else none
  | 89 => if r.par == 2 then (if r.sub == 0 then some (.fsqrt (r.hd (r.b != 0 || r.c != 0)) (r.m.setWidth 3) ((r.m >>> 3).setWidth 3) r.d r.a) else none) else none
  | 90 => if r.par == 2 then (if r.sub == 0 then some (.fdiv (r.hd (r.c != 0)) (r.m.setWidth 3) ((r.m >>> 3).setWidth 3) r.d r.a r.b) else none) else none
  | 91 => if r.par == 2 then (if r.sub == 0 then some (.fexp2 (r.hd (r.b != 0 || r.c != 0)) (r.m.setWidth 3) ((r.m >>> 3).setWidth 3) r.d r.a) else none) else none
  | 92 => if r.par == 2 then (if r.sub == 0 then some (.flog2 (r.hd (r.b != 0 || r.c != 0)) (r.m.setWidth 3) ((r.m >>> 3).setWidth 3) r.d r.a) else none) else none
  | 93 => if r.par == 2 then (if r.sub == 0 then some (.fsin (r.hd (r.b != 0 || r.c != 0)) (r.m.setWidth 3) ((r.m >>> 3).setWidth 3) r.d r.a) else none) else none
  | 94 => if r.par == 2 then (if r.sub == 0 then some (.fcos (r.hd (r.b != 0 || r.c != 0)) (r.m.setWidth 3) ((r.m >>> 3).setWidth 3) r.d r.a) else none) else none
  | 95 => if r.par == 2 then (if r.sub == 0 then some (.fclass (r.hd (r.b != 0 || r.c != 0)) (r.m.setWidth 3) ((r.m >>> 3).setWidth 3) r.d r.a) else none) else none
  | 96 => if r.par == 2 then (if r.sub == 0 then some (.fround (r.hd (r.b != 0 || r.c != 0)) (r.m.setWidth 3) ((r.m >>> 3).setWidth 3) r.d r.a) else none) else none
  | 97 => if r.par == 2 then (if r.sub == 0 then some (.fldexp (r.hd (r.c != 0)) (r.m.setWidth 3) ((r.m >>> 3).setWidth 3) r.d r.a r.b) else none) else none
  | 104 => if r.par == 3 then (if r.sub == 0 then some (.fcvt (r.hd (r.m != 0 || r.b != 0 || r.x >>> 16 != 0)) r.d r.a r.c (r.x.setWidth 6) ((r.x >>> 6).setWidth 6) ((r.x >>> 12).setWidth 3) (r.x.getLsbD 15)) else none) else none
  | 105 => if r.par == 3 then (if r.sub == 0 then some (.icvt (r.hd (r.m != 0 || r.b != 0 || r.x >>> 16 != 0)) r.d r.a r.c (r.x.setWidth 6) ((r.x >>> 6).setWidth 6) ((r.x >>> 12).setWidth 3) (r.x.getLsbD 15)) else none) else none
  | 106 => if r.par == 3 then (if r.sub == 0 then some (.i2f (r.hd (r.m != 0 || r.b != 0 || r.x >>> 16 != 0)) r.d r.a r.c (r.x.setWidth 6) ((r.x >>> 6).setWidth 6) ((r.x >>> 12).setWidth 3) (r.x.getLsbD 15)) else none) else none
  | 107 => if r.par == 3 then (if r.sub == 0 then some (.f2i (r.hd (r.m != 0 || r.b != 0 || r.x >>> 16 != 0)) r.d r.a r.c (r.x.setWidth 6) ((r.x >>> 6).setWidth 6) ((r.x >>> 12).setWidth 3) (r.x.getLsbD 15)) else none) else none
  | 108 => if r.par == 2 then (if r.sub == 8 || r.sub == 9 then some (.dot2 (r.hd (false)) (r.sub == 9) (r.m.setWidth 3) ((r.m >>> 3).setWidth 3) r.d r.a r.b r.c) else none) else none
  | 109 => if r.par == 2 then ((dot4FmtOf r.sub).map fun x => (.dot4 (r.hd (false)) x (r.m.setWidth 3) ((r.m >>> 3).setWidth 3) r.d r.a r.b r.c)) else none
  | 112 => if r.par == 2 then (if r.sub == 0 then some (.fmtset (r.hd (r.m != 0 || r.d >>> 3 != 0 || r.b != 0 || r.c != 0)) (r.d.setWidth 3) r.a) else none) else if r.par == 3 then (if r.sub == 0 then some (.fmtsetImm (r.hd (r.m != 0 || r.d >>> 3 != 0 || r.a != 0 || r.c != 0 || r.b >>> 2 != 0)) (r.d.setWidth 3) (immOf r)) else none) else none
  | 113 => if r.par == 2 then (if r.sub == 0 then some (.fmtget (r.hd (r.m != 0 || r.a >>> 3 != 0 || r.b != 0 || r.c != 0)) r.d (r.a.setWidth 3)) else none) else none
  | 114 => if r.par == 2 then (if r.sub == 0 then some (.tag (r.hd (r.m != 0 || r.c != 0)) r.d r.a r.b) else none) else if r.par == 3 then (if r.sub == 0 then some (.tagImm (r.hd (r.m != 0 || r.c != 0 || r.b >>> 2 != 0)) r.d r.a (immOf r)) else none) else none
  | 115 => if r.par == 2 then (if r.sub == 0 then some (.tagget (r.hd (r.m != 0 || r.b != 0 || r.c != 0)) r.d r.a) else none) else none
  | 116 => if r.par == 2 then (if scaleFmtOk r.sub then some (.bscale (r.hd (r.b != 0 || r.c != 0)) (r.sub.setWidth 5) r.m r.d r.a) else none) else none
  | 117 => if r.par == 3 then (if r.sub == 0 then some (.packn (r.hd (r.m != 0 || r.b != 0 || r.x >>> 16 != 0)) r.d r.a r.c (r.x.setWidth 6) ((r.x >>> 6).setWidth 6) ((r.x >>> 12).setWidth 3) (r.x.getLsbD 15)) else none) else none
  | 118 => if r.par == 3 then (if r.sub == 0 then some (.unpackn (r.hd (r.m != 0 || r.b != 0 || r.x >>> 16 != 0)) r.d r.a r.c (r.x.setWidth 6) ((r.x >>> 6).setWidth 6) ((r.x >>> 12).setWidth 3) (r.x.getLsbD 15)) else none) else none
  | 128 => if r.par == 3 then (if r.sub == 0 then some (.ld (r.hd (r.a >>> 4 != 0 || r.c != 0)) r.m r.d ⟨r.a.setWidth 4, r.b, r.x.setWidth 24⟩ ((r.x >>> 24).setWidth 3) ((r.x >>> 27).setWidth 3)) else none) else none
  | 129 => if r.par == 3 then (if r.sub == 0 then some (.st (r.hd (r.d != 0 || r.a >>> 4 != 0)) r.m ⟨r.a.setWidth 4, r.b, r.x.setWidth 24⟩ r.c ((r.x >>> 24).setWidth 3) ((r.x >>> 27).setWidth 3)) else none) else none
  | 130 => if r.par == 3 then ((atomOpOf r.sub).map fun x => (.atom (r.hd (r.a >>> 4 != 0)) x r.m r.d ⟨r.a.setWidth 4, r.b, r.x.setWidth 24⟩ r.c ((r.x >>> 24).setWidth 3) ((r.x >>> 27).setWidth 3))) else none
  | 131 => if r.par == 4 then (if r.sub == 0 then some (.cas (r.hd (r.a >>> 4 != 0 || r.y >>> 8 != 0)) r.m r.d ⟨r.a.setWidth 4, r.b, r.x.setWidth 24⟩ r.c ((r.x >>> 24).setWidth 3) ((r.x >>> 27).setWidth 3) (r.y.setWidth 8)) else none) else none
  | 132 => if r.par == 3 then ((redOpOfSub r.sub).map fun x => (.red (r.hd (r.d != 0 || r.a >>> 4 != 0)) x r.m ⟨r.a.setWidth 4, r.b, r.x.setWidth 24⟩ r.c ((r.x >>> 24).setWidth 3) ((r.x >>> 27).setWidth 3))) else none
  | 133 => if r.par == 3 then (if r.sub == 0 then some (.fence (r.hd (r.m != 0 || r.d != 0 || r.a != 0 || r.b != 0 || r.c != 0 || r.x.setWidth 24 != 0)) ((r.x >>> 24).setWidth 3) ((r.x >>> 27).setWidth 3)) else none) else none
  | 134 => if r.par == 3 then (if r.sub == 0 then some (.brload (r.hd (r.m != 0 || r.d >>> 4 != 0 || r.a >>> 4 != 0 || r.c != 0)) (r.d.setWidth 4) ⟨r.a.setWidth 4, r.b, r.x.setWidth 24⟩ ((r.x >>> 24).setWidth 3) ((r.x >>> 27).setWidth 3)) else none) else none
  | 135 => if r.par == 2 then (if r.sub == 0 then some (.brset (r.hd (r.m != 0 || r.d >>> 4 != 0 || r.b != 0 || r.c != 0)) (r.d.setWidth 4) r.a) else if r.sub == 1 then some (.brsetToRegisters (r.hd (r.m != 0 || r.a >>> 4 != 0 || r.b != 0 || r.c != 0)) r.d (r.a.setWidth 4)) else none) else none
  | 136 => if r.par == 3 then (if r.sub == 0 then some (.prefetch (r.hd (r.m != 0 || r.d != 0 || r.a >>> 4 != 0 || r.c != 0)) ⟨r.a.setWidth 4, r.b, r.x.setWidth 24⟩ ((r.x >>> 24).setWidth 3) ((r.x >>> 27).setWidth 3)) else none) else none
  | 137 => if r.par == 3 then (if r.sub == 0 then some (.cctl (r.hd (r.m != 0 || r.d != 0 || r.a >>> 4 != 0 || r.c != 0)) ⟨r.a.setWidth 4, r.b, r.x.setWidth 24⟩ ((r.x >>> 24).setWidth 3) ((r.x >>> 27).setWidth 3)) else none) else none
  | 140 => if r.par == 3 then (if r.sub == 0 then (if r.m.getLsbD 0 then some (.publishM (r.hd (r.m >>> 1 != 0 || r.a >>> 4 != 0)) r.d ⟨r.a.setWidth 4, r.b, r.x.setWidth 24⟩ r.c ((r.x >>> 24).setWidth 3) ((r.x >>> 27).setWidth 3)) else some (.publish (r.hd (r.m != 0 || r.d != 0 || r.a >>> 4 != 0)) ⟨r.a.setWidth 4, r.b, r.x.setWidth 24⟩ r.c ((r.x >>> 24).setWidth 3) ((r.x >>> 27).setWidth 3))) else none) else none
  | 141 => if r.par == 3 then (if r.sub == 0 then some (.adopt (r.hd (r.m != 0 || r.d != 0 || r.a >>> 4 != 0)) ⟨r.a.setWidth 4, r.b, r.x.setWidth 24⟩ r.c ((r.x >>> 24).setWidth 3) ((r.x >>> 27).setWidth 3)) else none) else none
  | 142 => if r.par == 3 then (if r.sub == 0 then some (.retract (r.hd (r.m != 0 || r.d != 0 || r.a >>> 4 != 0)) ⟨r.a.setWidth 4, r.b, r.x.setWidth 24⟩ r.c ((r.x >>> 24).setWidth 3) ((r.x >>> 27).setWidth 3)) else none) else none
  | 144 => if r.par == 2 then (if r.sub == 0 then some (.barinit (r.hd (r.m != 0 || r.d >>> 4 != 0 || r.a != 0 || r.c != 0)) (r.d.setWidth 4) r.b) else none) else if r.par == 3 then (if r.sub == 0 then some (.barinitImm (r.hd (r.m != 0 || r.d >>> 4 != 0 || r.a != 0 || r.c != 0 || r.b >>> 2 != 0)) (r.d.setWidth 4) (immOf r)) else none) else none
  | 145 => if r.par == 2 then (if r.sub == 0 then some (.bararrive (r.hd (r.m != 0 || r.a >>> 4 != 0 || r.b != 0 || r.c != 0)) r.d (r.a.setWidth 4)) else none) else none
  | 146 => if r.par == 2 then (if r.sub == 0 then some (.barwait (r.hd (r.m != 0 || r.d != 0 || r.a >>> 4 != 0 || r.c != 0)) (r.a.setWidth 4) r.b) else none) else none
  | 147 => if r.par == 2 then (if r.sub == 0 then some (.barsync (r.hd (r.m != 0 || r.d != 0 || r.a >>> 4 != 0 || r.b != 0 || r.c != 0)) (r.a.setWidth 4)) else none) else none
  | 148 => if r.par == 2 then (if r.sub == 0 then some (.barinval (r.hd (r.m != 0 || r.d != 0 || r.a >>> 4 != 0 || r.b != 0 || r.c != 0)) (r.a.setWidth 4)) else none) else none
  | 149 => if r.par == 2 then (if r.sub == 0 then some (.barquery (r.hd (r.m != 0 || r.a >>> 4 != 0 || r.b != 0 || r.c != 0)) r.d (r.a.setWidth 4)) else none) else none
  | 150 => if r.par == 2 then (if r.sub == 0 then some (.teamsync (r.hd (r.m != 0 || r.d != 0 || r.a != 0 || r.b != 0 || r.c != 0))) else none) else none
  | 152 => if r.par == 4 then (some (.copy (r.hd (r.m != 0 || r.y >>> 26 != 0)) (copyArgs r) ⟨r.sub.getLsbD 4, r.sub.setWidth 4⟩)) else none
  | 153 => if r.par == 4 then (some (.copy2d (r.hd (r.m != 0 || r.y >>> 26 != 0)) (copyArgs r) ⟨r.sub.getLsbD 4, r.sub.setWidth 4⟩)) else none
  | 154 => if r.par == 4 then (some (.copyg (r.hd (r.m != 0 || r.y >>> 26 != 0)) (copyArgs r) ⟨r.sub.getLsbD 4, r.sub.setWidth 4⟩)) else none
  | 155 => if r.par == 4 then (some (.copyrem (r.hd ((r.sub >>> 3).setWidth 2 != 0#2)) (copyArgs r) (r.sub.setWidth 3) ((r.y >>> 26).setWidth 4) r.m)) else none
  | 160 => if r.par == 3 then (if r.sub == 0 then some (.tld (r.hd (r.d >>> 6 != 0 || r.a >>> 4 != 0 || r.c != 0)) r.m (r.d.setWidth 6) ⟨r.a.setWidth 4, r.b, r.x.setWidth 24⟩ ((r.x >>> 24).setWidth 3) ((r.x >>> 27).setWidth 3)) else none) else none
  | 161 => if r.par == 3 then (if r.sub == 0 then some (.tst (r.hd (r.d != 0 || r.a >>> 4 != 0 || r.c >>> 6 != 0)) r.m ⟨r.a.setWidth 4, r.b, r.x.setWidth 24⟩ (r.c.setWidth 6) ((r.x >>> 24).setWidth 3) ((r.x >>> 27).setWidth 3)) else none) else none
  | 162 => if r.par == 2 then (if r.sub == 0 then some (.tzero (r.hd (r.d >>> 6 != 0 || r.a != 0 || r.b != 0 || r.c != 0)) r.m (r.d.setWidth 6)) else none) else none
  | 163 => if r.par == 2 then (if r.sub == 0 then some (.tmov (r.hd (r.m != 0 || r.d >>> 6 != 0 || r.a >>> 6 != 0 || r.b != 0 || r.c != 0)) (r.d.setWidth 6) (r.a.setWidth 6)) else none) else none
  | 164 => if r.par == 2 then (if r.sub.toNat ≤ 5 then some (.tcvt (r.hd (r.m >>> 5 != 0 || r.d >>> 6 != 0 || r.a >>> 6 != 0 || r.b.getLsbD 7)) (r.sub.setWidth 3) (r.m.setWidth 5) (r.d.setWidth 6) (r.a.setWidth 6) (r.b.setWidth 5) ((r.b >>> 5).setWidth 2) r.c) else none) else none
  | 165 => if r.par == 2 then (if r.sub == 0 then some (.ttrans (r.hd (r.m != 0 || r.d >>> 6 != 0 || r.a >>> 6 != 0 || r.b != 0 || r.c != 0)) (r.d.setWidth 6) (r.a.setWidth 6)) else none) else none
  | 166 => if r.par == 2 then (if r.sub == 0 then some (.tadd (r.hd (r.d >>> 6 != 0 || r.a >>> 6 != 0 || r.b >>> 6 != 0 || r.c != 0)) r.m (r.d.setWidth 6) (r.a.setWidth 6) (r.b.setWidth 6)) else none) else none
  | 167 => if r.par == 2 then (if r.sub == 0 then some (.tscale (r.hd (r.m != 0 || r.d >>> 6 != 0 || r.b != 0 || r.c != 0)) (r.d.setWidth 6) r.a) else none) else none
  | 168 => if r.par == 2 then (if r.sub == 0 then some (.tgetv (r.hd (r.a >>> 6 != 0 || r.c != 0)) r.m r.d (r.a.setWidth 6) r.b) else none) else none
  | 169 => if r.par == 2 then (if r.sub == 0 then some (.tsetv (r.hd (r.d >>> 6 != 0 || r.c != 0)) r.m (r.d.setWidth 6) r.a r.b) else none) else none
  | 192 => if r.par == 3 then (if r.sub == 0 then some (.mloadw (r.hd (r.d != 0 || r.a >>> 4 != 0 || r.c.getLsbD 7 || r.m >>> 5 != 0 || r.x >>> 24 != 0)) ⟨r.a.setWidth 4, r.b, r.x.setWidth 24⟩ (r.c.setWidth 6) (r.c.getLsbD 6) (r.m.setWidth 5)) else none) else none
  | 193 => if r.par == 2 then (if r.sub == 0 then some (.mswap (r.hd (r.m != 0 || r.d != 0 || r.a != 0 || r.b != 0 || r.c != 0))) else none) else none
  | 194 => if r.par == 2 then (if r.sub == 0 then some (.mma (r.hd (r.m >>> 5 != 0 || r.d >>> 6 != 0 || r.a >>> 6 != 0 || r.b >>> 6 != 0)) (r.m.setWidth 5) (r.d.setWidth 6) (r.a.setWidth 6) (r.b.setWidth 6) (r.c.setWidth 5) ((r.c >>> 5).setWidth 2) (r.c.getLsbD 7)) else none) else none
  | 195 => if r.par == 2 then (if r.sub == 0 then some (.mlocate (r.hd (r.m != 0 || r.a != 0 || r.b != 0 || r.c != 0)) r.d) else none) else none
  | 196 => if r.par == 2 then (if r.sub == 0 then some (.mcorrect (r.hd (r.m != 0 || r.a != 0 || r.b != 0 || r.c != 0)) r.d) else none) else none
  | 197 => if r.par == 2 then (if r.sub == 0 then some (.mretry (r.hd (r.m != 0 || r.a != 0 || r.b != 0 || r.c != 0)) r.d) else none) else none
  | 198 => if r.par == 2 then (if r.sub == 0 then some (.mdiscard (r.hd (r.m != 0 || r.d != 0 || r.a != 0 || r.b != 0 || r.c != 0))) else none) else none
  | 199 => if r.par == 2 then (if r.sub == 0 then some (.mstat (r.hd (r.m != 0 || r.a != 0 || r.b != 0 || r.c != 0)) r.d) else none) else none
  | 208 => if r.par == 2 then (if r.sub == 0 then some (.spawn (r.hd (r.m != 0 || r.d >>> 4 != 0 || r.b != 0 || r.c != 0)) (r.d.setWidth 4) r.a) else none) else none
  | 209 => if r.par == 2 then (if r.sub == 0 then some (.notify (r.hd (r.m != 0 || r.d != 0 || r.c != 0)) r.a r.b) else none) else none
  | 224 => if r.par == 2 then (if r.sub == 0 then some (.trap (r.hd (r.m != 0 || r.d != 0 || r.c != 0)) (r.b ++ r.a)) else none) else none
  | 225 => if r.par == 2 then (if r.sub == 0 then some (.brk (r.hd (r.m != 0 || r.d != 0 || r.c != 0)) (r.b ++ r.a)) else none) else none
  | 226 => if r.par == 2 then (if r.sub == 0 then some (.trapinfo (r.hd (r.m != 0 || r.c != 0)) r.d r.a r.b) else none) else if r.par == 3 then (if r.sub == 0 then some (.trapinfoImm (r.hd (r.m != 0 || r.c != 0 || r.b >>> 2 != 0)) r.d r.a (immOf r)) else none) else none
  | 227 => if r.par == 2 then (if r.sub == 0 then some (.trapclr (r.hd (r.m != 0 || r.d != 0 || r.b != 0 || r.c != 0)) r.a) else none) else none
  | 228 => if r.par == 2 then (if r.sub == 0 then some (.trapretResume (r.hd (r.m != 0 || r.d != 0 || r.a != 0 || r.b != 0 || r.c != 0))) else if r.sub == 1 then some (.trapretKill (r.hd (r.m != 0 || r.d != 0 || r.a != 0 || r.b != 0 || r.c != 0))) else if r.sub == 2 then some (.trapretKillsig (r.hd (r.m != 0 || r.d != 0 || r.a != 0 || r.b != 0 || r.c != 0))) else none) else none
  | 229 => if r.par == 2 then (if r.sub == 0 then some (.sread (r.hd (r.m != 0 || r.b != 0 || r.c != 0)) r.d r.a) else none) else none
  | 230 => if r.par == 2 then (if r.sub == 0 then some (.swrite (r.hd (r.m != 0 || r.d != 0 || r.c != 0)) r.a r.b) else none) else none
  | 231 => if r.par == 2 then (if r.sub == 0 then some (.clock (r.hd (r.m != 0 || r.a != 0 || r.b != 0 || r.c != 0)) r.d) else none) else none
  | 232 => if r.par == 2 then (if r.sub == 0 then some (.sleep (r.hd (r.m != 0 || r.d != 0 || r.a != 0 || r.c != 0)) r.b) else none) else if r.par == 3 then (if r.sub == 0 then some (.sleepImm (r.hd (r.m != 0 || r.d != 0 || r.a != 0 || r.c != 0 || r.b >>> 2 != 0)) (immOf r)) else none) else none
  | _ => none

/-- The fields of a form with every operand field zero (the encoder fills in its own). -/
def Raw.zero (h : Hd) : Raw := ⟨1, 0, 0, h.pn, h.pg, h.la, 0, 0, 0, 0, 0, 0, 0, false⟩

/-- The encoded fields of an Ixrix form (R262 to R274); none for a device event. -/
def encodeRaw : Instr → Option Raw
  | .nop h => some { Raw.zero h with par := 2, op := 0 }
  | .nop96 h => some { Raw.zero h with par := 3, op := 0 }
  | .nop128 h => some { Raw.zero h with par := 4, op := 0 }
  | .nopOneParcel h => some { Raw.zero h with par := 1, op := 0 }
  | .bra h off => some { Raw.zero h with par := 3, op := 1, x := off }
  | .brx h a => some { Raw.zero h with par := 2, op := 2, a := a }
  | .call h d off => some { Raw.zero h with par := 3, op := 3, d := d, x := off }
  | .callx h d a => some { Raw.zero h with par := 2, op := 4, d := d, a := a }
  | .ret h a => some { Raw.zero h with par := 2, op := 5, a := a }
  | .exit h => some { Raw.zero h with par := 2, op := 6 }
  | .yield h => some { Raw.zero h with par := 2, op := 7 }
  | .iadd h sat ty d a b => some { Raw.zero h with par := 2, op := 16, sub := (if sat then 1 else 0), m := ty, d := d, a := a, b := b }
  | .iaddImm h sat ty d a imm => some { Raw.zero h with par := 3, op := 16, sub := (if sat then 1 else 0), m := ty, d := d, a := a, b := ((imm >>> 30).setWidth 8), x := (imm.setWidth 30) }
  | .isub h sat ty d a b => some { Raw.zero h with par := 2, op := 17, sub := (if sat then 1 else 0), m := ty, d := d, a := a, b := b }
  | .isubImm h sat ty d a imm => some { Raw.zero h with par := 3, op := 17, sub := (if sat then 1 else 0), m := ty, d := d, a := a, b := ((imm >>> 30).setWidth 8), x := (imm.setWidth 30) }
  | .imul h ty d a b => some { Raw.zero h with par := 2, op := 18, m := ty, d := d, a := a, b := b }
  | .imulImm h ty d a imm => some { Raw.zero h with par := 3, op := 18, m := ty, d := d, a := a, b := ((imm >>> 30).setWidth 8), x := (imm.setWidth 30) }
  | .imulh h ty d a b => some { Raw.zero h with par := 2, op := 19, m := ty, d := d, a := a, b := b }
  | .imulhImm h ty d a imm => some { Raw.zero h with par := 3, op := 19, m := ty, d := d, a := a, b := ((imm >>> 30).setWidth 8), x := (imm.setWidth 30) }
  | .imad h ty d a b c => some { Raw.zero h with par := 2, op := 20, m := ty, d := d, a := a, b := b, c := c }
  | .imadImm h ty d a c imm => some { Raw.zero h with par := 3, op := 20, m := ty, d := d, a := a, c := c, b := ((imm >>> 30).setWidth 8), x := (imm.setWidth 30) }
  | .imin h ty d a b => some { Raw.zero h with par := 2, op := 21, m := ty, d := d, a := a, b := b }
  | .iminImm h ty d a imm => some { Raw.zero h with par := 3, op := 21, m := ty, d := d, a := a, b := ((imm >>> 30).setWidth 8), x := (imm.setWidth 30) }
  | .imax h ty d a b => some { Raw.zero h with par := 2, op := 22, m := ty, d := d, a := a, b := b }
  | .imaxImm h ty d a imm => some { Raw.zero h with par := 3, op := 22, m := ty, d := d, a := a, b := ((imm >>> 30).setWidth 8), x := (imm.setWidth 30) }
  | .iabs h ty d a => some { Raw.zero h with par := 2, op := 23, m := ty, d := d, a := a }
  | .ineg h ty d a => some { Raw.zero h with par := 2, op := 24, m := ty, d := d, a := a }
  | .idiv h ty d a b => some { Raw.zero h with par := 2, op := 25, m := ty, d := d, a := a, b := b }
  | .idivImm h ty d a imm => some { Raw.zero h with par := 3, op := 25, m := ty, d := d, a := a, b := ((imm >>> 30).setWidth 8), x := (imm.setWidth 30) }
  | .imod h ty d a b => some { Raw.zero h with par := 2, op := 26, m := ty, d := d, a := a, b := b }
  | .imodImm h ty d a imm => some { Raw.zero h with par := 3, op := 26, m := ty, d := d, a := a, b := ((imm >>> 30).setWidth 8), x := (imm.setWidth 30) }
  | .icmp h cmp ty d a b => some { Raw.zero h with par := 2, op := 27, sub := (cmpSub cmp), m := ty, d := (d.setWidth 8), a := a, b := b }
  | .icmpImm h cmp ty d a imm => some { Raw.zero h with par := 3, op := 27, sub := (cmpSub cmp), m := ty, d := (d.setWidth 8), a := a, b := ((imm >>> 30).setWidth 8), x := (imm.setWidth 30) }
  | .and h ty d a b => some { Raw.zero h with par := 2, op := 32, m := ty, d := d, a := a, b := b }
  | .andImm h ty d a imm => some { Raw.zero h with par := 3, op := 32, m := ty, d := d, a := a, b := ((imm >>> 30).setWidth 8), x := (imm.setWidth 30) }
  | .or h ty d a b => some { Raw.zero h with par := 2, op := 33, m := ty, d := d, a := a, b := b }
  | .orImm h ty d a imm => some { Raw.zero h with par := 3, op := 33, m := ty, d := d, a := a, b := ((imm >>> 30).setWidth 8), x := (imm.setWidth 30) }
  | .xor h ty d a b => some { Raw.zero h with par := 2, op := 34, m := ty, d := d, a := a, b := b }
  | .xorImm h ty d a imm => some { Raw.zero h with par := 3, op := 34, m := ty, d := d, a := a, b := ((imm >>> 30).setWidth 8), x := (imm.setWidth 30) }
  | .not h ty d a => some { Raw.zero h with par := 2, op := 35, m := ty, d := d, a := a }
  | .andn h ty d a b => some { Raw.zero h with par := 2, op := 36, m := ty, d := d, a := a, b := b }
  | .andnImm h ty d a imm => some { Raw.zero h with par := 3, op := 36, m := ty, d := d, a := a, b := ((imm >>> 30).setWidth 8), x := (imm.setWidth 30) }
  | .shl h ty d a b => some { Raw.zero h with par := 2, op := 37, m := ty, d := d, a := a, b := b }
  | .shlImm h ty d a imm => some { Raw.zero h with par := 3, op := 37, m := ty, d := d, a := a, b := ((imm >>> 30).setWidth 8), x := (imm.setWidth 30) }
  | .shr h ty d a b => some { Raw.zero h with par := 2, op := 38, m := ty, d := d, a := a, b := b }
  | .shrImm h ty d a imm => some { Raw.zero h with par := 3, op := 38, m := ty, d := d, a := a, b := ((imm >>> 30).setWidth 8), x := (imm.setWidth 30) }
  | .sar h ty d a b => some { Raw.zero h with par := 2, op := 39, m := ty, d := d, a := a, b := b }
  | .sarImm h ty d a imm => some { Raw.zero h with par := 3, op := 39, m := ty, d := d, a := a, b := ((imm >>> 30).setWidth 8), x := (imm.setWidth 30) }
  | .rot h ty d a b => some { Raw.zero h with par := 2, op := 40, m := ty, d := d, a := a, b := b }
  | .rotImm h ty d a imm => some { Raw.zero h with par := 3, op := 40, m := ty, d := d, a := a, b := ((imm >>> 30).setWidth 8), x := (imm.setWidth 30) }
  | .popc h ty d a => some { Raw.zero h with par := 2, op := 41, m := ty, d := d, a := a }
  | .clz h ty d a => some { Raw.zero h with par := 2, op := 42, m := ty, d := d, a := a }
  | .ctz h ty d a => some { Raw.zero h with par := 2, op := 43, m := ty, d := d, a := a }
  | .brev h ty d a => some { Raw.zero h with par := 2, op := 44, m := ty, d := d, a := a }
  | .bfx h ty d a b => some { Raw.zero h with par := 2, op := 45, m := ty, d := d, a := a, b := b }
  | .bfxImm h ty d a imm => some { Raw.zero h with par := 3, op := 45, m := ty, d := d, a := a, b := ((imm >>> 30).setWidth 8), x := (imm.setWidth 30) }
  | .bfi h ty d a b c => some { Raw.zero h with par := 2, op := 46, m := ty, d := d, a := a, b := b, c := c }
  | .bfiImm h ty d a c imm => some { Raw.zero h with par := 3, op := 46, m := ty, d := d, a := a, c := c, b := ((imm >>> 30).setWidth 8), x := (imm.setWidth 30) }
  | .bperm h ty d a b c => some { Raw.zero h with par := 2, op := 47, m := ty, d := d, a := a, b := b, c := c }
  | .bpermImm h ty d a c imm => some { Raw.zero h with par := 3, op := 47, m := ty, d := d, a := a, c := c, b := ((imm >>> 30).setWidth 8), x := (imm.setWidth 30) }
  | .mov h ty d a => some { Raw.zero h with par := 2, op := 48, m := ty, d := d, a := a }
  | .movi h ty d imm => some { Raw.zero h with par := 3, op := 49, m := ty, d := d, b := ((imm >>> 30).setWidth 8), x := (imm.setWidth 30) }
  | .sel h ty d a b c => some { Raw.zero h with par := 2, op := 50, m := ty, d := d, a := a, b := b, c := (c.setWidth 8) }
  | .selImm h ty d a c imm => some { Raw.zero h with par := 3, op := 50, m := ty, d := d, a := a, c := (c.setWidth 8), b := ((imm >>> 30).setWidth 8), x := (imm.setWidth 30) }
  | .lea h ty d a b sh => some { Raw.zero h with par := 2, op := 51, m := ty, d := d, a := a, b := b, c := (sh.setWidth 8) }
  | .leaImm h ty d a sh imm => some { Raw.zero h with par := 3, op := 51, m := ty, d := d, a := a, c := (sh.setWidth 8), b := ((imm >>> 30).setWidth 8), x := (imm.setWidth 30) }
  | .plop h op ia ib d a b => some { Raw.zero h with par := 2, op := 52, sub := (predOpSub op), m := (BitVec.ofBool ib ++ BitVec.ofBool ia).setWidth 6, d := (d.setWidth 8), a := (a.setWidth 8), b := (b.setWidth 8) }
  | .pmovToRegister h d => some { Raw.zero h with par := 2, op := 53, d := d }
  | .pmovToPredicates h a => some { Raw.zero h with par := 2, op := 53, sub := 1, a := a }
  | .sqsync h b => some { Raw.zero h with par := 2, op := 64, b := b }
  | .sqsyncImm h imm => some { Raw.zero h with par := 3, op := 64, b := ((imm >>> 30).setWidth 8), x := (imm.setWidth 30) }
  | .vote h op ia d a b => some { Raw.zero h with par := 2, op := 65, sub := (voteOpSub op), m := ((BitVec.ofBool ia).setWidth 6), d := d, a := (a.setWidth 8), b := b }
  | .voteImm h op ia d a imm => some { Raw.zero h with par := 3, op := 65, sub := (voteOpSub op), m := ((BitVec.ofBool ia).setWidth 6), d := d, a := (a.setWidth 8), b := ((imm >>> 30).setWidth 8), x := (imm.setWidth 30) }
  | .shfl h mode ty d a b c => some { Raw.zero h with par := 2, op := 66, sub := (shflModeSub mode), m := ty, d := d, a := a, b := b, c := c }
  | .shflImm h mode ty d a c imm => some { Raw.zero h with par := 3, op := 66, sub := (shflModeSub mode), m := ty, d := d, a := a, c := c, b := ((imm >>> 30).setWidth 8), x := (imm.setWidth 30) }
  | .sqMatch h op ty d a b => some { Raw.zero h with par := 2, op := 67, sub := (matchOpSub op), m := ty, d := d, a := a, b := b }
  | .sqMatchImm h op ty d a imm => some { Raw.zero h with par := 3, op := 67, sub := (matchOpSub op), m := ty, d := d, a := a, b := ((imm >>> 30).setWidth 8), x := (imm.setWidth 30) }
  | .redux h op mode ty d a b => some { Raw.zero h with par := 2, op := 68, sub := (reduxSub op mode), m := ty, d := d, a := a, b := b }
  | .reduxImm h op mode ty d a imm => some { Raw.zero h with par := 3, op := 68, sub := (reduxSub op mode), m := ty, d := d, a := a, b := ((imm >>> 30).setWidth 8), x := (imm.setWidth 30) }
  | .convoy h d b => some { Raw.zero h with par := 2, op := 69, d := d, b := b }
  | .convoyImm h d imm => some { Raw.zero h with par := 3, op := 69, d := d, b := ((imm >>> 30).setWidth 8), x := (imm.setWidth 30) }
  | .fadd h ft rm d a b => some { Raw.zero h with par := 2, op := 80, m := (rm ++ ft), d := d, a := a, b := b }
  | .fsub h ft rm d a b => some { Raw.zero h with par := 2, op := 81, m := (rm ++ ft), d := d, a := a, b := b }
  | .fmul h ft rm d a b => some { Raw.zero h with par := 2, op := 82, m := (rm ++ ft), d := d, a := a, b := b }
  | .ffma h ft rm d a b c => some { Raw.zero h with par := 2, op := 83, m := (rm ++ ft), d := d, a := a, b := b, c := c }
  | .fmin h ft rm d a b => some { Raw.zero h with par := 2, op := 84, m := (rm ++ ft), d := d, a := a, b := b }
  | .fmax h ft rm d a b => some { Raw.zero h with par := 2, op := 85, m := (rm ++ ft), d := d, a := a, b := b }
  | .fcmp h cmp ft rm d a b => some { Raw.zero h with par := 2, op := 86, sub := (fCmpSub cmp), m := (rm ++ ft), d := (d.setWidth 8), a := a, b := b }
  | .frcp h ft rm d a => some { Raw.zero h with par := 2, op := 87, m := (rm ++ ft), d := d, a := a }
  | .frsq h ft rm d a => some { Raw.zero h with par := 2, op := 88, m := (rm ++ ft), d := d, a := a }
  | .fsqrt h ft rm d a => some { Raw.zero h with par := 2, op := 89, m := (rm ++ ft), d := d, a := a }
  | .fdiv h ft rm d a b => some { Raw.zero h with par := 2, op := 90, m := (rm ++ ft), d := d, a := a, b := b }
  | .fexp2 h ft rm d a => some { Raw.zero h with par := 2, op := 91, m := (rm ++ ft), d := d, a := a }
  | .flog2 h ft rm d a => some { Raw.zero h with par := 2, op := 92, m := (rm ++ ft), d := d, a := a }
  | .fsin h ft rm d a => some { Raw.zero h with par := 2, op := 93, m := (rm ++ ft), d := d, a := a }
  | .fcos h ft rm d a => some { Raw.zero h with par := 2, op := 94, m := (rm ++ ft), d := d, a := a }
  | .fclass h ft rm d a => some { Raw.zero h with par := 2, op := 95, m := (rm ++ ft), d := d, a := a }
  | .fround h ft rm d a => some { Raw.zero h with par := 2, op := 96, m := (rm ++ ft), d := d, a := a }
  | .fldexp h ft rm d a b => some { Raw.zero h with par := 2, op := 97, m := (rm ++ ft), d := d, a := a, b := b }
  | .fcvt h d a c dty sty rm sat => some { Raw.zero h with par := 3, op := 104, d := d, a := a, c := c, x := ((BitVec.ofBool sat ++ rm ++ sty ++ dty).setWidth 30) }
  | .icvt h d a c dty sty rm sat => some { Raw.zero h with par := 3, op := 105, d := d, a := a, c := c, x := ((BitVec.ofBool sat ++ rm ++ sty ++ dty).setWidth 30) }
  | .i2f h d a c dty sty rm sat => some { Raw.zero h with par := 3, op := 106, d := d, a := a, c := c, x := ((BitVec.ofBool sat ++ rm ++ sty ++ dty).setWidth 30) }
  | .f2i h d a c dty sty rm sat => some { Raw.zero h with par := 3, op := 107, d := d, a := a, c := c, x := ((BitVec.ofBool sat ++ rm ++ sty ++ dty).setWidth 30) }
  | .dot2 h bf ft rm d a b c => some { Raw.zero h with par := 2, op := 108, sub := (if bf then 9 else 8), m := (rm ++ ft), d := d, a := a, b := b, c := c }
  | .dot4 h ef ft rm d a b c => some { Raw.zero h with par := 2, op := 109, sub := (dot4FmtSub ef), m := (rm ++ ft), d := d, a := a, b := b, c := c }
  | .fmtset h d a => some { Raw.zero h with par := 2, op := 112, d := (d.setWidth 8), a := a }
  | .fmtsetImm h d imm => some { Raw.zero h with par := 3, op := 112, d := (d.setWidth 8), b := ((imm >>> 30).setWidth 8), x := (imm.setWidth 30) }
  | .fmtget h d a => some { Raw.zero h with par := 2, op := 113, d := d, a := (a.setWidth 8) }
  | .tag h d a b => some { Raw.zero h with par := 2, op := 114, d := d, a := a, b := b }
  | .tagImm h d a imm => some { Raw.zero h with par := 3, op := 114, d := d, a := a, b := ((imm >>> 30).setWidth 8), x := (imm.setWidth 30) }
  | .tagget h d a => some { Raw.zero h with par := 2, op := 115, d := d, a := a }
  | .bscale h ef ty d a => some { Raw.zero h with par := 2, op := 116, sub := (ef.setWidth 6), m := ty, d := d, a := a }
  | .packn h d a c dty sty rm sat => some { Raw.zero h with par := 3, op := 117, d := d, a := a, c := c, x := ((BitVec.ofBool sat ++ rm ++ sty ++ dty).setWidth 30) }
  | .unpackn h d a c dty sty rm sat => some { Raw.zero h with par := 3, op := 118, d := d, a := a, c := c, x := ((BitVec.ofBool sat ++ rm ++ sty ++ dty).setWidth 30) }
  | .ld h ty d ad ord scp => some { Raw.zero h with par := 3, op := 128, m := ty, d := d, a := (ad.brec.setWidth 8), b := ad.idx, x := (scp ++ ord ++ ad.imm) }
  | .st h ty ad c ord scp => some { Raw.zero h with par := 3, op := 129, m := ty, a := (ad.brec.setWidth 8), b := ad.idx, c := c, x := (scp ++ ord ++ ad.imm) }
  | .atom h op ty d ad c ord scp => some { Raw.zero h with par := 3, op := 130, sub := (atomOpSub op), m := ty, d := d, a := (ad.brec.setWidth 8), b := ad.idx, c := c, x := (scp ++ ord ++ ad.imm) }
  | .cas h ty d ad c ord scp y => some { Raw.zero h with par := 4, op := 131, m := ty, d := d, a := (ad.brec.setWidth 8), b := ad.idx, c := c, x := (scp ++ ord ++ ad.imm), y := (y.setWidth 30) }
  | .red h op ty ad c ord scp => some { Raw.zero h with par := 3, op := 132, sub := (atomOpSub op), m := ty, a := (ad.brec.setWidth 8), b := ad.idx, c := c, x := (scp ++ ord ++ ad.imm) }
  | .fence h ord scp => some { Raw.zero h with par := 3, op := 133, x := (scp ++ ord ++ 0#24) }
  | .brload h d ad ord scp => some { Raw.zero h with par := 3, op := 134, d := (d.setWidth 8), a := (ad.brec.setWidth 8), b := ad.idx, x := (scp ++ ord ++ ad.imm) }
  | .brset h d a => some { Raw.zero h with par := 2, op := 135, d := (d.setWidth 8), a := a }
  | .brsetToRegisters h d a => some { Raw.zero h with par := 2, op := 135, sub := 1, d := d, a := (a.setWidth 8) }
  | .prefetch h ad ord scp => some { Raw.zero h with par := 3, op := 136, a := (ad.brec.setWidth 8), b := ad.idx, x := (scp ++ ord ++ ad.imm) }
  | .cctl h ad ord scp => some { Raw.zero h with par := 3, op := 137, a := (ad.brec.setWidth 8), b := ad.idx, x := (scp ++ ord ++ ad.imm) }
  | .publish h ad c ord scp => some { Raw.zero h with par := 3, op := 140, a := (ad.brec.setWidth 8), b := ad.idx, c := c, x := (scp ++ ord ++ ad.imm) }
  | .publishM h d ad c ord scp => some { Raw.zero h with par := 3, op := 140, m := 1, d := d, a := (ad.brec.setWidth 8), b := ad.idx, c := c, x := (scp ++ ord ++ ad.imm) }
  | .adopt h ad c ord scp => some { Raw.zero h with par := 3, op := 141, a := (ad.brec.setWidth 8), b := ad.idx, c := c, x := (scp ++ ord ++ ad.imm) }
  | .retract h ad c ord scp => some { Raw.zero h with par := 3, op := 142, a := (ad.brec.setWidth 8), b := ad.idx, c := c, x := (scp ++ ord ++ ad.imm) }
  | .barinit h d b => some { Raw.zero h with par := 2, op := 144, d := (d.setWidth 8), b := b }
  | .barinitImm h d imm => some { Raw.zero h with par := 3, op := 144, d := (d.setWidth 8), b := ((imm >>> 30).setWidth 8), x := (imm.setWidth 30) }
  | .bararrive h d a => some { Raw.zero h with par := 2, op := 145, d := d, a := (a.setWidth 8) }
  | .barwait h a b => some { Raw.zero h with par := 2, op := 146, a := (a.setWidth 8), b := b }
  | .barsync h a => some { Raw.zero h with par := 2, op := 147, a := (a.setWidth 8) }
  | .barinval h a => some { Raw.zero h with par := 2, op := 148, a := (a.setWidth 8) }
  | .barquery h d a => some { Raw.zero h with par := 2, op := 149, d := d, a := (a.setWidth 8) }
  | .teamsync h => some { Raw.zero h with par := 2, op := 150 }
  | .copy h k bar => some { Raw.zero h with par := 4, op := 152, d := k.vS, a := (k.sRec ++ k.dRec), b := k.vK, c := k.vJ, x := (k.len.setWidth 6 ++ k.dImm), sub := (BitVec.ofBool k.ord ++ BitVec.ofBool bar.arr ++ bar.nb), y := ((((k.len >>> 6).setWidth 2) ++ k.sImm).setWidth 30) }
  | .copy2d h k bar => some { Raw.zero h with par := 4, op := 153, d := k.vS, a := (k.sRec ++ k.dRec), b := k.vK, c := k.vJ, x := (k.len.setWidth 6 ++ k.dImm), sub := (BitVec.ofBool k.ord ++ BitVec.ofBool bar.arr ++ bar.nb), y := ((((k.len >>> 6).setWidth 2) ++ k.sImm).setWidth 30) }
  | .copyg h k bar => some { Raw.zero h with par := 4, op := 154, d := k.vS, a := (k.sRec ++ k.dRec), b := k.vK, c := k.vJ, x := (k.len.setWidth 6 ++ k.dImm), sub := (BitVec.ofBool k.ord ++ BitVec.ofBool bar.arr ++ bar.nb), y := ((((k.len >>> 6).setWidth 2) ++ k.sImm).setWidth 30) }
  | .copyrem h k scp cRec cOff => some { Raw.zero h with par := 4, op := 155, d := k.vS, a := (k.sRec ++ k.dRec), b := k.vK, c := k.vJ, x := (k.len.setWidth 6 ++ k.dImm), sub := (BitVec.ofBool k.ord ++ 0#2 ++ scp), m := cOff, y := (cRec ++ ((k.len >>> 6).setWidth 2) ++ k.sImm) }
  | .tld h ty d ad ord scp => some { Raw.zero h with par := 3, op := 160, m := ty, d := (d.setWidth 8), a := (ad.brec.setWidth 8), b := ad.idx, x := (scp ++ ord ++ ad.imm) }
  | .tst h ty ad c ord scp => some { Raw.zero h with par := 3, op := 161, m := ty, a := (ad.brec.setWidth 8), b := ad.idx, c := (c.setWidth 8), x := (scp ++ ord ++ ad.imm) }
  | .tzero h ty d => some { Raw.zero h with par := 2, op := 162, m := ty, d := (d.setWidth 8) }
  | .tmov h d a => some { Raw.zero h with par := 2, op := 163, d := (d.setWidth 8), a := (a.setWidth 8) }
  | .tcvt h rm df d a sf seg c => some { Raw.zero h with par := 2, op := 164, sub := (rm.setWidth 6), m := (df.setWidth 6), d := (d.setWidth 8), a := (a.setWidth 8), b := ((seg ++ sf).setWidth 8), c := c }
  | .ttrans h d a => some { Raw.zero h with par := 2, op := 165, d := (d.setWidth 8), a := (a.setWidth 8) }
  | .tadd h ty d a b => some { Raw.zero h with par := 2, op := 166, m := ty, d := (d.setWidth 8), a := (a.setWidth 8), b := (b.setWidth 8) }
  | .tscale h d a => some { Raw.zero h with par := 2, op := 167, d := (d.setWidth 8), a := a }
  | .tgetv h ty d a b => some { Raw.zero h with par := 2, op := 168, m := ty, d := d, a := (a.setWidth 8), b := b }
  | .tsetv h ty d a b => some { Raw.zero h with par := 2, op := 169, m := ty, d := (d.setWidth 8), a := a, b := b }
  | .mloadw h ad slot ing wf => some { Raw.zero h with par := 3, op := 192, a := (ad.brec.setWidth 8), b := ad.idx, c := ((BitVec.ofBool ing ++ slot).setWidth 8), m := (wf.setWidth 6), x := (ad.imm.setWidth 30) }
  | .mswap h => some { Raw.zero h with par := 2, op := 193 }
  | .mma h wf d a c af acc p => some { Raw.zero h with par := 2, op := 194, m := (wf.setWidth 6), d := (d.setWidth 8), a := (a.setWidth 8), b := (c.setWidth 8), c := (BitVec.ofBool p ++ acc ++ af) }
  | .mlocate h d => some { Raw.zero h with par := 2, op := 195, d := d }
  | .mcorrect h d => some { Raw.zero h with par := 2, op := 196, d := d }
  | .mretry h d => some { Raw.zero h with par := 2, op := 197, d := d }
  | .mdiscard h => some { Raw.zero h with par := 2, op := 198 }
  | .mstat h d => some { Raw.zero h with par := 2, op := 199, d := d }
  | .spawn h d a => some { Raw.zero h with par := 2, op := 208, d := (d.setWidth 8), a := a }
  | .notify h a b => some { Raw.zero h with par := 2, op := 209, a := a, b := b }
  | .trap h code => some { Raw.zero h with par := 2, op := 224, a := (code.setWidth 8), b := ((code >>> 8).setWidth 8) }
  | .brk h code => some { Raw.zero h with par := 2, op := 225, a := (code.setWidth 8), b := ((code >>> 8).setWidth 8) }
  | .trapinfo h d a b => some { Raw.zero h with par := 2, op := 226, d := d, a := a, b := b }
  | .trapinfoImm h d a imm => some { Raw.zero h with par := 3, op := 226, d := d, a := a, b := ((imm >>> 30).setWidth 8), x := (imm.setWidth 30) }
  | .trapclr h a => some { Raw.zero h with par := 2, op := 227, a := a }
  | .trapretResume h => some { Raw.zero h with par := 2, op := 228 }
  | .trapretKill h => some { Raw.zero h with par := 2, op := 228, sub := 1 }
  | .trapretKillsig h => some { Raw.zero h with par := 2, op := 228, sub := 2 }
  | .sread h d num => some { Raw.zero h with par := 2, op := 229, d := d, a := num }
  | .swrite h num b => some { Raw.zero h with par := 2, op := 230, a := num, b := b }
  | .clock h d => some { Raw.zero h with par := 2, op := 231, d := d }
  | .sleep h b => some { Raw.zero h with par := 2, op := 232, b := b }
  | .sleepImm h imm => some { Raw.zero h with par := 3, op := 232, b := ((imm >>> 30).setWidth 8), x := (imm.setWidth 30) }
  | .clockThrottleStep _ => none
  | .fabidWrite _ _ => none
  | .pwrcapWrite _ _ => none
  | .portctlWrite _ _ => none
  | .retrain _ => none
  | .draindlWrite _ _ => none
  | .asytolWrite _ _ _ => none
  | .asyinjWrite _ _ _ => none
  | .fltcfgWrite _ _ => none
  | .registerWrite _ _ _ => none
  | .flitReceive _ _ => none
  | .replayRequest _ => none
  | .retrainComplete _ => none
  | .ethernetPacketReceive _ _ => none
  | .flushMarkerReceive _ _ _ => none
  | .epochAckReceive _ => none
  | .fabricRequest _ => none
  | .hostLinkRead _ _ => none
  | .hostLinkWrite _ _ _ => none
  | .homeSliceWrite _ _ => none
  | .assign _ => none
  | .hostMeasurementExtend _ => none
  | .negotiateAlgorithms _ => none
  | .getMeasurements _ => none
  | .finish _ => none
  | .ingotInstall _ => none
  | .ingotSeal _ => none
  | .ingotRelease _ => none
  | .queueKey _ => none
  | .podPreempt _ => none
  | .podCommandReceive _ _ _ => none
  | .podReport _ _ => none
  | .prepare _ => none
  | .commit _ => none
  | .aborted _ => none
  | .destinationRebootDetected _ => none
  | .restoreChunk _ => none
  | .notifyRecord _ _ => none
  | .binTeamLaunch _ => none
  | .binAgeExpiry _ => none
  | .pageRequestReply _ => none
  | .memoryReply _ _ _ => none
  | .copyTransfer _ _ => none
  | .mloadwFill _ => none
  | .squadStopped _ => none
  | .sleepExpire _ => none
  | .spawnSlotReserve _ => none
  | .portTrainingComplete _ => none
  | .tdispInterfaceLock _ => none
  | .vendorDefinedRequest _ => none
  | .prepareSend _ _ => none
  | .unassignedOpcode _ => none
  | .coldReset => none
  | .warmReset => none
  | .functionLevelReset => none
  | .powerLoss => none
  | .thermalTrip => none
  | .coreFence => none
  | .d3hotEntry => none
  | .d0Return => none
  | .d3coldEntry => none
  | .replayRequestRepeat => none
  | .ackTimeoutResend => none
  | .retrainAfterReplays => none
  | .retrainDeadline => none
  | .fenceComplete => none
  | .connectionTimeout => none
  | .hbmUncorrectableError => none
  | .linkRekey => none
  | .assignComplete => none
  | .worldCreate => none
  | .worldDestroy => none
  | .portWorldReturn => none
  | .getVersion => none
  | .getCapabilities => none
  | .getDigests => none
  | .getCertificate => none
  | .challenge => none
  | .keyExchange => none
  | .keyUpdate => none
  | .heartbeat => none
  | .endSession => none
  | .podResponseDeadline => none
  | .queueCreate => none
  | .queueDestroy => none
  | .queueDestroyComplete => none
  | .queueRestart => none
  | .statusRecordWrite => none
  | .queueMap => none
  | .packetAccept => none
  | .nopPacket => none
  | .launch => none
  | .wait => none
  | .waitEvaluate => none
  | .signal => none
  | .launchComplete => none
  | .placementPass => none
  | .blockedItemTimeout => none
  | .stageRoomClaim => none
  | .teamRetire => none
  | .convoyFormation => none
  | .fetchBlock => none
  | .ctxPreempt => none
  | .ctxFreezeNow => none
  | .ctxResume => none
  | .ctxDiscardImage => none
  | .drainDeadline => none
  | .teamCapture => none
  | .imageChunkWrite => none
  | .autoResume => none
  | .contextReset => none
  | .ptSetRoot => none
  | .ptInvalidateAsid => none
  | .ptInvalidateRange => none
  | .ptInvalidateComplete => none
  | .copyComplete => none
  | .mmaStart => none
  | .mmaDrain => none
  | .mswapExecute => none
  | .handlerEntry => none
  | .dbgAttach => none
  | .dbgDetach => none
  | .dbgStop => none
  | .dbgResume => none
  | .dbgStep => none
  | .dbgRead => none
  | .dbgWrite => none
  | .dbgWatch => none
  | .dbgHaltRequest => none
  | .dbgStopMask => none
  | .longLatencyResult => none

/-- The parcels of an instruction; none for a device event. -/
def encodeWords (i : Instr) : Option (List Word) := (encodeRaw i).map Raw.words

/-- The bytes of an instruction as memory holds them; none for a device event. -/
def encode (i : Instr) : Option (List Byte) := (encodeWords i).map (·.flatMap wordBytes)

/-- The number of parcels of a head at an offset of its fetch block (R263, R264). -/
def parcelsAt (h : Word) (off : Nat) : Nat :=
  if h.extractLsb' 0 2 == 1 && h.extractLsb' 2 8 == 0 && off == 28 then 1 else (h.extractLsb' 0 2).toNat + 1

/-- The fields of the instruction whose head lies at `off`, of `n` parcels; absent parcels read as zero. -/
def rawAt (block : List Byte) (off n : Nat) : Raw :=
  let h := parcelAt block off
  let p1 := if 2 ≤ n then parcelAt block (off + 4) else 0
  let p2 := if 3 ≤ n then parcelAt block (off + 8) else 0
  let p3 := if 4 ≤ n then parcelAt block (off + 12) else 0
  { par := n, sub := h.extractLsb' 26 6, d := h.extractLsb' 18 8, pn := h.getLsbD 17, pg := h.extractLsb' 14 3,
    la := h.extractLsb' 10 4, op := h.extractLsb' 2 8,
    m := p1.extractLsb' 26 6, c := p1.extractLsb' 18 8, b := p1.extractLsb' 10 8, a := p1.extractLsb' 2 8,
    x := p2.extractLsb' 2 30, y := p3.extractLsb' 2 30,
    low := p1.extractLsb' 0 2 != 0 || p2.extractLsb' 0 2 != 0 || p3.extractLsb' 0 2 != 0 }

/-- Decoding of the head at `off` of a 32-byte fetch block (R264): the instruction, or the trap that ends decoding (log 25, DEDUCED). -/
def decode (block : List Byte) (off : Nat) : Except DecodeTrap Instr :=
  let h := parcelAt block off
  if h.extractLsb' 0 2 == 0 then .error .misland
  else if off + 4 * parcelsAt h off > 32 then .error .fetchBoundary
  else match decodeRaw (rawAt block off (parcelsAt h off)) with
    | some i => .ok i
    | none => .error .undefinedOpcode

/-- The block offset at which a form of `nbits` bits is laid out: 28 for the one-parcel `NOP` (R263), else 0. -/
def tableOffset (nbits : Nat) : Nat := if nbits ≤ 32 then 28 else 0

/-- A fetch block that holds the bits `w` of an instruction at an offset, and zeros elsewhere. -/
def tableBlock (nbits w : Nat) : List Byte :=
  (List.range 32).map fun k =>
    if k < tableOffset nbits then 0 else BitVec.ofNat 8 (w >>> (8 * (k - tableOffset nbits)))

/-- The instruction the decoder reads from an instruction whose bits are `w`, bit 0 the least significant bit of its
first parcel. -/
def decodeTableWord (nbits w : Nat) : Option Instr :=
  match decode (tableBlock nbits w) (tableOffset nbits) with
  | .ok i => some i
  | .error _ => none

end Sys2Proof
end

