-- ==== Sys2Proof/Machine/Turns.lean ====
section
/-!
DEFINITION. The turns of a step (log 1, DESIGN CHOICE): what the squad in focus does next, what time changes (log 2, DESIGN CHOICE), what comes from outside (log 5, DESIGN CHOICE),
and the turns that are due of themselves, from which a step takes one when the agenda is empty.
-/
namespace Sys2Proof.Machine

/-- What the squad in focus does next: form a convoy, after at most four issues (R94), go on with the instruction in the midst of which its
convoy stands, fetch, or issue the instruction decoded at its PC (R117, R264; log 34, DESIGN CHOICE). -/
def State.pick (s : State) : Instr :=
  match s.teams.find s.team with
  | none => .convoyFormation
  | some t =>
    match (t.squad s.sq).convoy with
    | [] => .convoyFormation
    | ln :: _ =>
      let pc := (t.lane s.sq ln).pc
      if 4 ≤ (t.squad s.sq).sinceForm then .convoyFormation
      else match (t.squad s.sq).amid? with
      | some m => m.i
      | none =>
      match (t.squad s.sq).latch with
      | none => .fetchBlock
      | some e =>
        if e.va = blockOf pc then
          match decode e.bytes (pc.toNat % 32) with
          | .ok i => i
          | .error k => .unassignedOpcode k
        else .fetchBlock

/-- A step of the table that a squad alone takes, at its own turn. -/
def bySquad (i : Instr) : Bool :=
  match i with
  | .convoyFormation | .fetchBlock | .unassignedOpcode _ => true
  | i => i.hd.isSome

/-- A thread's sleep after some cycles (R361). -/
def Wait.after (n : Nat) : Wait → Wait
  | .sleep k => .sleep (k - n)
  | w => w

/-- The sleep of a thread runs down: not while its team is halted, but for the thread that handles, and not while a debugger holds the team
(R246, R361). -/
def Team.awake (t : Team) (tid : Nat) : Bool :=
  !t.held && match t.phase with
  | .handler q ln _ => tid == tidOf q ln && (t.squad q).run != .stopped
  | _ => !t.halted

/-- A team after some cycles of its core's clock (R361). -/
def Team.after (t : Team) (n : Nat) : Team :=
  { t with threads := t.threads.mapIdx fun i th => if t.awake i then { th with wait := th.wait.after n } else th }

/-- A stage after some ticks (R88). -/
def Stage.after (g : Stage) (n : Nat) : Stage :=
  { g with slots := g.slots.map fun x => (x.1, match x.2 with | .inserted a => .inserted (a + n) | v => v) }

/-- A port after some ticks (R20). -/
def Port.after (p : Port) (n : Nat) : Port :=
  { p with missing := p.missing.map fun m => (m.1, m.2 + n), training := p.training.map (· + n)
           oldest := if p.replay.isEmpty then p.oldest else p.oldest + n }

/-- A queue after some ticks: the age of a status record that is owed (R63), and of the evaluation of a parked `WAIT` (R71). -/
def Queue.after (q : Queue) (n : Nat) : Queue :=
  { q with statusDue := q.statusDue.map (· + n)
           held := q.held.map fun p => if p.ready = some false then { p with polled := p.polled + n } else p }

/-- The ticks that may pass now (R63, R71; log 69, DEDUCED). -/
def State.mayPass (s : State) (ticks : Nat) : Nat :=
  s.queues.foldl (fun n q => match s.queueSlack q.1 q.2 with | some k => min n k | none => n) ticks

/-- Time passes (R8, R20, R27, R63, R88, R101, R112, R361): cycles of each compute die, and ticks of the 100 MHz clocks (log 2, DESIGN CHOICE). -/
def State.elapse (s : State) (cycles : List Nat) (ticks : Nat) : State :=
  let cyc (d : Nat) : Nat := if s.power = .d0 then cycles.getD d 0 else 0
  let thawed (c : Nat) : Bool := match (s.ctx c).phase with | .frozen | .inDoubt | .migrated => false | _ => true
  let launch (l : Launch) : Launch := if thawed l.ctx then { l with stages := l.stages.map fun g => g.after ticks } else l
  let ctx (x : Ctx) : Ctx := if x.phase = .draining then { x with elapsed := x.elapsed + ticks } else x
  let conn (d : Nat) (c : Conn) : Conn :=
    if c.unacked.isEmpty && !(s.releases.any fun r => r.dests.any fun x => x.1 == d) then c else { c with age := c.age + ticks }
  { s with
    cycles := s.cycles.mapIdx fun d v => v + BitVec.ofNat 64 (cyc d)
    ticks := s.ticks + ticks
    teams := s.teams.map fun t => (t.1, t.2.after (cyc (t.2.core / 128)))
    launches := s.launches.map fun l => (l.1, launch l.2)
    ctxs := s.ctxs.map fun c => (c.1, ctx c.2)
    ports := s.ports.map fun p => (p.1, p.2.after ticks)
    conns := s.conns.map fun c => (c.1, conn c.1 c.2)
    queues := s.queues.map fun q => (q.1, q.2.after ticks)
    pod := s.pod.map fun (p : Pod) => { p with elapsed := p.elapsed + ticks } }

/-- A turn of time, no longer than what is due allows; fault-log records that wait are written as far as they can be (R255, R365; log 2, DESIGN
CHOICE; log 57, DESIGN CHOICE). -/
def State.after (s : State) (cycles : List Nat) (ticks : Nat) : State :=
  let n := s.mayPass ticks
  let s := if n = ticks then s.elapse cycles ticks else s.elapse (cycles.map fun c => c * n / ticks) n
  if s.logsDue.isEmpty then s else s.logPump

/-- A write from outside the modelled agents (log 5, DESIGN CHOICE): to local memory under the writer's world, line by line (R33); to memory of the
host or of another device. -/
def State.outside (s : State) (w : World) (key : Nat) (bytes : List Byte) : State :=
  if !isLocal key then s.poke (cellsAt key bytes)
  else (linesOf key bytes.length).foldl (fun s line =>
    match s.store w ((cellsAt key bytes).filter fun c => c.1 / 128 * 128 == line) with
    | .ok s => s
    | .error _ => s) s

/-- A page of 64 KiB by its first key. -/
def pageKey (k : Nat) : Nat := k / 65536 * 65536

/-- The lines of a page that the migration service moves: their bytes, and their RETRACTED marks. -/
def State.moveLines (s : State) (w : World) (src dst : Nat) : State :=
  let line (k j : Nat) : Nat := pageKey k + 128 * j
  (List.range 512).foldl (fun s j =>
    match s.load w (line src j) 128 with
    | .error _ => s
    | .ok bs =>
      match s.store w (cellsAt (line dst j) bs) with
      | .error _ => s
      | .ok s =>
        let m := s.line (line src j)
        let s := s.setLine (line dst j) { s.line (line dst j) with retracted := m.retracted }
        if line src j = line dst j then s else s.setLine (line src j) { m with retracted := false }) s

/-- The migration service moves a page of 64 KiB under a world (R109, R183, R191; log 5, DESIGN CHOICE). What lies in another device is requested
there, and a later turn of the move finds the answers (R15, R31); a line of the host that fails IDE is discarded, and nothing moves (R29). -/
def State.movePage (s : State) (w : World) (src dst : Nat) : State :=
  let load : AgentPart := { key := pageKey src, n := 65536, op := .load 65536 }
  let store : AgentPart := { key := pageKey dst, n := 65536, op := .store, data := if isRemote dst then s.read (pageKey src) 65536 else [] }
  match s.linkFail (if isLocal src || isRemote src then [] else [(pageKey src, 65536)]) with
  | some s => s
  | none =>
    match s.agentAnswers (agentNum .move 0) w 0 [load, store] with
    | (.ok (), s) => s.moveLines w src dst
    | (_, s) => s

/-- An error of on-die storage (R122): a loop-buffer entry is discarded; any other site is found by what reads it next. -/
def State.upset (s : State) (e : EccSite) : State :=
  match e with
  | .loop team tid va => s.onTm team fun t =>
      t.setThread tid { t.thread tid with loops := (t.thread tid).loops.filter fun x => x.va != va }
  | _ => { s with ecc := if s.ecc.contains e then s.ecc else s.ecc ++ [e] }

/-- The management firmware sets the failure timeout, between 0.1 s and 10 s (R27). -/
def State.setTimeout (s : State) (ticks : Nat) : State :=
  if 10000000 ≤ ticks ∧ ticks ≤ 1000000000 then { s with failTimeout := ticks } else s

/-- Requests whose operation has ended, and that their home has still to answer (R25, R27). -/
def State.orphans (s : State) : List Nat :=
  ((s.ports.flatMap (·.2.opens)) ++ s.conns.flatMap (·.2.unacked)).eraseDups.filter fun k =>
    (s.flights.find k).isNone && (s.areqs.find k).isNone

/-- The steps that are due for the operations, copies and engines in flight. -/
def State.dueUnits (s : State) : List Turn :=
  (s.flights.flatMap fun f => match f.2.op with
    | .result .. => [.event .longLatencyResult f.1]
    | _ => ((List.range f.2.lanes.length).filter fun j => match f.2.lanes[j]? with
        | some a => f.2.writes && !a.performed && a.line?.isSome
        | none => false).map (fun j => Turn.event (.homeSliceWrite j .ok) f.1)
      ++ [.event (.memoryReply 0xFFFFFFFF true .ok) f.1])
    ++ ((s.areqs.filter fun r => r.2.res.isNone).map fun r => .event (.memoryReply 0 true .ok) r.1)
    ++ (s.orphans.map fun k => .event (.memoryReply 0 true .ok) k)
    ++ (s.copies.flatMap fun c =>
      ((List.range c.2.units).filter fun u => !c.2.handled.contains u).map (fun u => Turn.event (.copyTransfer u .ok) c.1)
        ++ [.event (.copyTransfer 0 .ok) c.1, .event .copyComplete c.1])
    ++ s.cores.flatMap fun c => if c.2.engine.owner.isNone then [] else
      [.event .mmaStart c.1, .event .mmaDrain c.1, .event .mswapExecute c.1, .event (.mloadwFill .ok) c.1]

/-- The steps that are due for the teams: formation and issue of their squads, and the ends of their waits and halts. -/
def State.dueTeams (s : State) : List Turn :=
  s.teams.flatMap fun t =>
    (List.range t.2.squads.length).flatMap (fun q => [.regroup t.1 q, .issue t.1 q, .event (.squadStopped q) t.1])
      ++ (List.range t.2.threads.length).flatMap (fun k => match (t.2.thread k).wait with
        | .sleep _ => [.event (.sleepExpire k) t.1] | .bin .. => [.event (.spawnSlotReserve k) t.1] | _ => [])
      ++ [.event .handlerEntry t.1, .event .teamRetire t.1, .event .teamCapture t.1]

/-- The steps that are due for queues, launches and contexts. -/
def State.dueWork (s : State) : List Turn :=
  (s.queues.flatMap fun q => [Instr.statusRecordWrite, .queueMap, .packetAccept, .nopPacket, .launch, .wait, .waitEvaluate, .signal,
      .queueDestroyComplete].map fun i => Turn.event i q.1)
    ++ (s.launches.flatMap fun l =>
      [Turn.event .launchComplete l.1, .event .teamRetire l.1, .event .stageRoomClaim l.1]
        ++ (List.range l.2.stages.length).flatMap fun st => [.event (.binAgeExpiry st) l.1, .event (.binTeamLaunch st) l.1])
    ++ s.contexts.flatMap fun c => [.event .drainDeadline c, .event .imageChunkWrite c, .event .contextReset c, .event .autoResume c,
      .event (.restoreChunk none) c]

/-- The steps that are due for functions with a busy command, for ports, regions and the pod command. -/
def State.dueRest (s : State) : List Turn :=
  (s.fns.flatMap fun f => [Instr.queueCreate, .queueDestroy, .queueRestart, .ctxPreempt, .ctxFreezeNow, .ctxResume, .ctxDiscardImage,
      .ptSetRoot, .ptInvalidateAsid, .ptInvalidateRange, .ptInvalidateComplete, .dbgAttach, .dbgDetach, .dbgStop, .dbgResume, .dbgStep,
      .dbgRead, .dbgWrite, .dbgWatch, .dbgHaltRequest, .dbgStopMask].map fun i => Turn.event i f.1)
    ++ (s.ports.flatMap fun p => [Instr.replayRequestRepeat, .ackTimeoutResend, .retrainAfterReplays, .retrainDeadline,
      .portWorldReturn].map fun i => Turn.event i p.1)
    ++ (s.inreqs.map fun r => .event (.fabricRequest r.msg) r.port)
    ++ (s.assigns.map fun a => .event .assignComplete a.region)
    ++ (s.conns.map fun c => .event .connectionTimeout c.1)
    ++ ((s.crossed.filter fun x => decide (8 * rekeyAfter ≤ x.2)).map fun x => .event .linkRekey x.1)
    ++ (if s.d3wait then [.event .d3hotEntry 0] else [])
    ++ match s.pod with
      | none => []
      | some p => [.event (.podCommandReceive p.deadline p.space p.keep) 0, .event (.podReport s.device true) 0,
          .event (.podReport s.device false) 0, .event .podResponseDeadline 0]

/-- Everything that is due, with four ticks of time at the dies' clocks (log 2, DESIGN CHOICE). -/
def State.due (s : State) : List Turn :=
  s.dueUnits ++ s.dueTeams ++ s.dueWork ++ s.dueRest
    ++ [.event .placementPass 0, .event .placementPass 1, .event .blockedItemTimeout 0, .event .blockedItemTimeout 1,
        .time (s.clocks.map (· / 25)) 4]

/-- The turn of an empty agenda (log 1, DESIGN CHOICE): what is due, one after the other. -/
def State.nextTurn (s : State) : Turn :=
  let ts := s.due
  ts.getD (s.rr % ts.length) (.time [] 0)

/-- A turn that a device without power can take (R9, R11, R12; log 18, DESIGN CHOICE). -/
def wakes : Turn → Bool
  | .event .coldReset _ | .event .powerLoss _ => true
  | .outside _ key _ => !isLocal key
  | _ => false

end Sys2Proof.Machine
end

