-- ==== Sys2Proof/Machine/Step.lean ====
section
/-!
DEFINITION. One step of the device: the first turn of the agenda, or with an empty agenda what is due (log 1, DESIGN CHOICE).
-/
namespace Sys2Proof.Machine

/-- Take a turn (log 1, DESIGN CHOICE): threads issue in D0 alone (R11). -/
def State.turn (s : State) (t : Turn) : Host.Outcome State Fault Refusal :=
  match t with
  | .event i who => if bySquad i then .next s else exec i { s with who }
  | .issue team sq => if s.power = .d0 then exec ({ s with team, sq } : State).pick { s with team, sq } else .next s
  | .regroup team sq => if s.power = .d0 then exec .convoyFormation { s with team, sq } else .next s
  | .time cycles ticks => .next (s.after cycles ticks)
  | .upset e => .next (s.upset e)
  | .outside w key bytes => .next (s.outside w key bytes)
  | .move w src dst => .next (s.movePage w src dst)
  | .ide key => .next { s with ideBad := s.ideBad ++ [key / 128 * 128] }
  | .lossTimeout ticks => .next (s.setTimeout ticks)
  | .pathFail dest path => .next (s.pathFail dest path)
  | .cross dir bits => .next (s.cross dir bits)
  | .arrive x => .next { s with inbound := s.inbound ++ [x] }

/-- One step (log 1, DESIGN CHOICE). -/
def step (s : State) : Host.Outcome State Fault Refusal :=
  let go (s : State) (t : Turn) : Host.Outcome State Fault Refusal :=
    if s.powered || wakes t then s.turn t else .fault .noPower
  match s.agenda with
  | t :: ts => go { s with agenda := ts } t
  | [] => go { s with rr := s.rr + 1 } s.nextTurn

/-- A team of one squad whose lane 0 stands before a fetch block that holds the instruction (log 3, DESIGN CHOICE). -/
def withFetchTeam (nbits w : Nat) : Team :=
  let pc := BitVec.ofNat 64 (0x10000 + tableOffset nbits)
  let e : Loop := { va := 0x10000, asid := 0, line := 0, bytes := tableBlock nbits w }
  { bars := List.replicate 16 { expected := 32 }
    squads := [{ convoy := [0], latch := some e }]
    threads := { pc, loops := [e] } :: List.replicate 31 { exited := true } }

/-- The state in which the next step fetches and runs an instruction (log 3, DESIGN CHOICE): a resident team stands at it and its turn is
next. -/
def State.withFetchWord (s : State) (nbits w : Nat) : State :=
  let hdr : LaunchRec := { regs := 32, tiles := 64, nbar := 16, stages := [{}] }
  { s with
    launches := s.launches.put 0 { hdr, stages := [{}] }
    teams := s.teams.put 0 (withFetchTeam nbits w)
    agenda := [.issue 0 0] }

end Sys2Proof.Machine
end

