-- ==== Sys2Proof/Safety.lean ====
section
/-!
DEFINITION. The terms the claims use: when an instruction issues, what its issue leaves as it was, and the invariants of the
model.
-/
namespace Sys2Proof.Machine

/-- The instruction issues now for a convoy: it stands there, in the midst of no instruction (R334), nothing that it needs is pending (R123 to
R125, R170), and decoding, the allocation and the storage it reads give no cause (R122, R264, R265). -/
def Ready (s : State) (i : Instr) (x : Convoy) : Prop :=
  s.slot i = some x ∧ ((s.tm x.key).squad x.q).amid? = none ∧ s.stalled i x = false ∧ s.decodeHits i x = []

/-- The squad of a convoy issues the last instruction that it may, outside its handler, so that the skids of its threads are fixed (R126). -/
def LastIssue (s : State) (x : Convoy) (tid : Nat) : Prop :=
  ((s.tm x.key).squad x.q).run = .halting 1 ∧ (s.tm x.key).handling = none ∧ tid / 32 = x.q

/-- Outside one squad of one team nothing changed. -/
structure SquadOnly (s t : State) (key q : Nat) : Prop where
  teams : ∀ k, k ≠ key → t.teams.find k = s.teams.find k
  squads : ∀ r, r ≠ q → (t.tm key).squad r = (s.tm key).squad r

/-- A convoy issued an instruction without a cause. Of its squad only the convoy, the count of issues since formation, the lanes that had to
issue alone and the issues left to a halting squad change; the trap record and the parked fault stay. Threads outside the convoy stay; `now`
gives each thread of the convoy after it, but for its lookahead windows; skids change at the last issue of a halting squad alone. -/
structure Issued (s t : State) (x : Convoy) (now : Nat → Thread → Thread) : Prop where
  only : SquadOnly s t x.key x.q
  squad : ∃ c, (t.tm x.key).squad x.q = { (s.tm x.key).squad x.q with
    convoy := c, sinceForm := ((s.tm x.key).squad x.q).sinceForm + 1, replay := []
    run := match ((s.tm x.key).squad x.q).run with | .halting n => .halting (n - 1) | r => r }
  others : ∀ tid, (∀ ln ∈ x.lanes, tid ≠ tidOf x.q ln) → ∃ n, (t.tm x.key).thread tid = { (s.tm x.key).thread tid with skid := n }
    ∧ (¬ LastIssue s x tid → n = ((s.tm x.key).thread tid).skid)
  lanes : ∀ ln ∈ x.lanes, ∃ w n, (t.tm x.key).lane x.q ln = { now ln ((s.tm x.key).lane x.q ln) with windows := w, skid := n }
    ∧ (¬ LastIssue s x (tidOf x.q ln) → n = (now ln ((s.tm x.key).lane x.q ln)).skid)

/-- The threads of a convoy after an instruction of a length: the PC of each goes past it, and `f` acts in the active lanes. -/
def past (i : Instr) (x : Convoy) (f : Thread → Thread) (ln : Nat) (th : Thread) : Thread :=
  { (if ln ∈ x.act then f th else th) with pc := x.pc + BitVec.ofNat 64 i.len }

/-- The team but for its threads and squads. -/
def Team.bare (t : Team) : Team := { t with threads := [], squads := [] }

/-- Nothing of the device changed but teams, and errors of storage that were written over (R122). -/
def TeamsOnly (s t : State) : Prop :=
  { t with teams := s.teams, ecc := s.ecc } = s ∧ (∀ e ∈ t.ecc, e ∈ s.ecc) ∧ ∀ a, t.byte a = s.byte a

/-- The instruction completes: the next state, in which its active threads are as `f` says, its team but for squads and
threads as `u` says, and everything else as before (all of memory, the other teams and squads, every other thread and its
registers). -/
def Performs (i : Instr) (s : State) (x : Convoy) (u : Team) (now : Nat → Thread → Thread) : Prop :=
  ∃ t, exec i s = .next t ∧ TeamsOnly s t ∧ Issued s t x now ∧ (t.tm x.key).bare = u.bare

/-- The instruction completes in its active lanes alone: `f` gives each thread after it but for the PC, which goes past the
instruction in every thread of the convoy. -/
def Acts (i : Instr) (s : State) (x : Convoy) (f : Thread → Thread) : Prop :=
  Performs i s x (s.tm x.key) (past i x f)

/-- Every active lane's thread satisfies a condition. -/
def EveryLane (s : State) (x : Convoy) (p : Thread → Prop) : Prop := ∀ ln ∈ x.act, p ((s.tm x.key).lane x.q ln)

/-- An integer instruction of two operands completes: each active lane's destination takes the bits of `f` of the operands' values,
with the tag of the type. -/
def Computes (s : State) (x : Convoy) (i : Instr) (ty : BitVec 6) (d a : BitVec 8) (o : Opb) (f : Int → Int → Nat) : Prop :=
  Ready s i x → EveryLane s x (fun th => th.tagged ty a = true ∧ o.tagged th ty = true) →
    Acts i s x fun th => th.setBits (wide ty) d (f (valOf ty (th.bits (wide ty) a)) (o.val th ty)) (tyTag ty)

/-- An instruction that completes in every state in which it issues. -/
def Does (s : State) (x : Convoy) (i : Instr) (f : Thread → Thread) : Prop := Ready s i x → Acts i s x f

/-- Nothing of the device changed but teams, operations in flight, fresh keys, and errors of storage written over. -/
def FlightsOnly (s t : State) : Prop :=
  { t with teams := s.teams, ecc := s.ecc, flights := s.flights, fresh := s.fresh } = s ∧ (∀ e ∈ t.ecc, e ∈ s.ecc)
    ∧ ∀ a, t.byte a = s.byte a

/-- A long-latency instruction of the pipelines issues (R124, R285): its threads go on, their registers stay, and, where a lane is
active, one operation is in flight that holds each active lane's result and flags for its destination. -/
def Launches (i : Instr) (s : State) (x : Convoy) (d : BitVec 8) (n : Nat) (tag : Tag) (val : Thread → Nat × BitVec 5) : Prop :=
  ∃ t, exec i s = .next t ∧ FlightsOnly s t ∧ Issued s t x (past i x id) ∧ (t.tm x.key).bare = (s.tm x.key).bare ∧
    if x.act = [] then t.flights = s.flights
    else ∃ f, t.flights = s.flights.put s.fresh f ∧ f.team = x.key ∧ f.sq = x.q ∧ f.pc = x.pc ∧ f.op = .result d n tag
      ∧ f.fpctl = (s.tm x.key).fpctl
      ∧ f.lanes.map (fun a => (a.ln, a.old, a.opb)) = x.act.map fun ln =>
          let v := val ((s.tm x.key).lane x.q ln); (ln, BitVec.ofNat 64 v.1, v.2.setWidth 64)

/-- A long-latency instruction completes in every state in which it issues with accepted tags. -/
def Later (s : State) (x : Convoy) (i : Instr) (d : BitVec 8) (n : Nat) (tag : Tag) (ok : Thread → Bool)
    (val : Thread → Nat × BitVec 5) : Prop :=
  Ready s i x → EveryLane s x (fun th => ok th = true) → Launches i s x d n tag val

/-- A floating-point instruction completes in lanes whose flags raise no enabled exception (R144): the flags are set in addition to
those already set, and `write` writes the result. -/
def FloatActs (s : State) (x : Convoy) (i : Instr) (ok : Thread → Bool) (fl : Thread → BitVec 5) (write : Thread → Thread) : Prop :=
  Ready s i x → EveryLane s x (fun th => ok th = true ∧ fpCauses (s.tm x.key).fpctl (fl th) = []) →
    Acts i s x fun th => write { th with flags := th.flags ||| fl th }

/-- An instruction that acts once for its convoy completes: the team becomes `u` but for squads and threads, where a lane is
active; all threads go on. -/
def Once (s : State) (x : Convoy) (i : Instr) (u : Team → Thread → Team) : Prop :=
  Performs i s x (match x.act with | [] => s.tm x.key | ln :: _ => u (s.tm x.key) ((s.tm x.key).lane x.q ln)) (past i x id)

/-- A memory instruction through a record issues (R151 to R154, R158, R170): where its checks give no cause, its units are found
(`as`, with the translations they made in `s1`), no earlier access of its threads overlaps them, a release waits for no load, and
the requests that leave the device can be sent, one operation is in flight with those units; the threads go on, their registers
and all of memory stay. -/
def AccessIssues (i : Instr) (s : State) (x : Convoy) (ad : MemAddr) (right : Right) (size unit : Nat) (lowest : Bool)
    (ok : Thread → Bool) (p : Team → Convoy → Record → Access) (split : Bool := false) : Prop :=
  let t := s.tm x.key
  let r := recordOf (t.brec ad.brec)
  let act := if lowest then x.act.take 1 else x.act
  let las := act.map fun ln =>
    let a := r.lane right size unit ad.idx ad.imm.toInt ln (t.lane x.q ln)
    { a with oob := a.oob && !split }
  let P := p t x r
  Ready s i x → (∀ la ∈ las, la.hits = []) → (∀ ln ∈ act, ok (t.lane x.q ln) = true) →
  ∀ (as : List LaneAcc) (s1 : State), as ≠ [] → s.located x.key P las = ({ accs := as }, s1) →
    s1.ownOverlap x.key x.q P.op.size as = false →
    (isRel P.ord = true → ∀ la ∈ las, s1.loadsOut x.key x.q la.ln = false) →
    (isRel P.ord = false → (s1.sendAll (s.launchOf t) s1.fresh P.op P.scp as).1 = []) →
    ∃ u k f, exec i s = .next u ∧ u.flights.find k = some f ∧ f.team = x.key ∧ f.sq = x.q ∧ f.core = t.core ∧ f.pc = x.pc
      ∧ f.op = P.op ∧ f.ord = P.ord ∧ f.scp = P.scp ∧ f.lanes = as ∧ f.rel.isSome = isRel P.ord
      ∧ Issued s u x (past i x id) ∧ (u.tm x.key).bare = t.bare ∧ ∀ a, u.byte a = s.byte a

end Sys2Proof.Machine
end

