-- ==== Sys2Proof/WellFormed.lean ====
section
/-!
DEFINITION. Well-formed instructions: those whose fields raise no cause at decoding (R264, R265) and that the
encoding can express.
-/
namespace Sys2Proof

/-- SUB can hold the form's operation code (R269): `RED` has no exchange (R332), `BSCALE` and `TCVT` take the codes
of R325 and R350. -/
def Instr.encodable : Instr → Bool
  | .red _ op .. => op ≠ .exch
  | .bscale _ ef .. => scaleFmtOk (ef.setWidth 6)
  | .tcvt _ rm .. => rm.toNat ≤ 5
  | _ => true

/-- An instruction without a defect of R264 or R265. -/
def Instr.wellFormed (i : Instr) : Bool := i.defects.isEmpty && i.encodable

end Sys2Proof
end

