-- ==== Sys2Proof/Certificates/Slice0/Obligations.lean ====
section
/-!
DEFINITION. The statements for the provers.
-/
open Sys2Proof Sys2Proof.Machine

/-- A step runs the instruction that its squad's latched block holds at the PC, or its event (R9, R11, R12, R94, R117, R264; log 1, log 18). -/
def Obligations.StepRunsTheDecodedInstruction : Prop :=
  (∀ (s : State) (ts : List Turn) (key q ln : Nat) (ls : List Nat) (t : Team),
    s.power = .d0 → s.agenda = .issue key q :: ts → s.teams.find key = some t →
    let s' : State := { s with agenda := ts, team := key, sq := q }
    let pc := (t.lane q ln).pc
    ((t.squad q).convoy = ln :: ls → (t.squad q).sinceForm < 4 → (t.squad q).amid? = none →
      ∀ e, (t.squad q).latch = some e → e.va = blockOf pc →
      (∀ i, decode e.bytes (pc.toNat % 32) = .ok i → step s = exec i s')
        ∧ ∀ k, decode e.bytes (pc.toNat % 32) = .error k → step s = exec (.unassignedOpcode k) s')
    ∧ ((t.squad q).convoy = ln :: ls → (t.squad q).sinceForm < 4 → ∀ m, (t.squad q).amid? = some m → step s = exec m.i s')
    ∧ ((t.squad q).convoy = ln :: ls → (t.squad q).sinceForm < 4 → (t.squad q).amid? = none →
        (∀ e, (t.squad q).latch = some e → e.va ≠ blockOf pc) → step s = exec .fetchBlock s')
    ∧ ((t.squad q).convoy = ln :: ls → 4 ≤ (t.squad q).sinceForm → step s = exec .convoyFormation s')
    ∧ ((t.squad q).convoy = [] → step s = exec .convoyFormation s'))
  ∧ (∀ (s : State) (ts : List Turn) (key q : Nat), s.agenda = .issue key q :: ts → s.power ≠ .d0 → s.powered = true →
      step s = .next { s with agenda := ts })
  ∧ ∀ (s : State) (ts : List Turn) (i : Instr) (who : Nat), s.agenda = .event i who :: ts → bySquad i = false →
    (s.powered = true → step s = exec i { s with agenda := ts, who })
    ∧ (s.powered = false → i = .coldReset ∨ i = .powerLoss → step s = exec i { s with agenda := ts, who })
    ∧ (s.powered = false → i ≠ .coldReset → i ≠ .powerLoss → step s = .fault .noPower)

/-- Words worked out in the manual decode to their instructions. -/
def Obligations.WorkedWordsDecode : Prop :=
  let hd (la : BitVec 4) : Hd := ⟨0, false, la, false⟩
  let two (p q : Nat) : Option Instr := decodeTableWord 64 (p + q * 2 ^ 32)
  let three (p q r : Nat) : Option Instr := decodeTableWord 96 (p + q * 2 ^ 32 + r * 2 ^ 64)
  -- LD.b32.la3 v4, [b1 + v2]; (!p3) IADD v6, v4, v5; IADD v10, v9, 1; TRAP 0x0D
  three 0x00100E02 0x00000804 0x20000000 = some (.ld (hd 3) 0 4 ⟨1, 2, 0⟩ 0 1)
  ∧ two 0x001AC041 0x04001410 = some (.iadd ⟨3, true, 0, false⟩ false 1 6 4 5)
  ∧ three 0x00280042 0x04000024 4 = some (.iaddImm (hd 0) false 1 10 9 1)
  ∧ two 0x00000381 0x00000034 = some (.trap (hd 0) 0x0D)
  -- ICMP.gt.i32 p3, v2, v8; (p2) BRA to 40 bytes back; CALLX v20, v10; REDUX.sum.i32 v9, v8, 0xFFFF_FFFF
  ∧ two 0x100C006D 0x04002008 = some (.icmp (hd 0) .gt 1 3 2 8)
  ∧ three 0x00008006 0 0xFFFFFFD8 = some (.bra ⟨2, false, 0, false⟩ (BitVec.ofInt 30 (-10)))
  ∧ two 0x00500011 0x00000028 = some (.callx (hd 0) 20 10)
  ∧ three 0x00240112 0x04000C20 0xFFFFFFFC = some (.reduxImm (hd 0) .sum .tot 1 9 8 0xFFFFFFFF)
  -- FFMA, FDIV.la2, FCMP.lt, FCVT.rz, BSCALE, PACKN
  ∧ two 0x0018014D 0x00100C08 = some (.ffma (hd 0) 0 0 6 2 3 4)
  ∧ two 0x00C80969 0x00002C30 = some (.fdiv (hd 2) 0 0 50 12 11)
  ∧ three 0x001401A2 0x00000010 0x00008310 = some (.fcvt (hd 0) 5 4 0 4 3 2 false)
  ∧ three 0x007801D6 0x00000028 0x00000330 = some (.packn (hd 0) 30 10 0 12 3 0 false)
  -- ST with release at device scope, RED.add with an offset, BRLOAD, PUBLISH
  ∧ three 0x00000206 0x001FFC0C 0x6C000000 = some (.st (hd 0) 0 ⟨3, 255, 0⟩ 7 3 3)
  ∧ three 0x00000212 0x081FFC0C 0x6C000010 = some (.red (hd 0) .add 2 ⟨3, 255, 4⟩ 7 3 3)
  ∧ three 0x0004021A 0x0003FC00 0x20000080 = some (.brload (hd 0) 1 ⟨0, 255, 32⟩ 0 1)
  ∧ three 0x00000232 0x001BFC04 0x40000000 = some (.publish (hd 0) ⟨1, 255, 0⟩ 6 0 2)
  -- TLD.e4m3, TZERO, SPAWN, SREAD of %tcause, SWRITE of %hpc, TRAPCLR, TRAPRET.resume
  ∧ three 0x00000282 0x8803FC08 0x20000000 = some (.tld (hd 0) 34 0 ⟨2, 255, 0⟩ 0 1)
  ∧ two 0x00040289 0 = some (.tzero (hd 0) 0 1)
  ∧ two 0x00080341 0x00000030 = some (.spawn (hd 0) 2 12)
  ∧ two 0x00780395 0x000000C0 = some (.sread (hd 0) 30 0x30)
  ∧ two 0x00000399 0x000050DC = some (.swrite (hd 0) 0x37 20)
  ∧ two 0x0000038D 0x00000078 = some (.trapclr (hd 0) 30)
  ∧ two 0x00000391 0 = some (.trapretResume (hd 0))
  -- the one-parcel NOP closes a fetch block
  ∧ decodeTableWord 32 1 = some (.nopOneParcel (hd 0))

/-- Decoding the encoding of a well-formed instruction gives the instruction back, at every place of a fetch block where it fits. -/
def Obligations.EncodedInstructionsDecodeBack : Prop :=
  ∀ (i : Instr) (bs before after : List Byte), i.wellFormed = true → encode i = some bs → before.length + bs.length ≤ 32 →
    (bs.length = 4 → before.length = 28) → decode (before ++ bs ++ after) before.length = .ok i

/-- What decoding answers for heads by their length field and place (R263, R264). -/
def Obligations.HeadsTrapByLengthAndPlace : Prop :=
  ∀ (block : List Byte) (off : Nat),
    let h := parcelAt block off
    (h.extractLsb' 0 2 = 0 → decode block off = .error .misland)
    ∧ (h.extractLsb' 0 2 ≠ 0 → ¬(h.extractLsb' 0 2 = 1 ∧ h.extractLsb' 2 8 = 0 ∧ off = 28) →
        32 < off + 4 * ((h.extractLsb' 0 2).toNat + 1) → decode block off = .error .fetchBoundary)
    ∧ (h.extractLsb' 0 10 = 1 → off = 28 → h.extractLsb' 26 6 = 0 → ∃ hd, decode block off = .ok (.nopOneParcel hd))
    ∧ ∀ i, decode block off = .ok i → i.hd.isSome = true ∧ off + i.len ≤ 32

/-- Integer arithmetic (R287): the exact result, wrapped, or clamped under `.sat`; everything else stays. -/
def Obligations.IntegerArithmeticCompletes : Prop :=
  ∀ (s : State) (x : Convoy) (h : Hd) (sat : Bool) (ty : BitVec 6) (d a b c : BitVec 8) (imm : Word),
    let w := tyWidth ty
    let lo : Int := if signedTy ty then -2 ^ (w - 1) else 0
    let hi : Int := if signedTy ty then 2 ^ (w - 1) - 1 else 2 ^ w - 1
    let wr (z : Int) : Nat := (z % 2 ^ w).toNat
    let cl (z : Int) : Nat := wr (if sat then max lo (min hi z) else z)
    let mad (i : Instr) (o : Opb) : Prop := Ready s i x →
      EveryLane s x (fun th => th.tagged ty a = true ∧ o.tagged th ty = true ∧ th.tagged ty c = true) →
      Acts i s x fun th => th.setBits (wide ty) d
        (wr (valOf ty (th.bits (wide ty) a) * o.val th ty + valOf ty (th.bits (wide ty) c))) (tyTag ty)
    Computes s x (.iadd h sat ty d a b) ty d a (.reg b) (fun p q => cl (p + q))
    ∧ Computes s x (.iaddImm h sat ty d a imm) ty d a (.imm imm) (fun p q => cl (p + q))
    ∧ Computes s x (.isub h sat ty d a b) ty d a (.reg b) (fun p q => cl (p - q))
    ∧ Computes s x (.isubImm h sat ty d a imm) ty d a (.imm imm) (fun p q => cl (p - q))
    ∧ Computes s x (.imul h ty d a b) ty d a (.reg b) (fun p q => wr (p * q))
    ∧ Computes s x (.imulImm h ty d a imm) ty d a (.imm imm) (fun p q => wr (p * q))
    ∧ Computes s x (.imulh h ty d a b) ty d a (.reg b) (fun p q => wr (Int.fdiv (p * q) (2 ^ w)))
    ∧ Computes s x (.imulhImm h ty d a imm) ty d a (.imm imm) (fun p q => wr (Int.fdiv (p * q) (2 ^ w)))
    ∧ mad (.imad h ty d a b c) (.reg b) ∧ mad (.imadImm h ty d a c imm) (.imm imm)
    ∧ Computes s x (.imin h ty d a b) ty d a (.reg b) (fun p q => wr (min p q))
    ∧ Computes s x (.iminImm h ty d a imm) ty d a (.imm imm) (fun p q => wr (min p q))
    ∧ Computes s x (.imax h ty d a b) ty d a (.reg b) (fun p q => wr (max p q))
    ∧ Computes s x (.imaxImm h ty d a imm) ty d a (.imm imm) (fun p q => wr (max p q))
    ∧ Computes s x (.iabs h ty d a) ty d a (.imm 0) (fun p _ => wr p.natAbs)
    ∧ Computes s x (.ineg h ty d a) ty d a (.imm 0) (fun p _ => wr (-p))

/-- Integer division (R288) issues with the results its lanes will get (R124). -/
def Obligations.DivisionIssues : Prop :=
  ∀ (s : State) (x : Convoy) (h : Hd) (ty : BitVec 6) (d a b : BitVec 8) (imm : Word),
    let w := tyWidth ty
    let wr (z : Int) : Nat := (z % 2 ^ w).toNat
    let quo (p q : Int) : Int :=
      if q = 0 then -1 else if signedTy ty = true ∧ p = -2 ^ (w - 1) ∧ q = -1 then p else Int.tdiv p q
    let rem (p q : Int) : Int := if q = 0 then p else Int.tmod p q
    let go (i : Instr) (o : Opb) (f : Int → Int → Int) : Prop :=
      Later s x i d (if wide ty then 2 else 1) (tyTag ty) (fun th => th.tagged ty a && o.tagged th ty)
        fun th => (wr (f (valOf ty (th.bits (wide ty) a)) (o.val th ty)), 0)
    go (.idiv h ty d a b) (.reg b) quo ∧ go (.idivImm h ty d a imm) (.imm imm) quo
    ∧ go (.imod h ty d a b) (.reg b) rem ∧ go (.imodImm h ty d a imm) (.imm imm) rem

/-- Integer comparison (R289). -/
def Obligations.IntegerComparisonCompletes : Prop :=
  ∀ (s : State) (x : Convoy) (h : Hd) (c : Cmp) (ty : BitVec 6) (d : BitVec 3) (a b : BitVec 8) (imm : Word),
    let truth (p q : Int) : Bool := match c with
      | .eq => decide (p = q) | .ne => decide (p ≠ q) | .lt => decide (p < q) | .le => decide (p ≤ q)
      | .gt => decide (p > q) | .ge => decide (p ≥ q)
    let go (i : Instr) (o : Opb) : Prop :=
      Ready s i x → EveryLane s x (fun th => th.tagged ty a = true ∧ o.tagged th ty = true) →
      Acts i s x fun th =>
        if d = 0 then th
        else
          let bit : BitVec 8 := 1#8 <<< d.toNat
          { th with preds := if truth (valOf ty (th.bits (wide ty) a)) (o.val th ty) then th.preds ||| bit else th.preds &&& ~~~bit }
    go (.icmp h c ty d a b) (.reg b) ∧ go (.icmpImm h c ty d a imm) (.imm imm)

/-- Logic, shifts and bit counts (R290), by operations on w-bit vectors. -/
def Obligations.LogicAndShiftsComplete : Prop :=
  ∀ (s : State) (x : Convoy) (h : Hd) (ty : BitVec 6) (d a b : BitVec 8) (imm : Word),
    let w := tyWidth ty
    let A (th : Thread) : BitVec w := BitVec.ofNat w (th.bits (wide ty) a)
    let two (i : Instr) (o : Opb) (f : BitVec w → BitVec w → BitVec w) : Prop :=
      Does s x i fun th => th.setBits (wide ty) d (f (A th) (BitVec.ofNat w (o.bits th ty))).toNat 0
    let count (i : Instr) (o : Opb) (f : BitVec w → Nat → BitVec w) : Prop :=
      Does s x i fun th => th.setBits (wide ty) d (f (A th) (o.word th).toNat).toNat 0
    let one (i : Instr) (f : BitVec w → Nat) : Prop :=
      Does s x i fun th => th.setReg d (BitVec.ofNat 32 (f (A th))) 0
    two (.and h ty d a b) (.reg b) (· &&& ·) ∧ two (.andImm h ty d a imm) (.imm imm) (· &&& ·)
    ∧ two (.or h ty d a b) (.reg b) (· ||| ·) ∧ two (.orImm h ty d a imm) (.imm imm) (· ||| ·)
    ∧ two (.xor h ty d a b) (.reg b) (· ^^^ ·) ∧ two (.xorImm h ty d a imm) (.imm imm) (· ^^^ ·)
    ∧ two (.andn h ty d a b) (.reg b) (fun p q => p &&& ~~~q) ∧ two (.andnImm h ty d a imm) (.imm imm) (fun p q => p &&& ~~~q)
    ∧ two (.not h ty d a) (.imm 0) (fun p _ => ~~~p) ∧ two (.brev h ty d a) (.imm 0) (fun p _ => p.reverse)
    ∧ count (.shl h ty d a b) (.reg b) (fun p n => p <<< n) ∧ count (.shlImm h ty d a imm) (.imm imm) (fun p n => p <<< n)
    ∧ count (.shr h ty d a b) (.reg b) (fun p n => p >>> n) ∧ count (.shrImm h ty d a imm) (.imm imm) (fun p n => p >>> n)
    ∧ count (.sar h ty d a b) (.reg b) (fun p n => p.sshiftRight n)
    ∧ count (.sarImm h ty d a imm) (.imm imm) (fun p n => p.sshiftRight n)
    ∧ count (.rot h ty d a b) (.reg b) (fun p n => p.rotateLeft n)
    ∧ count (.rotImm h ty d a imm) (.imm imm) (fun p n => p.rotateLeft n)
    ∧ one (.popc h ty d a) (fun p => ((List.range w).filter fun k => p.getLsbD k).length)
    ∧ one (.clz h ty d a) (fun p => ((List.range w).takeWhile fun k => !p.getMsbD k).length)
    ∧ one (.ctz h ty d a) (fun p => ((List.range w).takeWhile fun k => !p.getLsbD k).length)

/-- Bit fields (R291) and byte permutation (R292), bit by bit. -/
def Obligations.BitFieldsComplete : Prop :=
  ∀ (s : State) (x : Convoy) (h : Hd) (ty : BitVec 6) (d a b c : BitVec 8) (imm : Word),
    let w := tyWidth ty
    let pos (o : Word) : Nat := (o.extractLsb' 0 8).toNat
    let len (o : Word) : Nat := if w ≤ pos o then 0 else min (o.extractLsb' 8 8).toNat (w - pos o)
    let A (th : Thread) : Nat := th.bits (wide ty) a
    let C (th : Thread) : Nat := th.bits (wide ty) c
    let holds (i : Instr) (o : Opb) (bit : Thread → Word → Nat → Bool) : Prop :=
      Ready s i x → ∃ v : Thread → BitVec w, (∀ th k, (hk : k < w) → (v th)[k] = bit th (o.word th) k) ∧
        Acts i s x fun th => th.setBits (wide ty) d (v th).toNat 0
    let bfx (th : Thread) (o : Word) (k : Nat) : Bool :=
      if k < len o then (A th).testBit (pos o + k)
      else (ty == 1 || ty == 25) && decide (0 < len o) && (A th).testBit (pos o + len o - 1)
    let bfi (th : Thread) (o : Word) (k : Nat) : Bool :=
      if pos o ≤ k ∧ k < pos o + len o then (A th).testBit (k - pos o) else (C th).testBit k
    let perm (i : Instr) (o : Opb) : Prop :=
      Ready s i x → ∃ v : Thread → Word, (∀ th k, k < 4 →
          let sel := ((o.word th).extractLsb' (4 * k) 4).toNat
          (v th).extractLsb' (8 * k) 8 = if 8 ≤ sel then 0 else (th.r32 c ++ th.r32 a).extractLsb' (8 * sel) 8) ∧
        Acts i s x fun th => th.setReg d (v th) 0
    holds (.bfx h ty d a b) (.reg b) bfx ∧ holds (.bfxImm h ty d a imm) (.imm imm) bfx
    ∧ holds (.bfi h ty d a b c) (.reg b) bfi ∧ holds (.bfiImm h ty d a c imm) (.imm imm) bfi
    ∧ perm (.bperm h ty d a b c) (.reg b) ∧ perm (.bpermImm h ty d a c imm) (.imm imm)

/-- Moves, selection and addresses (R293 to R295). -/
def Obligations.MovesComplete : Prop :=
  ∀ (s : State) (x : Convoy) (h : Hd) (ty : BitVec 6) (d a b : BitVec 8) (c sh : BitVec 3) (imm : Word),
    let copied (r : BitVec 8) (th : Thread) : Thread :=
      if wide ty then (th.setReg d (th.reg r).1 (th.reg r).2).setReg (d + 1) (th.reg (r + 1)).1 (th.reg (r + 1)).2
      else th.setReg d (th.reg r).1 (th.reg r).2
    let value : Nat := if ty = 24 ∨ ty = 25 then (imm.signExtend 64).toNat else imm.toNat
    let ext (v : Word) : Dword := if ty = 1 then v.signExtend 64 else v.setWidth 64
    Does s x (.mov h ty d a) (copied a)
    ∧ Does s x (.movi h ty d imm) (fun th => th.setBits (wide ty) d value (tyTag ty))
    ∧ Does s x (.sel h ty d a b c) (fun th => if th.pred c then copied a th else copied b th)
    ∧ Does s x (.selImm h ty d a c imm) (fun th => if th.pred c then copied a th else th.setBits (wide ty) d value 0)
    ∧ (Ready s (.lea h ty d a b sh) x → EveryLane s x (fun th => th.tagged ty b = true) →
        Acts (.lea h ty d a b sh) s x fun th => th.set64 d (th.r64 a + ext (th.r32 b) <<< sh.toNat) 0)
    ∧ Does s x (.leaImm h ty d a sh imm) (fun th => th.set64 d (th.r64 a + ext imm <<< sh.toNat) 0)

/-- Predicate instructions (R296, R297). -/
def Obligations.PredicatesComplete : Prop :=
  ∀ (s : State) (x : Convoy) (h : Hd) (op : PredOp) (ia ib : Bool) (d p q : BitVec 3) (r a : BitVec 8),
    let truth (u v : Bool) : Bool := match op with | .and => u && v | .or => u || v | .xor => u ^^ v
    (Ready s (.plop h op ia ib d p q) x → ∃ f : Thread → Thread, Acts (.plop h op ia ib d p q) s x f ∧
      ∀ th, (d = 0 → f th = th) ∧ (d ≠ 0 → (f th).pred d = truth (th.pred p ^^ ia) (th.pred q ^^ ib)
        ∧ (∀ e, e ≠ d → (f th).pred e = th.pred e) ∧ { f th with preds := th.preds } = th))
    ∧ (Ready s (.pmovToRegister h r) x → ∃ v : Thread → Word,
        Acts (.pmovToRegister h r) s x (fun th => th.setReg r (v th) 0) ∧
        ∀ th (k : Nat), (v th).getLsbD k = (decide (k < 8) && th.pred (BitVec.ofNat 3 k)))
    ∧ (Ready s (.pmovToPredicates h a) x → ∃ f : Thread → Thread, Acts (.pmovToPredicates h a) s x f ∧
      ∀ th, { f th with preds := th.preds } = th ∧ ∀ k : BitVec 3, (f th).pred k = (k == 0 || (th.r32 a).getLsbD k.toNat))

/-- Control (R298 to R301). -/
def Obligations.ControlCompletes : Prop :=
  ∀ (s : State) (x : Convoy) (h : Hd) (off : BitVec 30) (d a : BitVec 8),
    let jumps (i : Instr) (ok : Thread → Prop) (target : Thread → Dword) (f : Thread → Thread) : Prop :=
      Ready s i x → EveryLane s x ok → Performs i s x (s.tm x.key) fun ln th =>
        if ln ∈ x.act then { f th with pc := target th } else { th with pc := x.pc + BitVec.ofNat 64 i.len }
    let words (v : BitVec 30) : Dword := BitVec.ofInt 64 (4 * v.toInt)
    let even (th : Thread) : Prop := (th.r64 a).toNat % 4 = 0
    Does s x (.nop h) id ∧ Does s x (.nop96 h) id ∧ Does s x (.nop128 h) id ∧ Does s x (.nopOneParcel h) id
    ∧ Does s x (.yield h) (fun th => { th with lastForm := ((s.tm x.key).squad x.q).formIdx })
    ∧ jumps (.bra h off) (fun _ => True) (fun th => th.pc + words off) id
    ∧ jumps (.call h d off) (fun _ => True) (fun th => th.pc + words off) (fun th => th.set64 d (th.pc + 12) 0)
    ∧ jumps (.brx h a) even (fun th => th.r64 a) id
    ∧ jumps (.ret h a) even (fun th => th.r64 a) id
    ∧ jumps (.callx h d a) even (fun th => th.r64 a) (fun th => th.set64 d (th.pc + 8) 0)
    ∧ ∀ i ∈ ([.brx h a, .ret h a, .callx h d a] : List Instr), Ready s i x → (∃ ln ∈ x.act, ¬ even ((s.tm x.key).lane x.q ln)) →
        ∃ hs : List Hit, hs ≠ [] ∧ exec i s = .next (s.trapAt x hs) ∧
          ∀ e ∈ hs, e.c = .align ∧ e.ln ∈ x.act ∧ e.addr = ((s.tm x.key).lane x.q e.ln).r64 a

/-- `EXIT` (R245, R300); that the last thread of a squad with a cause stays is a reading (log 68). -/
def Obligations.ExitEndsThreads : Prop :=
  ∀ (s : State) (x : Convoy) (h : Hd), Ready s (.exit h) x →
    (x.act = [] → Acts (.exit h) s x id)
    ∧ (x.act ≠ [] → s.inHandler x.key = true → ∃ t, exec (.exit h) s = .next t ∧
        ∃ e, (∀ v ∈ e, v ∈ (s.kill x.key 1).ecc ∨ v ∈ s.ecc) ∧ t = ({ s.kill x.key 1 with ecc := e } : State).settle x)
    ∧ (x.act ≠ [] → s.inHandler x.key = false →
        ((∃ ln ∈ (s.tm x.key).live x.q, ln ∉ x.act)
          ∨ (((s.tm x.key).squad x.q).causes = 0 ∧ s.quiet x.key x.q = true ∧ s.engineIdle x.key x.q = true)) →
        ∃ t, exec (.exit h) s = .next t ∧ (∀ ln ∈ x.act, ((t.tm x.key).lane x.q ln).exited = true)
          ∧ (∀ tid, ((t.tm x.key).thread tid).regs = ((s.tm x.key).thread tid).regs
              ∧ ((t.tm x.key).thread tid).preds = ((s.tm x.key).thread tid).preds)
          ∧ ∀ a, t.byte a = s.byte a)
    ∧ (x.act ≠ [] → s.inHandler x.key = false → (∀ ln ∈ (s.tm x.key).live x.q, ln ∈ x.act) →
        ((s.tm x.key).squad x.q).causes ≠ 0 → ∃ t, exec (.exit h) s = .next t ∧ t.mem = s.mem
          ∧ ∀ ln, ((t.tm x.key).lane x.q ln).exited = ((s.tm x.key).lane x.q ln).exited)

/-- Float instructions (R309 to R311, R314, R315) where no enabled exception arises (R144). -/
def Obligations.FloatArithmeticCompletes : Prop :=
  ∀ (s : State) (x : Convoy) (h : Hd) (ft rm : BitVec 3) (cmp : FCmp) (p : BitVec 3) (d a b c : BitVec 8),
    let F := ftFmt ft
    let rnd (q : XNum × Sys2Proof.Float.Flags) : Nat × Sys2Proof.Float.Flags := let r := F.round (Sys2Proof.Float.rmOf rm 0) false q.1; (r.1, q.2 ||| r.2)
    let v (th : Thread) (r : BitVec 8) (e : Nat) : XNum := F.decode (th.ftCode ft r e)
    let down : Bool := rm == 4
    let els (f : Thread → Nat → Nat × Sys2Proof.Float.Flags) (th : Thread) : List (Nat × Sys2Proof.Float.Flags) := (List.range (ftCount ft)).map (f th)
    let flags (rs : List (Nat × Sys2Proof.Float.Flags)) : Sys2Proof.Float.Flags := rs.foldl (fun fl r => fl ||| r.2) 0
    let go (i : Instr) (srcs : List (BitVec 8)) (f : Thread → Nat → Nat × Sys2Proof.Float.Flags) : Prop :=
      FloatActs s x i (fun th => srcs.all (th.ftTagged ft)) (fun th => flags (els f th))
        fun th => th.setBits (ft == 3) d (ftJoin ((els f th).map (·.1))) (ftTag ft)
    go (.fadd h ft rm d a b) [a, b] (fun th e => rnd (Sys2Proof.Float.add down (v th a e) (v th b e)))
    ∧ go (.fsub h ft rm d a b) [a, b] (fun th e => rnd (Sys2Proof.Float.add down (v th a e) (Sys2Proof.Float.negate (v th b e))))
    ∧ go (.fmul h ft rm d a b) [a, b] (fun th e => rnd (Sys2Proof.Float.mul (v th a e) (v th b e)))
    ∧ go (.ffma h ft rm d a b c) [a, b, c] (fun th e =>
        let m := Sys2Proof.Float.mul (v th a e) (v th b e)
        let z := Sys2Proof.Float.add down m.1 (v th c e)
        rnd (z.1, m.2 ||| z.2))
    ∧ go (.fmin h ft rm d a b) [a, b] (fun th e => let q := Sys2Proof.Float.minmax false (v th a e) (v th b e)
        ((F.round .rn false q.1).1, q.2 ||| (F.round .rn false q.1).2))
    ∧ go (.fmax h ft rm d a b) [a, b] (fun th e => let q := Sys2Proof.Float.minmax true (v th a e) (v th b e)
        ((F.round .rn false q.1).1, q.2 ||| (F.round .rn false q.1).2))
    ∧ go (.fround h ft rm d a) [a] (fun th e => rnd (Sys2Proof.Float.roundIntegral (Sys2Proof.Float.rmOf rm 0) (v th a e)))
    ∧ FloatActs s x (.fcmp h cmp ft rm p a b) (fun th => th.ftTagged ft a && th.ftTagged ft b)
        (fun th => (Sys2Proof.Float.compare cmp (v th a 0) (v th b 0)).2) (fun th => th.setPred p (Sys2Proof.Float.compare cmp (v th a 0) (v th b 0)).1)
    ∧ FloatActs s x (.fldexp h ft rm d a b) (fun th => th.ftTagged ft a && ((th.reg b).2 == 0 || (th.reg b).2 == 1))
        (fun th => (ldexpOf F (v th a 0) (th.r32 b).toInt).2)
        (fun th => th.setBits (ft == 3) d (ldexpOf F (v th a 0) (th.r32 b).toInt).1 (ftTag ft))

/-- `FMIN` and `FMAX` (R310). -/
def Obligations.MinimumAndMaximumNumber : Prop :=
  ∀ (s : State) (x : Convoy) (h : Hd) (isMax : Bool) (ft rm : BitVec 3) (d a b : BitVec 8),
    let i : Instr := if isMax then .fmax h ft rm d a b else .fmin h ft rm d a b
    let F := ftFmt ft
    let A (th : Thread) (e : Nat) := th.ftCode ft a e
    let B (th : Thread) (e : Nat) := th.ftCode ft b e
    let sig (c : Nat) : Bool := Sys2Proof.Float.isSig (F.decode c)
    let nan (c : Nat) : Bool := Sys2Proof.Float.isNan (F.decode c)
    let zero (c : Nat) : Bool := Sys2Proof.Float.isZero (F.decode c)
    let neg (c : Nat) : Bool := Sys2Proof.Float.isNeg (F.decode c)
    let less (c e : Nat) : Bool := if zero c && zero e then neg c && !neg e else Sys2Proof.Float.lt (F.decode c) (F.decode e)
    let anySig (th : Thread) : Bool := (List.range (ftCount ft)).any fun e => sig (A th e) || sig (B th e)
    Ready s i x → EveryLane s x (fun th => th.ftTagged ft a = true ∧ th.ftTagged ft b = true) →
    ∃ r : Thread → Nat → Nat,
      (∀ th e, e < ftCount ft →
        (nan (A th e) = true → nan (B th e) = true → some (r th e) = F.nan?)
        ∧ (nan (A th e) = true → nan (B th e) = false → r th e = B th e)
        ∧ (nan (A th e) = false → nan (B th e) = true → r th e = A th e)
        ∧ (nan (A th e) = false → nan (B th e) = false → (r th e = A th e ∨ r th e = B th e) ∧
            (if isMax then less (r th e) (A th e) = false ∧ less (r th e) (B th e) = false
              else less (A th e) (r th e) = false ∧ less (B th e) (r th e) = false)))
      ∧ ∃ t, exec i s = .next t ∧ ∀ ln ∈ x.act,
          let th := (s.tm x.key).lane x.q ln
          let th' := (t.tm x.key).lane x.q ln
          if anySig th && (s.tm x.key).fpctl.getLsbD 0 then
            th'.regs = th.regs ∧ ((t.tm x.key).squad x.q).causes.getLsbD 20 = true
          else th'.regs = (th.setBits (ft == 3) d (ftJoin ((List.range (ftCount ft)).map (r th))) (ftTag ft)).regs
            ∧ th'.flags = th.flags ||| (if anySig th then Sys2Proof.Float.INV else 0)

/-- `FCLASS` (R313), by the fields of the operand's code. -/
def Obligations.ClassMaskIsWritten : Prop :=
  ∀ (s : State) (x : Convoy) (h : Hd) (ft rm : BitVec 3) (d a : BitVec 8),
    let F := ftFmt ft
    let bit (c : Nat) : Nat :=
      let sg := c / 2 ^ (F.eb + F.mb) % 2 = 1
      let e := c / 2 ^ F.mb % 2 ^ F.eb
      let m := c % 2 ^ F.mb
      if e = 2 ^ F.eb - 1 then (if m = 0 then (if sg then 0 else 7) else if m < 2 ^ (F.mb - 1) then 8 else 9)
      else if e = 0 then (if m = 0 then (if sg then 3 else 4) else if sg then 2 else 5)
      else if sg then 1 else 6
    Ready s (.fclass h ft rm d a) x → EveryLane s x (fun th => th.ftTagged ft a = true) →
      Acts (.fclass h ft rm d a) s x fun th => th.setReg d (1#32 <<< bit (th.ftCode ft a 0)) 0

/-- Long-latency float instructions (R309, R312; the function results within their bounds are free values, log 13). -/
def Obligations.LongLatencyFloatIssues : Prop :=
  ∀ (s : State) (x : Convoy) (h : Hd) (ft rm : BitVec 3) (d a b : BitVec 8),
    let F := ftFmt ft
    let v (th : Thread) (r : BitVec 8) : XNum := F.decode (th.ftCode ft r 0)
    let go (i : Instr) (srcs : List (BitVec 8)) (val : Thread → Nat × BitVec 5) : Prop :=
      Later s x i d (if ft = 3 then 2 else 1) (ftTag ft) (fun th => srcs.all (th.ftTagged ft)) val
    go (.fdiv h ft rm d a b) [a, b] (fun th =>
      let q := Sys2Proof.Float.div (v th a) (v th b)
      let r := F.round (Sys2Proof.Float.rmOf rm 0) false q.1 q.2.1
      (r.1, q.2.2 ||| r.2))
    ∧ go (.fsqrt h ft rm d a) [a] (fun th =>
      let q := Sys2Proof.Float.sqrt (v th a)
      let r := F.round (Sys2Proof.Float.rmOf rm 0) false q.1 q.2.1
      (r.1, q.2.2 ||| r.2))
    ∧ go (.frcp h ft rm d a) [a] (fun th => Sys2Proof.Float.Sfu.rcp.result ft F (th.ftCode ft a 0))
    ∧ go (.frsq h ft rm d a) [a] (fun th => Sys2Proof.Float.Sfu.rsq.result ft F (th.ftCode ft a 0))
    ∧ go (.fexp2 h ft rm d a) [a] (fun th => Sys2Proof.Float.Sfu.exp2.result ft F (th.ftCode ft a 0))
    ∧ go (.flog2 h ft rm d a) [a] (fun th => Sys2Proof.Float.Sfu.log2.result ft F (th.ftCode ft a 0))
    ∧ go (.fsin h ft rm d a) [a] (fun th => Sys2Proof.Float.Sfu.sin.result ft F (th.ftCode ft a 0))
    ∧ go (.fcos h ft rm d a) [a] (fun th => Sys2Proof.Float.Sfu.cos.result ft F (th.ftCode ft a 0))

/-- The result of a long-latency instruction lands (R124, R144). -/
def Obligations.LongLatencyResultLands : Prop :=
  ∀ (s : State) (f : Flight) (t : Team) (d : BitVec 8) (n : Nat) (tag : Tag),
    s.flights.find s.who = some f → f.op = .result d n tag → s.teams.find f.team = some t →
    (f.lanes.map (·.ln)).Nodup → (∀ a ∈ f.lanes, tidOf f.sq a.ln < t.threads.length) →
    (∀ a ∈ f.lanes, fpCauses f.fpctl (a.opb.setWidth 5) = []) →
    ∃ u, exec .longLatencyResult s = .next u ∧ u.flights = s.flights.del s.who
      ∧ { u with teams := s.teams, flights := s.flights } = s
      ∧ (∀ k, k ≠ f.team → u.teams.find k = s.teams.find k)
      ∧ (∀ a ∈ f.lanes, (u.tm f.team).lane f.sq a.ln =
          ({ t.lane f.sq a.ln with flags := (t.lane f.sq a.ln).flags ||| a.opb.setWidth 5 } : Thread).setBits (n == 2) d a.old.toNat tag)
      ∧ (∀ tid, (∀ a ∈ f.lanes, tid ≠ tidOf f.sq a.ln) → (u.tm f.team).thread tid = t.thread tid)
      ∧ { u.tm f.team with threads := t.threads } = t

/-- Decoding then rounding into the same format gives the code back (R130, R131, R139, R142). -/
def Obligations.RoundingKeepsRepresentableValues : Prop :=
  ∀ f ∈ [Sys2Proof.Float.f64, Sys2Proof.Float.f32, Sys2Proof.Float.f16, Sys2Proof.Float.bf16, Sys2Proof.Float.e4m3, Sys2Proof.Float.e5m2, Sys2Proof.Float.e3m2, Sys2Proof.Float.e2m3, Sys2Proof.Float.e2m1, Sys2Proof.Float.e8m0],
    ∀ (rm : Sys2Proof.Float.Rm) (sat : Bool) (c : Nat), c < 2 ^ f.width →
      (Sys2Proof.Float.isNan (f.decode c) = false → f.round rm sat (f.decode c) = (c, 0))
      ∧ (∀ sig, f.decode c = .nan sig → ∃ q, f.nan? = some q ∧ f.round rm sat (f.decode c) = (q, if sig then Sys2Proof.Float.INV else 0))

/-- Conversions (R317 to R319). -/
def Obligations.ConversionsComplete : Prop :=
  ∀ (s : State) (x : Convoy) (h : Hd) (d a c : BitVec 8) (dty sty : BitVec 6) (rm : BitVec 3) (sat : Bool),
    let t := s.tm x.key
    let n := if dty = 10 ∨ dty = 11 then 2 else 1
    let mode (th : Thread) (k : Nat) : Sys2Proof.Float.Rm := Sys2Proof.Float.rmOf rm (Sys2Proof.Float.stochastic (th.r32 c) k)
    let toFloat (i : Instr) (val : Thread → Nat → XNum) : Prop :=
      let els (th : Thread) : List (Nat × Sys2Proof.Float.Flags) := (List.range n).map fun k => (tyFmt t dty).round (mode th k) sat (val th k)
      FloatActs s x i (fun th => th.cvTagged sty a) (fun th => (els th).foldl (fun fl r => fl ||| r.2) 0) fun th =>
        th.setBits (wide dty) d (if n = 1 then ((els th).headD (0, 0)).1 else joinElems 16 ((els th).map (·.1))) (tyTag dty)
    let toInt (i : Instr) : Prop :=
      let r (th : Thread) : Int × Sys2Proof.Float.Flags :=
        Sys2Proof.Float.toInt (mode th 0) (signedTy dty) (tyWidth dty) ((tyFmt t sty).decode (th.bits (wide sty) a))
      FloatActs s x i (fun th => th.cvTagged sty a) (fun th => (r th).2) fun th =>
        th.setBits (wide dty) d ((r th).1 % 2 ^ tyWidth dty).toNat (tyTag dty)
    let fval (th : Thread) (k : Nat) : XNum := (tyFmt t sty).decode (th.bits (wide sty) a / 2 ^ (16 * k))
    let ival (th : Thread) : Int := valOf sty (th.bits (wide sty) a % 2 ^ tyWidth sty)
    (cvInt dty = false → toFloat (.fcvt h d a c dty sty rm sat) fval) ∧ (cvInt dty = true → toInt (.fcvt h d a c dty sty rm sat))
    ∧ toInt (.f2i h d a c dty sty rm sat)
    ∧ toFloat (.i2f h d a c dty sty rm sat) (fun th _ => .fin (decide (ival th < 0)) (ival th).natAbs 0)
    ∧ FloatActs s x (.icvt h d a c dty sty rm sat) (fun th => th.cvTagged sty a) (fun _ => 0) fun th =>
        th.setBits (wide dty) d (intResult dty sat (ival th)) (tyTag dty)

/-- `PACKN`, `UNPACKN`, `DOT2`, `DOT4`, `BSCALE` (R320 to R322, R325). -/
def Obligations.PackingAndDotsComplete : Prop :=
  ∀ (s : State) (x : Convoy) (h : Hd) (d a b c : BitVec 8) (dty sty : BitVec 6) (ft rm : BitVec 3) (sat bf : Bool) (ef : Dot4Fmt)
    (sf : BitVec 5),
    let t := s.tm x.key
    let ors (rs : List (Nat × Sys2Proof.Float.Flags)) : Sys2Proof.Float.Flags := rs.foldl (fun fl r => fl ||| r.2) 0
    let pk := Instr.packn h d a c dty sty rm sat
    let up := Instr.unpackn h d a c dty sty rm sat
    let packed (th : Thread) : List (Nat × Sys2Proof.Float.Flags) :=
      let regs := groupRegs a sty (elemCount t dty)
      (List.range regs.length).map fun k =>
        if packInt dty then (packInt1 dty sat (intElem sty (regs.getD k 0) th), 0)
        else (tyFmt t dty).round (cvRm th rm c k) sat ((tyFmt t sty).decode (th.bits (wide sty) (regs.getD k 0)))
    let unpacked (th : Thread) : List (Nat × Sys2Proof.Float.Flags) := (List.range (elemCount t sty)).map fun k =>
      if packInt sty then (wrap 32 (packedInt t sty (th.r32 a).toNat k), 0)
      else (tyFmt t dty).round (Sys2Proof.Float.rmOf rm 0) sat (packedVal t sty (th.r32 a).toNat k)
    let dot (i : Instr) (tag : Tag) (n w : Nat) (val : Nat → XNum) (ints : Bool) : Prop :=
      let el (th : Thread) (r : BitVec 8) (k : Nat) : XNum := val ((th.r32 r).toNat / 2 ^ (w * k) % 2 ^ w)
      let ps (th : Thread) : List (XNum × Sys2Proof.Float.Flags) := (List.range n).map fun k => 
        let p := Sys2Proof.Float.mul (el th a k) (el th b k)
        (if ints && Sys2Proof.Float.isZero p.1 then .fin false 0 0 else p.1, p.2)
      let z (th : Thread) := Sys2Proof.Float.sum ((ftFmt ft).decode (th.ftCode ft c 0)) ((ps th).map (·.1))
      let r (th : Thread) := (ftFmt ft).round (Sys2Proof.Float.rmOf rm 0) false (z th).1
      let ok (th : Thread) (r : BitVec 8) : Bool := (th.reg r).2 == 0 || (th.reg r).2 == tag
      FloatActs s x i (fun th => ok th a && ok th b && th.ftTagged ft c)
        (fun th => (ps th).foldl (fun fl p => fl ||| p.2) (z th).2 ||| (r th).2)
        fun th => th.setReg d (BitVec.ofNat 32 (r th).1) (ftTag ft)
    ((∀ ln ∈ x.act, packHits pk dty (fun u => rm != 5 || decide ((tyFmt u dty).mb < (tyFmt u sty).mb))
          (s.launchOf (s.tm s.team)).hdr t ln = []) →
      FloatActs s x pk (fun th => (groupRegs a sty (elemCount t dty)).all (th.cvTagged sty)) (fun th => ors (packed th))
        fun th => th.setReg d (BitVec.ofNat 32 (joinElems (elemWidth t dty) ((packed th).map (·.1)))) (tyTag dty))
    ∧ ((∀ ln ∈ x.act, packHits up sty (fun _ => true) (s.launchOf (s.tm s.team)).hdr t ln = []) →
      FloatActs s x up (fun th => th.cvTagged sty a) (fun th => ors (unpacked th)) fun th =>
        ((groupRegs d dty (unpacked th).length).zip (unpacked th)).foldl (fun u p => u.setBits (wide dty) p.1 p.2.1 (tyTag dty)) th)
    ∧ dot (.dot2 h bf ft rm d a b c) (if bf then 11 else 10) 2 16 (if bf then Sys2Proof.Float.bf16.decode else Sys2Proof.Float.f16.decode) false
    ∧ dot (.dot4 h ef ft rm d a b c) (dot4Elem ef).1 4 8 (dot4Elem ef).2 (ef == .i8 || ef == .n8)
    ∧ (codeInvalid t sf = false → ∀ emax, emaxOf (codeFmt t sf) = some emax →
        FloatActs s x (.bscale h sf sty d a) (fun th => th.cvTagged 3 a) (fun _ => 0) fun th =>
          th.setReg d (BitVec.ofNat 32 (blockScale emax (Sys2Proof.Float.f32.decode (th.r32 a).toNat))) 0)

/-- `FMTSET`, `FMTGET`, `TAG`, `TAGGET` (R323, R324). -/
def Obligations.DescriptorsAndTags : Prop :=
  ∀ (s : State) (x : Convoy) (h : Hd) (k : BitVec 3) (d a b : BitVec 8) (imm : Word),
    let t := s.tm x.key
    let fmt (i : Instr) (o : Opb) : Prop := Ready s i x →
      ((∀ ln ∈ x.act.head?, Sys2Proof.Float.descValid (o.word (t.lane x.q ln)) = true) →
          Once s x i fun u th => { u with fms := u.fms.store 0 k.toNat (o.word th) })
      ∧ ∀ ln, x.act.head? = some ln → Sys2Proof.Float.descValid (o.word (t.lane x.q ln)) = false →
          exec i s = .next (s.trapAt x [{ ln, c := .reservedField }])
    let tagged (i : Instr) (o : Opb) : Prop := Ready s i x →
      (EveryLane s x (fun th => (o.word th).toNat ≤ 23) → Acts i s x fun th => th.setReg d (th.r32 a) ((o.word th).setWidth 5))
      ∧ ((∃ ln ∈ x.act, 23 < (o.word (t.lane x.q ln)).toNat) → exec i s = .next (s.trapAt x
          ((x.act.filter fun ln => decide (23 < (o.word (t.lane x.q ln)).toNat)).map fun ln => { ln, c := .reservedField })))
    fmt (.fmtset h k a) (.reg a) ∧ fmt (.fmtsetImm h k imm) (.imm imm)
    ∧ Does s x (.fmtget h d k) (fun th => th.setReg d (t.fms.look 0 k.toNat) 0)
    ∧ tagged (.tag h d a b) (.reg b) ∧ tagged (.tagImm h d a imm) (.imm imm)
    ∧ Does s x (.tagget h d a) (fun th => th.setReg d ((th.reg a).2.setWidth 32) 0)

/-- Squad instructions complete (R96, R303, R304). -/
def Obligations.SquadInstructionsComplete : Prop :=
  ∀ (s : State) (x : Convoy) (h : Hd) (op : VoteOp) (ia : Bool) (pr : BitVec 3) (mode : ShflMode) (mo : MatchOp) (ro : RedOp)
    (sc : ScanMode) (ty : BitVec 6) (d a b c : BitVec 8) (imm : Word),
    let T := s.tm x.key
    let raw : Thread → Dword × (Tag × Tag) × Word × Bool := fun _ => (0, (0, 0), 0, false)
    let arg (y : Thread → Word) (th : Thread) : Dword × (Tag × Tag) × Word × Bool := ((th.squadArg ty a).1, (th.squadArg ty a).2, y th, false)
    let go (i : Instr) (o : Opb) (part : Thread → Dword × (Tag × Tag) × Word × Bool) (ok : Thread → Bool) : Prop :=
      let ps : List Part := ((List.range 32).filter fun ln => x.act.contains ln).map fun ln =>
        let v := part (T.lane x.q ln); { ln, i, a := v.1, tags := v.2.1, c := v.2.2.1, pa := v.2.2.2 }
      Ready s i x → x.act ≠ [] → x.lanes.Nodup → (∀ ln ∈ x.lanes, ln < 32) →
      EveryLane s x (fun th => th.pc = x.pc ∧ th.wait = .none ∧ th.exited = false ∧ o.word th = lanesWord x.act ∧ ok th = true) →
      (∀ ln ∈ x.act, s.loadsOut x.key x.q ln = false) → (∀ ln, ln < 32 → ln ∉ x.act → (T.lane x.q ln).atSquad = none) →
      (s.inHandler x.key = false ∨ x.act.length = 1) →
      ∃ t, exec i s = .next t ∧
        let becomes (ln : Nat) (th : Thread) : Prop := ∃ w n, (t.tm x.key).lane x.q ln = { th with windows := w, skid := n }
          ∧ (¬ LastIssue s x (tidOf x.q ln) → n = th.skid) ∧ (ln ∉ x.lanes → w = th.windows)
        (∀ r p, ps[r]? = some p → becomes p.ln ((squadResult ps r p (T.lane x.q p.ln)).past i.len))
        ∧ (∀ ln ∈ x.lanes, ln ∉ x.act → becomes ln { T.lane x.q ln with pc := x.pc + BitVec.ofNat 64 i.len })
        ∧ (∀ ln, ln < 32 → ln ∉ x.lanes → becomes ln (T.lane x.q ln)) ∧ ∀ k, t.byte k = s.byte k
    let any : Thread → Bool := fun _ => true
    let ring : Thread → Bool := fun th => ro == .band || ro == .bor || ro == .bxor || th.tagged ty a
    go (.sqsync h b) (.reg b) raw any ∧ go (.sqsyncImm h imm) (.imm imm) raw any
    ∧ go (.vote h op ia d pr b) (.reg b) (fun th => (0, (0, 0), 0, th.pred pr != ia)) any
    ∧ go (.voteImm h op ia d pr imm) (.imm imm) (fun th => (0, (0, 0), 0, th.pred pr != ia)) any
    ∧ go (.shfl h mode ty d a b c) (.reg b) (arg fun th => th.r32 c) any
    ∧ go (.shflImm h mode ty d a c imm) (.imm imm) (arg fun th => th.r32 c) any
    ∧ go (.sqMatch h mo ty d a b) (.reg b) (arg fun _ => 0) any ∧ go (.sqMatchImm h mo ty d a imm) (.imm imm) (arg fun _ => 0) any
    ∧ go (.redux h ro sc ty d a b) (.reg b) (arg fun _ => 0) ring ∧ go (.reduxImm h ro sc ty d a imm) (.imm imm) (arg fun _ => 0) ring
    ∧ go (.convoy h d b) (.reg b) raw any ∧ go (.convoyImm h d imm) (.imm imm) raw any

/-- Results of squad instructions (R304). -/
def Obligations.SquadResultsByRank : Prop :=
  ∀ (ps : List Part) (r : Nat) (p : Part) (th : Thread) (h : Hd) (ia : Bool) (pr : BitVec 3) (ty : BitVec 6) (d a b c : BitVec 8)
    (imm : Word),
    ps[r]? = some p → (∀ u ∈ ps, u.ln < 32) →
    let n := ps.length
    let w := tyWidth ty
    let is (i j : Instr) : Prop := p.i = i ∨ p.i = j
    let seen (mode : ScanMode) : List Nat :=
      (match mode with | .tot => ps | .inc => ps.take (r + 1) | .exc => ps.take r).map fun (u : Part) => u.a.toNat
    let redux (op : RedOp) (mode : ScanMode) (ok : Nat → Prop) : Prop := is (.redux h op mode ty d a b) (.reduxImm h op mode ty d a imm) →
      (∀ u ∈ ps, u.a.toNat < 2 ^ w) → ∃ v, squadResult ps r p th = th.setBits (wide ty) d v (tyTag ty) ∧ ok v
    let bits (op : RedOp) (mode : ScanMode) (f : List Bool → Bool) : Prop :=
      redux op mode fun v => ∀ k, k < w → v.testBit k = f ((seen mode).map fun u => u.testBit k)
    let from_ (mode : ShflMode) : Nat := match mode with
      | .rank => p.c.toNat % n | .rot => (r + p.c.toNat) % n | .rev => n - 1 - r
      | .seg => let l := if p.c = 0 ∨ n < p.c.toNat then n else p.c.toNat; l * (r / l)
    (is (.sqsync h b) (.sqsyncImm h imm) → squadResult ps r p th = th)
    ∧ (is (.vote h .ballot ia d pr b) (.voteImm h .ballot ia d pr imm) → ∃ v : Word, squadResult ps r p th = th.setReg d v 0 ∧
        ∀ k, k < 32 → v.getLsbD k = ps.any fun u => u.ln == k && u.pa)
    ∧ (is (.vote h .all ia d pr b) (.voteImm h .all ia d pr imm) → squadResult ps r p th = th.setPred (d.setWidth 3) (ps.all (·.pa)))
    ∧ (is (.vote h .any ia d pr b) (.voteImm h .any ia d pr imm) → squadResult ps r p th = th.setPred (d.setWidth 3) (ps.any (·.pa)))
    ∧ (∀ mode, is (.shfl h mode ty d a b c) (.shflImm h mode ty d a c imm) → ∃ u, ps[from_ mode]? = some u ∧ squadResult ps r p th = th.setTags ty d u.a u.tags)
    ∧ (is (.sqMatch h .any ty d a b) (.sqMatchImm h .any ty d a imm) → ∃ v : Word, squadResult ps r p th = th.setBits (wide ty) d v.toNat 0 ∧
        ∀ k, k < 32 → v.getLsbD k = ps.any fun u => u.ln == k && u.a == p.a)
    ∧ (is (.sqMatch h .all ty d a b) (.sqMatchImm h .all ty d a imm) → ∃ v : Word, squadResult ps r p th = th.setBits (wide ty) d v.toNat 0 ∧
        ∀ k, k < 32 → v.getLsbD k = ((ps.all fun u => u.a == p.a) && ps.any fun u => u.ln == k))
    ∧ (∀ mode, is (.redux h .sum mode ty d a b) (.reduxImm h .sum mode ty d a imm) →
        squadResult ps r p th = th.setBits (wide ty) d ((seen mode).sum % 2 ^ w) (tyTag ty))
    ∧ (∀ mode : ScanMode, redux .low mode fun v => (seen mode = [] → ∀ u, u < 2 ^ w → valOf ty u ≤ valOf ty v)
        ∧ (seen mode ≠ [] → v ∈ seen mode ∧ ∀ u ∈ seen mode, valOf ty v ≤ valOf ty u))
    ∧ (∀ mode : ScanMode, redux .high mode fun v => (seen mode = [] → ∀ u, u < 2 ^ w → valOf ty v ≤ valOf ty u)
        ∧ (seen mode ≠ [] → v ∈ seen mode ∧ ∀ u ∈ seen mode, valOf ty u ≤ valOf ty v))
    ∧ (∀ mode, bits .band mode (fun vs => vs.all id) ∧ bits .bor mode (fun vs => vs.any id)
        ∧ bits .bxor mode (fun vs => decide ((vs.filter id).length % 2 = 1)))
    ∧ (is (.convoy h d b) (.convoyImm h d imm) → squadResult ps r p th = th.setReg d (BitVec.ofNat 32 (r + 256 * n)) 0)

/-- Misuse of a squad instruction (R303). -/
def Obligations.SquadMisuseIsRaised : Prop :=
  ∀ (s : State) (x : Convoy) (h : Hd) (op : VoteOp) (ia : Bool) (pr : BitVec 3) (mode : ShflMode) (mo : MatchOp) (ro : RedOp)
    (sc : ScanMode) (ty : BitVec 6) (d a b c : BitVec 8) (imm : Word) (ln : Nat),
    let T := s.tm x.key
    let ring (th : Thread) : Bool := ro == .band || ro == .bor || ro == .bxor || th.tagged ty a
    let go (i : Instr) (o : Opb) (ok : Thread → Bool) : Prop :=
      let m := o.word (T.lane x.q ln)
      let stays (t : State) (k : Nat) : Prop := ((t.tm x.key).lane x.q k).wait = .none ∧ ((t.tm x.key).lane x.q k).pc = (T.lane x.q k).pc
      let misused (t : State) : Prop := exec i s = .next t ∧ ((t.tm x.key).squad x.q).causes.getLsbD 24 = true ∧ stays t ln
      Ready s i x → x.act = [ln] → x.lanes = [ln] → ln < 32 → s.inHandler x.key = false → s.loadsOut x.key x.q ln = false →
      ok (T.lane x.q ln) = true →
      ((m.getLsbD ln = false ∨ ∃ k, k < 32 ∧ m.getLsbD k = true ∧ (T.lane x.q k).exited = true) → ∃ t, misused t)
      ∧ ∀ k y n, k < 32 → k ≠ ln → (T.lane x.q k).atSquad = some (y, n) → (y, n) ≠ (x.pc, m) → (m.getLsbD k = true ∨ n.getLsbD ln = true) →
          ∃ t, misused t ∧ stays t k
    let both (i j : Instr) (ok : Thread → Bool) : Prop := go i (.reg b) ok ∧ go j (.imm imm) ok
    both (.sqsync h b) (.sqsyncImm h imm) (fun _ => true)
    ∧ both (.vote h op ia d pr b) (.voteImm h op ia d pr imm) (fun _ => true)
    ∧ both (.shfl h mode ty d a b c) (.shflImm h mode ty d a c imm) (fun _ => true)
    ∧ both (.sqMatch h mo ty d a b) (.sqMatchImm h mo ty d a imm) (fun _ => true)
    ∧ both (.redux h ro sc ty d a b) (.reduxImm h ro sc ty d a imm) ring
    ∧ both (.convoy h d b) (.convoyImm h d imm) (fun _ => true)

/-- Memory instructions issue (R151 to R154, R168, R327 to R335, R347 to R349). -/
def Obligations.MemoryInstructionsIssue : Prop :=
  ∀ (s : State) (x : Convoy) (h : Hd) (ty : BitVec 6) (op : AtomOp) (d c y : BitVec 8) (n : BitVec 4) (tl : BitVec 6) (ad : MemAddr)
    (ord scp : BitVec 3),
    let any : Thread → Bool := fun _ => true
    let r : Record := recordOf ((s.tm x.key).brec ad.brec)
    let atom (i : Instr) (dst : Option (BitVec 8)) : Prop := ¬(op = .add ∧ ty = 6 ∧ r.scratch = true) →
      AccessIssues i s x ad .atomic (atomBytes ty) (atomBytes ty) false (atomTags op ty c) fun t x r =>
        { i, h, r, use := .atomic, op := .atomic op ty dst, ord, scp, offs := [0]
          fill := fun ln _ a => { a with opb := BitVec.ofNat 64 ((t.lane x.q ln).bits (wide ty) c) } }
    AccessIssues (.ld h ty d ad ord scp) s x ad .read (tyBytes ty) (tyBytes ty) false any (fun _ _ r =>
      { i := .ld h ty d ad ord scp, h, r, use := .load, op := .load ty d, ord, scp, offs := unitsOf ty })
    ∧ AccessIssues (.st h ty ad c ord scp) s x ad .write (tyBytes ty) (tyBytes ty) false
        (fun th => decide (ty = 0) || decide (24 ≤ ty.toNat) || th.tagged ty c) (fun t x r =>
      { i := .st h ty ad c ord scp, h, r, use := .store, op := .store ty, ord, scp, offs := unitsOf ty
        fill := fun ln o a => { a with data := (((t.lane x.q ln).lowBytes c (tyBytes ty)).drop o).take 8 } })
    ∧ atom (.atom h op ty d ad c ord scp) (some d) ∧ atom (.red h op ty ad c ord scp) none
    ∧ AccessIssues (.cas h ty d ad c ord scp y) s x ad .atomic (atomBytes ty) (atomBytes ty) false any (fun t x r =>
      { i := .cas h ty d ad c ord scp y, h, r, use := .atomic, op := .cas ty d, ord, scp, offs := [0]
        fill := fun ln _ a => { a with opb := BitVec.ofNat 64 ((t.lane x.q ln).bits (wide ty) c)
                                       opc := BitVec.ofNat 64 ((t.lane x.q ln).bits (wide ty) y) } })
    ∧ AccessIssues (.brload h n ad ord scp) s x ad .read 32 8 true any (fun _ _ r =>
      { i := .brload h n ad ord scp, h, r, use := .load, op := .brload n, ord, scp, offs := [0, 8, 16, 24] })
    ∧ (s.lockHits s.team 0 (tileTy tl ty) = [] →
        AccessIssues (.tld h ty tl ad ord scp) s x ad .read (tileSize ty) 128 true any (fun _ _ r =>
          { i := .tld h ty tl ad ord scp, h, r, use := .load, op := .tld ty tl, ord, scp, offs := tileUnits ty, oob := unitOob r })
          (split := true))
    ∧ ((∀ m ∈ tileTy tl ty, ∀ k, k < m.2 → tstTagOk ty ((s.tm x.key).tile (m.1.toNat + k)).tag = true) →
        AccessIssues (.tst h ty ad tl ord scp) s x ad .write (tileSize ty) 128 true any (fun t _ r =>
          { i := .tst h ty ad tl ord scp, h, r, use := .store, op := .tst ty tl, ord, scp, offs := tileUnits ty, oob := unitOob r
            fill := fun _ o a => { a with data := t.tileUnit tl ty o } }) (split := true))

/-- Checks of a lane's address (R151, R152). -/
def Obligations.RecordChecksAtIssue : Prop :=
  (∀ (r : Record) (right : Right) (size unit : Nat) (idx : BitVec 8) (imm : Int) (ln : Nat) (th : Thread), r.pairOk idx = true → 0 < unit →
    let k : Int := if idx = 255 then 0 else if r.flat then (th.r64 idx).toNat else ((th.r32 idx).toNat * max r.stride 1 : Nat)
    let o := k + imm
    let inside : Prop := 0 ≤ o ∧ o + size ≤ r.extent
    let a := r.lane right size unit idx imm ln th
    a.ln = ln ∧ a.addr = BitVec.ofInt 64 (r.base + o)
    ∧ (∀ e ∈ a.hits, e.ln = ln ∧ e.addr = a.addr)
    ∧ ((∃ e ∈ a.hits, e.c = .permission) ↔ r.has right = false) ∧ (∀ e ∈ a.hits, e.c = .permission → e.detail = 1)
    ∧ ((∃ e ∈ a.hits, e.c = .bounds) ↔ r.has right = true ∧ ¬inside ∧ r.oobz = false)
    ∧ ((∃ e ∈ a.hits, e.c = .align) ↔ ¬((unit : Int) ∣ r.base + o))
    ∧ (a.oob = true ↔ r.has right = true ∧ ¬inside ∧ r.oobz = true))
  ∧ ∀ (s : State) (x : Convoy) (h : Hd) (ty : BitVec 6) (d : BitVec 8) (ad : MemAddr) (ord scp : BitVec 3),
    let i : Instr := .ld h ty d ad ord scp
    let t := s.tm x.key
    let hs := x.act.flatMap fun ln => ((recordOf (t.brec ad.brec)).lane .read (tyBytes ty) (tyBytes ty) ad.idx ad.imm.toInt ln (t.lane x.q ln)).hits
    Ready s i x → hs ≠ [] → exec i s = .next (s.trapAt x hs)

/-- The reply of a load lands (R124, R151, R153, R163, R168, R329; its units by log 26), or its data fail IDE (R29); so do those of atomics, `BRLOAD`
and `TLD` (R333, R335, R349). -/
def Obligations.LoadReplyLands : Prop :=
  (∀ (s : State) (f : Flight) (a b : LaneAcc) (t : Team) (ty : BitVec 6) (d : BitVec 8) (hit : Bool) (res : FabricRes),
    s.flights.find s.who = some f → (f.lanes = [a] ∧ tyBytes ty ≤ 8 ∨ f.lanes = [a, b] ∧ tyBytes ty = 16) → f.op = .load ty d → f.rel = none →
    (∀ u ∈ f.lanes, u.ln = a.ln ∧ u.performed = false ∧ u.replied = false ∧ u.failed = false
      ∧ s.earlierWrite s.who f.core u.place f.op.size = false) →
    s.teams.find f.team = some t → tidOf f.sq a.ln < t.threads.length →
    let read (s : State) (u : LaneAcc) : Except Fail (List Byte) × State := match u.place with
      | .oob => (.ok (List.replicate f.op.size 0), s)
      | .slice k off swz => (s.sliceLoad k off swz f.op.size, s)
      | .glob key => s.loadGlob f.core (s.worldOf f.team) f.ord f.scp u.noL1 key f.op.size hit res
    let lands (bs : List Byte) : Prop := ∃ u, exec (.memoryReply 0xFFFFFFFF hit res) s = .next u
      ∧ (u.tm f.team).lane f.sq a.ln = (t.lane f.sq a.ln).putBytes d (tyTag ty) ((tyBytes ty + 3) / 4) bs
      ∧ u.flights.find s.who = none ∧ ∀ k, u.byte k = s.byte k
    s.areqs.find s.who = none →
    (s.linkFail f.hostKeys = none → f.lanes = [a] → ∀ bs, (read s a).1 = .ok bs → lands bs)
    ∧ (s.linkFail f.hostKeys = none → f.lanes = [a, b] → ∀ bs cs, (read s a).1 = .ok bs → (read (read s a).2 b).1 = .ok cs → lands (bs ++ cs))
    ∧ ∀ v, s.linkFail f.hostKeys = some v → exec (.memoryReply 0xFFFFFFFF hit res) s = .next v
        ∧ v.teams = s.teams ∧ v.flights = s.flights ∧ v.mem = s.mem ∧ v.out = s.out ++ [.aer])
  ∧ ∀ (s : State) (f : Flight) (t : Team) (hit : Bool) (res : FabricRes), s.flights.find s.who = some f → f.rel = none →
    s.areqs.find s.who = none → s.teams.find f.team = some t →
    let lands (more : Team → Prop) : Prop := ∃ u, exec (.memoryReply 0xFFFFFFFF hit res) s = .next u ∧ more (u.tm f.team)
      ∧ u.flights.find s.who = none ∧ ∀ k, u.byte k = s.byte k
    (∀ a ty, f.lanes = [a] → a.performed = true → a.replied = false → a.failed = false → tidOf f.sq a.ln < t.threads.length →
      (∀ d, (f.op = .cas ty d ∨ ∃ op, f.op = .atomic op ty (some d)) →
        lands fun t' => t'.lane f.sq a.ln = (t.lane f.sq a.ln).setBits (wide ty) d a.old.toNat (tyTag ty))
      ∧ ∀ op, f.op = .atomic op ty none → lands fun t' => t'.lane f.sq a.ln = t.lane f.sq a.ln)
    ∧ ∀ us s1, f.writes = false → s.linkFail f.hostKeys = none → s.performUnits s.who f 0xFFFFFFFF hit res = (us, s1) →
      (∀ y ∈ us, y.performed = true ∧ y.failed = false) →
      let bytes := us.flatMap fun y => if y.place = .oob then List.replicate f.op.size 0 else y.data
      (∀ d, f.op = .brload d → s.recordFails t (BitVec.ofNat 256 (ofBytes bytes)) d = [] →
        lands fun t' => t'.brec d = BitVec.ofNat 256 (ofBytes bytes) ∧ ∀ tid, t'.thread tid = t.thread tid)
      ∧ ∀ ty d, f.op = .tld ty d → s.lockHits f.team ((us.map (·.ln)).headD 0) (tileTy d ty) = [] →
        lands fun t' => (∀ k, t'.tile k = (t.loadTile d ty bytes).tile k) ∧ ∀ tid, t'.thread tid = t.thread tid

/-- A store at its home (R45, R153, R163): the units of one line write their bytes, all others stay. A store to a slice (R159, R160). -/
def Obligations.StoreWritesItsBytes : Prop :=
  (∀ (s : State) (f : Flight) (j : Nat) (a : LaneAcc) (ty : BitVec 6) (key : Nat) (res : FabricRes) (s2 : State),
    s.flights.find s.who = some f → f.lanes[j]? = some a → f.op = .store ty → f.rel = none → a.place = .glob key →
    let mine (b : LaneAcc) : Bool := !b.performed && b.line? == some (key / 128)
    let group := f.lanes.filter mine
    let cells := group.flatMap fun b => cellsAt (b.key?.getD 0) b.data
    (∀ b ∈ group, s.earlierWrite s.who f.core b.place f.op.size = false) → s.store (s.worldOf f.team) cells res = .ok s2 →
    ∃ u, exec (.homeSliceWrite j res) s = .next u
      ∧ (∀ k v, (cells.filter fun c => c.1 == k).getLast? = some (k, v) → u.byte k = v)
      ∧ (∀ k, (∀ c ∈ cells, c.1 ≠ k) → u.byte k = s.byte k)
      ∧ u.flights.find s.who = some { f with lanes := f.lanes.map fun b => if mine b then { b with performed := true } else b }
      ∧ u.teams = s.teams)
  ∧ ∀ (s : State) (f : Flight) (a : LaneAcc) (ty : BitVec 6) (k off swz : Nat) (t : Team) (hit : Bool) (res : FabricRes),
    s.flights.find s.who = some f → f.lanes = [a] → f.op = .store ty → f.rel = none → a.performed = false → a.failed = false →
    a.place = .slice k off swz → s.earlierWrite s.who f.core a.place f.op.size = false → s.areqs.find s.who = none → s.teams.find k = some t →
    let cells := a.data.mapIdx fun j b => (swizzle swz (off + j), b)
    ∃ u, exec (.memoryReply 0xFFFFFFFF hit res) s = .next u ∧ u.flights.find s.who = none ∧ u.mem = s.mem
      ∧ (∀ n, (u.tm k).slice.look 0 n = (((cells.filter fun c => c.1 == n).getLast?).map (·.2)).getD (t.slice.look 0 n))
      ∧ (∀ m tid, (u.tm m).thread tid = (s.tm m).thread tid) ∧ ∀ m, m ≠ k → (u.tm m).slice = (s.tm m).slice

/-- An atomic at its home (R45, R162, R332, R333), or in a slice (R159, R160). -/
def Obligations.AtomicReadsAndWritesOnce : Prop :=
  (∀ (s : State) (f : Flight) (a : LaneAcc) (key : Nat) (bs : List Byte),
    s.flights.find s.who = some f → f.lanes = [a] → f.rel = none → f.writes = true → a.performed = false → a.place = .glob key →
    isLocal key = true → (∃ op ty d, f.op = .atomic op ty d) ∨ (∃ ty d, f.op = .cas ty d) →
    s.earlierWrite s.who f.core a.place f.op.size = false → s.load (s.worldOf f.team) key f.op.size .ok = .ok bs →
    let n := f.op.size
    let old := ofBytes bs
    ∃ u, exec (.homeSliceWrite 0 .ok) s = .next u
      ∧ u.flights.find s.who = some { f with lanes := [{ a with performed := true, old := BitVec.ofNat 64 old }] }
      ∧ (∀ k, (k < key ∨ key + n ≤ k) → u.byte k = s.byte k)
      ∧ (∀ k, k < n → u.byte (key + k) = match f.op.update a old with
          | none => s.byte (key + k)
          | some v => BitVec.ofNat 8 (v / 2 ^ (8 * k)))
      ∧ u.teams = s.teams
      ∧ (f.hnd = false → ∃ v, exec (.homeSliceWrite 0 .checkFail) s = .next v ∧ ∀ k, v.byte k = s.byte k))
  ∧ ∀ (s : State) (f : Flight) (a : LaneAcc) (ty : BitVec 6) (k off swz : Nat) (t : Team) (hit : Bool) (res : FabricRes),
    s.flights.find s.who = some f → f.lanes = [a] → f.rel = none → a.performed = false → a.replied = false → a.failed = false →
    a.place = .slice k off swz → s.earlierWrite s.who f.core a.place f.op.size = false → s.areqs.find s.who = none → s.teams.find k = some t →
    s.sliceEcc k off swz f.op.size = false → tidOf f.sq a.ln < (s.tm f.team).threads.length → s.teams.find f.team ≠ none →
    let old := ofBytes (t.sliceRead off swz f.op.size)
    let cells := match f.op.update a old with
      | none => []
      | some v => (toBytes f.op.size v).mapIdx fun j b => (swizzle swz (off + j), b)
    let goes (now : Thread → Thread) : Prop := ∃ u, exec (.memoryReply 0xFFFFFFFF hit res) s = .next u ∧ u.flights.find s.who = none
      ∧ u.mem = s.mem ∧ (u.tm f.team).lane f.sq a.ln = now ((s.tm f.team).lane f.sq a.ln)
      ∧ ∀ n, (u.tm k).slice.look 0 n = (((cells.filter fun c => c.1 == n).getLast?).map (·.2)).getD (t.slice.look 0 n)
    (∀ d, (f.op = .cas ty d ∨ ∃ op, f.op = .atomic op ty (some d)) → goes fun th => th.setBits (wide ty) d (BitVec.ofNat 64 old).toNat (tyTag ty))
    ∧ ∀ op, f.op = .atomic op ty none → goes id

/-- The operations of atomics (R332) on w-bit values. -/
def Obligations.AtomicOperations : Prop :=
  ∀ (ty : BitVec 6) (old v : Nat), ty.toNat ∈ [0, 1, 2, 24, 25, 26] → old < 2 ^ tyWidth ty → v < 2 ^ tyWidth ty →
    let w := tyWidth ty
    let O : BitVec w := BitVec.ofNat w old
    let V : BitVec w := BitVec.ofNat w v
    let less (p q : Nat) : Prop := if ty = 1 ∨ ty = 25 then (BitVec.ofNat w p).toInt < (BitVec.ofNat w q).toInt else p < q
    (ty ≠ 0 → ty ≠ 24 → atomNew .add ty old v = (O + V).toNat
      ∧ ((atomNew .min ty old v = old ∨ atomNew .min ty old v = v) ∧ ¬ less old (atomNew .min ty old v) ∧ ¬ less v (atomNew .min ty old v))
      ∧ ((atomNew .max ty old v = old ∨ atomNew .max ty old v = v) ∧ ¬ less (atomNew .max ty old v) old ∧ ¬ less (atomNew .max ty old v) v))
    ∧ (ty = 0 ∨ ty = 24 → atomNew .and ty old v = (O &&& V).toNat ∧ atomNew .or ty old v = (O ||| V).toNat
      ∧ atomNew .xor ty old v = (O ^^^ V).toNat ∧ atomNew .exch ty old v = v)
    ∧ (ty = 2 ∨ ty = 26 → atomNew .incw ty old v = (if v ≤ old then 0 else old + 1)
      ∧ atomNew .decw ty old v = (if old = 0 ∨ v < old then v else old - 1))

/-- `FENCE` (R334), `PREFETCH` and `CCTL` (R338, R339), `BRSET` (R336). -/
def Obligations.FencesHintsAndRecords : Prop :=
  ∀ (s : State) (x : Convoy) (h : Hd) (ad : MemAddr) (ord scp : BitVec 3) (n : BitVec 4) (a : BitVec 8),
    let T := s.tm x.key
    let goes (i : Instr) (f : Thread → Thread) (more : State → Prop) : Prop :=
      ∃ u, exec i s = .next u ∧ Issued s u x (past i x f) ∧ (u.tm x.key).bare = T.bare ∧ (∀ k, u.byte k = s.byte k) ∧ more u
    let fence : Instr := .fence h ord scp
    let waiting : State := s.enterAmid x fence []
    (Ready s fence x → s.anyLoads x = false → ord = 2 →
      goes fence id fun u => x.act ≠ [] → 2 ≤ scp.toNat → (u.core T.core).l1d = [])
    ∧ (Ready s fence x → s.inAmid x = none → s.anyLoads x = false → ord ≠ 2 → ∀ s1, waiting.pumpLanes x scp.toNat = (true, [], s1) →
      goes fence (fun th => { th with rel := none }) fun u =>
        isAcq ord = true → x.act ≠ [] → 2 ≤ scp.toNat → (u.core T.core).l1d = [])
    ∧ (Ready s fence x → s.inAmid x = none → s.anyLoads x = false → ord ≠ 2 → ∀ s1, waiting.pumpLanes x scp.toNat = (false, [], s1) →
      ∃ u, exec fence s = .next u ∧ (∀ ln ∈ x.lanes, ((u.tm x.key).lane x.q ln).pc = (T.lane x.q ln).pc)
        ∧ (∃ m, ((u.tm x.key).squad x.q).amids = (T.squad x.q).amids ++ [m] ∧ m.i = fence ∧ m.lanes = x.lanes) ∧ ∀ k, u.byte k = s.byte k)
    ∧ (s.slot fence = some x → (T.squad x.q).amid?.isSome = true → ord ≠ 2 → (∀ ln ∈ x.lanes, tidOf x.q ln < T.threads.length) →
      ∀ s1, s.pumpLanes x scp.toNat = (true, [], s1) → ∃ u, exec fence s = .next u
        ∧ (∀ ln ∈ x.lanes, ((u.tm x.key).lane x.q ln).pc = x.pc + 8) ∧ ∀ k, u.byte k = s.byte k)
    ∧ (Ready s (.prefetch h ad ord scp) x → goes (.prefetch h ad ord scp) id fun _ => True)
    ∧ (Ready s (.cctl h ad ord scp) x → goes (.cctl h ad ord scp) id fun _ => True)
    ∧ (Ready s (.brset h n a) x → a.toNat % 4 = 0 →
        ((∀ ln ∈ x.act.head?, s.recordFails T ((T.lane x.q ln).record a) n = []) →
          Once s x (.brset h n a) fun u th => u.setBrec n (th.record a))
        ∧ ∀ ln, x.act.head? = some ln → s.recordFails T ((T.lane x.q ln).record a) n ≠ [] →
          exec (.brset h n a) s = .next (s.trapAt x
            ((s.recordFails T ((T.lane x.q ln).record a) n).map fun f => { ln, c := f.1, detail := f.2 })))
    ∧ Does s x (.brsetToRegisters h a n) (fun th =>
        th.setGroup a ((List.range 8).map fun k => (T.brec n).extractLsb' (32 * k) 32))

/-- `PUBLISH`, `PUBLISH.m`, `RETRACT`, `ADOPT` (R185 to R190, R340). -/
def Obligations.CodeInstructionsComplete : Prop :=
  ∀ (s : State) (x : Convoy) (h : Hd) (ad : MemAddr) (d c : BitVec 8) (ord scp : BitVec 3) (ln : Nat), x.act = [ln] →
    let T := s.tm x.key
    let region (right : Right) (meas : Bool) : Span :=
      regionOf (recordOf (T.brec ad.brec)) right meas ad ((T.lane x.q ln).r32 c).toNat ln (T.lane x.q ln)
    let goes (i : Instr) (more : State → Prop) : Prop := ∃ u, exec i s = .next u ∧ (∀ k, u.byte k = s.byte k)
      ∧ (∀ l ∈ x.lanes, ((u.tm x.key).lane x.q l).pc = x.pc + BitVec.ofNat 64 i.len) ∧ more u
    let span (right : Right) (meas : Bool) (ps : Pieces) : CodeSpan :=
      { ln, start := (region right meas).start, len := (region right meas).len, keys := ps.keys }
    let found (i : Instr) (right : Right) (us : List Use4) (meas : Bool) (ps : Pieces) (s1 : State) : Prop :=
      Ready s i x ∧ s.inAmid x = none ∧ (region right meas).hits = [] ∧ s.piecesOf x.key (region right meas) us meas = (ps, s1)
        ∧ ps.absent = [] ∧ ps.fail = none
    let pub : Instr := .publish h ad c ord scp
    let pubM : Instr := .publishM h d ad c ord scp
    let ret : Instr := .retract h ad c ord scp
    (∀ ps s1 s2, found pub .read [.fetch] false ps s1 →
        (s1.enterAmid x pub [span .read false ps]).pumpLanes x 3 = (true, [], s2) →
        goes pub fun u => ∀ l ∈ localLines ps.keys, (u.line l).retracted = false)
    ∧ (∀ ps s1, found ret .write [.fetch, .store] false ps s1 → goes ret fun u => ∀ l ∈ localLines ps.keys, (u.line l).retracted = true)
    ∧ (∀ ps s1 s2 sA s3, found pubM .read [.fetch] true ps s1 →
        (s1.enterAmid x pubM [span .read true ps]).pumpLanes x 3 = (true, [], s2) → s2.codeAsk x [span .read true ps] = (true, sA) →
        (sA.leaveAmid x).publishMeasured x d (span .read true ps) = .ok s3 →
        goes pubM fun u => (∀ l ∈ localLines ps.keys, (u.line l).retracted = false)
          ∧ u.launches = s3.launches ∧ ((u.tm x.key).lane x.q ln).regs = ((s3.tm x.key).lane x.q ln).regs)
    ∧ (Ready s (.adopt h ad c ord scp) x → (region .read false).hits = [] →
        goes (.adopt h ad c ord scp) fun u => ∀ e ∈ (u.core T.core).l1i,
          ¬(e.asid = (s.launchOf T).asid ∧ (region .read false).covers e.va 128 = true))

/-- Barrier instructions (R195 to R199). -/
def Obligations.BarrierInstructionsComplete : Prop :=
  ∀ (s : State) (x : Convoy) (h : Hd) (n : BitVec 4) (d b : BitVec 8) (imm : Word), s.inHandler x.key = false →
    let T := s.tm x.key
    let B := T.bar n.toNat
    let init (i : Instr) (o : Opb) : Prop := Ready s i x → T.barBusy n.toNat = false →
      (∀ ln ∈ x.act.head?, (o.word (T.lane x.q ln)).toNat ≤ 32 * T.squads.length) →
      Once s x i fun u th => u.setBar n.toNat { valid := true, phase := false, pending := 0, expected := (o.word th).toNat, arrived := 0 }
    let sync (i : Instr) (n : Nat) : Prop := Ready s i x → x.act ≠ [] → x.lanes.Nodup → n < T.bars.length → (T.bar n).valid = true →
      (T.bar n).expected ≠ 0 → s.anyLoads x = false → (T.bar n).arrived + x.act.length = (T.bar n).expected → (T.bar n).pending = 0 →
      EveryLane s x (fun th => th.pc = x.pc ∧ th.exited = false) → (∀ ln ∈ x.lanes, (T.lane x.q ln).wait = .none) →
      ∃ u, exec i s = .next u ∧ (u.tm x.key).bar n = { T.bar n with phase := !(T.bar n).phase, arrived := 0 }
        ∧ (∀ ln ∈ x.lanes, ((u.tm x.key).lane x.q ln).pc = x.pc + 8)
        ∧ (∀ ln ∈ x.act, ((u.tm x.key).lane x.q ln).wait = .none ∧ ((u.tm x.key).lane x.q ln).regs = (T.lane x.q ln).regs)
        ∧ ∀ k, u.byte k = s.byte k
    init (.barinit h n b) (.reg b) ∧ init (.barinitImm h n imm) (.imm imm)
    ∧ (Ready s (.barinval h n) x → (x.act ≠ [] → B.valid = true) → T.barBusy n.toNat = false →
        Once s x (.barinval h n) fun u _ => u.setBar n.toNat { u.bar n.toNat with valid := false })
    ∧ Does s x (.barquery h d n) (fun th => th.setReg d (BitVec.ofNat 32
        (B.valid.toNat * 2 ^ 31 + B.phase.toNat * 2 ^ 30 + B.pending % 256 * 2 ^ 22 + B.expected % 2048 * 2 ^ 11 + B.arrived % 2048)) 0)
    ∧ (Ready s (.bararrive h d n) x → B.valid = true → B.expected ≠ 0 → s.anyLoads x = false →
        (B.arrived + x.act.length < B.expected ∨ (B.pending ≠ 0 ∧ B.arrived + x.act.length ≤ B.expected)) → n.toNat < T.bars.length →
        Performs (.bararrive h d n) s x (T.setBar n.toNat { B with arrived := B.arrived + x.act.length })
          (past (.bararrive h d n) x fun th => th.setReg d (if B.phase then 1 else 0) 0))
    ∧ sync (.barsync h n) n.toNat ∧ sync (.teamsync h) 0
    ∧ (Ready s (.barwait h n b) x → x.act ≠ [] → B.valid = true →
        EveryLane s x (fun th => th.pc = x.pc ∧ th.wait = .none ∧ th.exited = false ∧ (th.r32 b).getLsbD 0 = !B.phase) →
        Acts (.barwait h n b) s x fun th => { th with haltPc := if th.haltPc = th.pc then th.pc + 8 else th.haltPc })

/-- Arrival and completion (R196). -/
def Obligations.PhaseCompletesWhenAllArrive : Prop :=
  ∀ (t : Team) (n : Nat), n < t.bars.length → t.heldWait = .none →
    let B := t.bar n
    let done (b : Barrier) (u : Team) : Prop :=
      if b.arrived = b.expected ∧ b.pending = 0 then
        u.bar n = { b with phase := !b.phase, arrived := 0 } ∧ ∀ tid, tid < t.threads.length →
          u.thread tid = if (t.thread tid).wait.onPhase n b.phase then (t.thread tid).past else t.thread tid
      else u.bar n = b ∧ u.threads = t.threads
    (t.arrive n).1 = B.phase ∧ done { B with arrived := B.arrived + 1 } (t.arrive n).2
    ∧ done { B with pending := B.pending - 1 } (t.copyArrive n)
    ∧ (∀ m, m ≠ n → (t.arrive n).2.bar m = t.bar m ∧ (t.copyArrive n).bar m = t.bar m)

/-- Copies issue (R203 to R205, R209, R343). -/
def Obligations.CopiesEnterTheJournal : Prop :=
  ∀ (s : State) (x : Convoy) (h : Hd) (k : CopyArgs) (bar : CopyBar) (scp : BitVec 3) (cRec : BitVec 4) (cOff : BitVec 6),
    let T := s.tm x.key
    let go (i : Instr) (b : Option Nat) : Prop := Ready s i x → s.copyHits x i k b = [] →
      (s.copies.filter fun e => e.2.core == T.core).length + x.act.length ≤ 128 →
      (∀ n ∈ b, (T.bar n).pending + x.act.length ≤ 128 ∧ n < T.bars.length) →
      ∃ u, exec i s = .next u ∧ Issued s u x (past i x id) ∧ (∀ a, u.byte a = s.byte a)
        ∧ (∀ j ln, x.act[j]? = some ln → ∃ c, u.copies.find (s.fresh + j) = some c
            ∧ { c with after := [] } = { (s.copyLane x i k b ln).1 with after := [] }
            ∧ (k.ord = true → ∀ m e, s.copies.find m = some e → e.team = x.key → e.tid = tidOf x.q ln → m < s.fresh → m ∈ c.after))
        ∧ (∀ m, m < s.fresh → u.copies.find m = s.copies.find m)
        ∧ ∀ n ∈ b, (u.tm x.key).bar n = { T.bar n with pending := (T.bar n).pending + x.act.length }
    let nb : Option Nat := if bar.arr then some bar.nb.toNat else none
    go (.copy h k bar) nb ∧ go (.copy2d h k bar) nb ∧ go (.copyg h k bar) nb ∧ go (.copyrem h k scp cRec cOff) none

/-- Copies run and end (R206 to R210). That parts of 4 bytes become visible one by one, and which answers a unit takes that lies in another device, are
the model's (log 26, DESIGN CHOICE; log 56, DESIGN CHOICE). -/
def Obligations.CopiesMoveAndComplete : Prop :=
  (∀ (s : State) (c : Copy) (res : FabricRes) (n : Nat), s.copies.find s.who = some c →
    let agent := copyAgent s.who
    let v := if n ∈ c.handled then s else s.answerUnit agent n res
    let runs : Prop := s.copyReady s.who c = true ∧ s.copyHeld c = false
    let starts (c' : Copy) : Prop := exec (.copyTransfer n res) s = .next { v with copies := v.copies.put s.who { c' with started := true } }
    (runs → c.started = false → c.overlap = false → (∀ e k i st im x b, c.kind ≠ .gather e k i st im x b) → starts c)
    ∧ (∀ e k i st im x b bs, runs → c.started = false → c.kind = .gather e k i st im x b → v.sliceLoad c.team i 0 (4 * k) = .ok bs →
        let c' := { c with indices := (List.range k).map fun j => ofBytes ((bs.drop (4 * j)).take 4) }
        c'.overlap = false → starts c')
    ∧ (runs → c.started = true → n < c.units → n ∉ c.handled → (∀ k ∈ c.stopAt, n < k) → c.snap = [] → c.srcAt n = none →
        ∃ u c', exec (.copyTransfer n res) s = .next u ∧ u.teams = s.teams ∧ u.mem = s.mem ∧ u.copies.find s.who = some c'
          ∧ c'.stopAt = some (min n (c.stopAt.getD n)) ∧ c'.written = c.written ∧ (c.err = 0 → c'.err = 8))
    ∧ (∀ bs s1 code, runs → c.started = true → n < c.units → n ∉ c.handled → (∀ k ∈ c.stopAt, n < k) → c.snap = [] → c.part.look 0 n < 4 →
        (v.copyFetch s.who c n = (.bytes bs, s1) ∧ code = 0
          ∨ v.copyFetch s.who c n = (.err code, s1) ∧ (code = 2 ∨ code = 3) ∧ bs = s1.rawUnit s.who c n) → bs.length = 16 →
        let p := c.part.look 0 n
        let off := 4 * p
        let c' := if code = 0 then c else c.fail n code
        let moved (u : State) (wrote : Bool) : Prop := exec (.copyTransfer n res) s = .next u ∧ u.copies.find s.who = some
          (if p = 3 then { c' with handled := n :: c'.handled, written := c'.written + wrote.toNat, part := c'.part.del n }
            else { c' with part := c'.part.put n (p + 1) })
        (∀ dst t, c.dst.team = some dst → s1.teams.find dst = some t → ∃ u, moved u (code == 0) ∧ u.mem = s.mem
          ∧ ∀ m, (u.tm dst).slice.look 0 m =
              if code = 0 ∧ c.dstAt n + off ≤ m ∧ m < c.dstAt n + off + 4 then bs.getD (m - c.dstAt n) 0 else t.slice.look 0 m)
        ∧ ∀ key s2 s3, c.dst.team = none → s1.agentXlat agent c.world c.asid (c.dstAt n + off) .store = (.ok key, s2) → isRemote key = false →
            s2.store c.world (cellsAt key ((bs.drop off).take 4)) = .ok s3 → ∃ u, moved u true
            ∧ (∀ j, j < 4 → u.byte (key + j) = bs.getD (off + j) 0) ∧ (∀ k, (k < key ∨ key + 4 ≤ k) → u.byte k = s.byte k)
            ∧ (code ≠ 0 → (u.line key).poison = true) ∧ ∀ l ∈ (u.core c.core).l1d, l.key ≠ key / 128 * 128)
    ∧ (c.over = true → c.vS ≠ 255 → (∃ t, s.teams.find c.team = some t ∧ c.tid < t.threads.length) →
        let ended (mem : List Host.Cell) : Prop := ∃ u, exec .copyComplete s = .next u ∧ u.copies.find s.who = none ∧ u.mem = mem
          ∧ ((u.tm c.team).thread c.tid).reg c.vS = (BitVec.ofNat 32 (2 ^ 31 + c.err % 128 * 2 ^ 24 + c.written % 2 ^ 24), 0)
        ((∀ scp ctr, c.kind ≠ .put scp ctr) → ended s.mem)
        ∧ ∀ scp ctr r sA rB sB s3, c.kind = .put scp ctr → c.err = 0 → c.counted = false → s.copyHeld c = false →
            (match c.rel with | some r => (r, s) | none => s.startRelease none c.ctx scp.toNat) = (r, sA) → sA.pumpRelease r = (rB, sB) →
            rB.lost = false → rB.done = true →
            ({ sB with copies := sB.copies.put s.who { c with rel := some rB } } : State).agentAdd agent c.world c.asid ctr 1 true scp.toNat
              = (.ok (), s3) → s3.teams = s.teams → ended s3.mem))
  ∧ ∀ (s s2 : State) (agent : Nat) (w : World) (asid va key scope : Nat) (v : Dword) (bs : List Byte),
    s.agentXlat agent w asid va .atomic = (.ok key, s2) → isLocal key = true → s2.load w key 8 .ok = .ok bs →
    ∃ u, s.agentAdd agent w asid va v true scope = (.ok (), u) ∧ (∀ k, (k < key ∨ key + 8 ≤ k) → u.byte k = s.byte k)
      ∧ ∀ k, k < 8 → u.byte (key + k) = BitVec.ofNat 8 ((ofBytes bs + v.toNat) % 2 ^ 64 / 2 ^ (8 * k))

/-- `TZERO`, `TMOV`, `TTRANS`, `TADD`, `TSCALE`, `TCVT` (R346, R351 to R354). -/
def Obligations.TileInstructionsComplete : Prop :=
  ∀ (s : State) (x : Convoy) (h : Hd) (ty d a b : BitVec 6) (c : BitVec 8) (rm : BitVec 3) (df sf : BitVec 5) (seg : BitVec 2),
    let T := s.tm x.key
    let once (i : Instr) (ok : Team → Bool) (u : Team → Thread → Team) : Prop :=
      Ready s i x → (∀ ln ∈ x.act.head?, s.tileHits i ok x ln = []) → Once s x i u
    let acc : Tag → Bool := fun g => g == 0 || g == tyTag ty
    let n := if ty = 3 then 2 else 1
    let f := accFmt ty
    let el (z : BitVec 6) (k : Nat) : XNum :=
      f.decode (accAt (decide (ty = 3)) (T.tile z.toNat).bytes (T.tile (z.toNat + 1)).bytes (k / 256) (k % 256))
    let src := T.tile a.toNat
    let val := tcvtSource sf (codeDesc T sf) seg.toNat src.bytes (T.tile (a.toNat + 1)).bytes src.scaleBytes
    let mode (th : Thread) (k : Nat) : Sys2Proof.Float.Rm := Sys2Proof.Float.rmOf rm (Sys2Proof.Float.stochastic (th.r32 c) k)
    let narrow (g : BitVec 5) : Bool := !tcvtWide g && elemBits g (codeDesc T g) == 8 && 1 < seg.toNat
    let cvt (u : Team → Thread → Team) : Prop :=
      (x.act ≠ [] → codeInvalid T sf = false ∧ codeInvalid T df = false ∧ narrow sf = false ∧ narrow df = false) →
        once (.tcvt h rm df d a sf seg c) (fun t => t.tagsIn a (if sf = 10 then 2 else 1) (codeTagOk sf)) u
    once (.tzero h ty d) (fun _ => true) (fun t _ =>
        if ty = 3 then (t.setTile d.toNat { tag := tyTag ty }).setTile (d.toNat + 1) { tag := tyTag ty }
        else t.setTile d.toNat { tag := tyTag ty })
    ∧ once (.tmov h d a) (fun _ => true) (fun t _ => t.setTile d.toNat src)
    ∧ once (.ttrans h d a) (fun t => (t.tile a.toNat).tag ∈ [(0 : Tag), 4, 5]) (fun t _ =>
        t.setTile d.toNat (tileOfCells src.tag ((List.range 4096).map fun k =>
          cellAt src.bytes (k % 256 % 16) (k % 256 / 16 * 16 + k / 256))))
    ∧ once (.tadd h ty d a b) (fun t => t.tagsIn a n acc && t.tagsIn b n acc) (fun t _ =>
        t.setAcc d (decide (ty = 3)) (tyTag ty) ((List.range 4096).map fun k => (f.round .rn false (Sys2Proof.Float.add false (el a k) (el b k)).1).1))
    ∧ once (.tscale h d c) (fun _ => true) (fun t th =>
        t.setTile d.toNat { t.tile d.toNat with scales := Map.sparse 127 0 (List.replicate 512 ((th.r32 c).setWidth 8)) })
    ∧ (tcvtWide df = true → cvt fun t th =>
        t.setAcc d (df == 10) (codeTag df) ((List.range 4096).map fun k =>
          ((elemFmt df 0).round (mode th k) false (val (k / 256) (k % 256))).1))
    ∧ (tcvtWide df = false → cvt fun t th =>
        t.setTile d.toNat { t.tile d.toNat with
          data := Map.sparse 0 0 (tcvtNarrow df (codeDesc t df) seg.toNat (t.tile d.toNat).bytes (t.tile d.toNat).scaleBytes val (mode th))
          tag := codeTag df })

/-- `TGETV` and `TSETV` (R355); cells of a tile (R217, R345, R351). -/
def Obligations.TileBytesMove : Prop :=
  (∀ (s : State) (x : Convoy) (h : Hd) (ty : BitVec 6) (d b c : BitVec 8) (a : BitVec 6),
    let T := s.tm x.key
    let fits : Prop := EveryLane s x fun th => (th.r32 b).toNat % 4 = 0 ∧ (th.r32 b).toNat ≤ 0x21FC
    (Ready s (.tgetv h ty d a b) x → fits → Acts (.tgetv h ty d a b) s x fun th =>
        th.setReg d (BitVec.ofNat 32 (ofBytes ((List.range 4).map fun k => (T.tile a.toNat).at_ ((th.r32 b).toNat + k)))) (tyTag ty))
    ∧ (Ready s (.tsetv h ty a c b) x → fits → (∀ ln ∈ x.act.head?, s.lockHits x.key ln [(a, 1)] = []) →
        EveryLane s x (fun th => 1 ≤ ty.toNat → ty.toNat ≤ 23 → (th.reg c).2 = 0 ∨ (th.reg c).2 = tyTag ty) →
        Performs (.tsetv h ty a c b) s x
          (T.setTile a.toNat (x.act.foldl (fun y ln => y.put4 ((T.lane x.q ln).r32 b).toNat ((T.lane x.q ln).r32 c).toNat) (T.tile a.toNat)))
          (past (.tsetv h ty a c b) x id))
    ∧ (let hs := x.act.flatMap fun ln => offsetHits ln ((T.lane x.q ln).r32 b)
      hs ≠ [] → (Ready s (.tgetv h ty d a b) x → exec (.tgetv h ty d a b) s = .next (s.trapAt x hs))
        ∧ (Ready s (.tsetv h ty a c b) x → (∀ ln ∈ x.act.head?, s.lockHits x.key ln [(a, 1)] = []) →
            (∀ ln ∈ x.act, 1 ≤ ty.toNat → ty.toNat ≤ 23 → ((T.lane x.q ln).reg c).2 = 0 ∨ ((T.lane x.q ln).reg c).2 = tyTag ty) →
            exec (.tsetv h ty a c b) s = .next (s.trapAt x hs)))
    ∧ ∀ (ln : Nat) (o : Word), (({ ln, c := .align } : Hit) ∈ offsetHits ln o ↔ o.toNat % 4 ≠ 0)
        ∧ (({ ln, c := .bounds } : Hit) ∈ offsetHits ln o ↔ 0x21FC < o.toNat))
  ∧ (∀ (tag : Tag) (vs : List Nat) (i c : Nat), vs.length = 4096 → i < 16 → c < 256 →
      cellAt (tileOfCells tag vs).bytes i c = vs.getD (256 * i + c) 0 % 65536)
    ∧ (∀ (tag : Tag) (vs : List Nat) (k : Nat), (tileOfCells tag vs).scale k = 127)
    ∧ ∀ (src : Array Byte) (tag : Tag) (i b c : Nat), i < 16 → b < 16 → c < 16 →
      cellAt (tileOfCells tag ((List.range 4096).map fun k => cellAt src (k % 256 % 16) (k % 256 / 16 * 16 + k / 256))).bytes c (16 * b + i)
        = cellAt src i (16 * b + c)

/-- Acceptance into the engine (R214, R219, R220, R222, R223). -/
def Obligations.EngineAccepts : Prop :=
  ∀ (s : State) (x : Convoy) (h : Hd) (wf af : BitVec 5) (d a c : BitVec 6) (acc : BitVec 2) (p : Bool) (ad : MemAddr) (slot : BitVec 6)
    (ing : Bool),
    let T := s.tm x.key
    let e := (s.core T.core).engine
    let own : Engine := { e with owner := some x.key }
    let s0 := s.setEngine T.core own
    let mine : Prop := e.owner = some x.key ∨ e = {}
    let takes (i : Instr) (e' : Engine) : Prop :=
      ∃ u, exec i s = .next u ∧ Issued s u x (past i x id) ∧ (u.tm x.key).bare = T.bare ∧ (∀ k, u.byte k = s.byte k)
        ∧ (u.core T.core).engine = e' ∧ ∀ k, k ≠ T.core → u.core k = s.core k
    let mswap : Instr := .mswap h
    let mma : Instr := .mma h wf d a c af acc p
    let mloadw : Instr := .mloadw h ad slot ing wf
    (∀ i ∈ [mswap, mma, mloadw], Ready s i x → x.act = [] → e.owner = none ∨ e.owner = some x.key → Acts i s x id)
    ∧ (∀ i ∈ [mswap, mma, mloadw], Ready s i x → e.owner ≠ none → e.owner ≠ some x.key → exec i s = .next s)
    ∧ (∀ ln ∈ x.act.head?, mine →
      (Ready s mswap x → e.queue.length < 8 → takes mswap { own with queue := e.queue ++ [.mswap x.q] })
      ∧ (Ready s mma x → e.queue.length < 8 → T.mmaHits wf af a c acc ln = [] →
          takes mma { own with queue := e.queue ++ [.mma x.q x.pc d a c af wf acc p (codeDesc T af) (s.inHandler x.key)] })
      ∧ (Ready s mloadw x → e.swapping = false → s.mloadwHits x ad slot ing wf ln = [] →
          let va := ((recordOf (T.brec ad.brec)).lane .read imageSize 128 ad.idx ad.imm.toInt ln (T.lane x.q ln)).addr
          ∀ keys s1, s0.imagePages T.core (s.launchOf T).world (s.launchOf T).asid va = (keys, [], none, s1) →
            s1.storesOut x.key x.q ln = false →
            takes mloadw { own with fill := some { sq := x.q, pc := x.pc, ing := if ing then some slot.toNat else none, va, keys, fmt := wf
                                                   desc := codeDesc T wf, hnd := s.inHandler x.key
                                                   after := s.storesOf T.core } }))

/-- What the engine does (R220, R222, R224, R225, R228, R237). -/
def Obligations.EngineRuns : Prop :=
  ∀ (s : State) (key : Nat) (res : FabricRes),
    let c := s.who
    let e := (s.core c).engine
    (∀ f bss s', e.fill = some f → e.owner = some key → s.fillReady f = true →
      (s.answerUnit (agentNum .fill c) 0 res).fillImage (agentNum .fill c) 0 (s.launchOf (s.tm key)) f = (some (.ok bss), s') →
      ∃ u, exec (.mloadwFill res) s = .next u ∧ u.teams = s.teams ∧ u.mem = s.mem ∧ (u.core c).engine =
        { e with fill := none
                 shadow := { image := Map.sparse 0 0 bss.flatten, fmt := f.fmt, desc := f.desc
                             src := match f.ing with | some k => .ingot k f.va (s.launchOf (s.tm key)).asid f.pc f.sq | none => .memory } })
    ∧ (∀ q sq, e.queue = .mswap sq :: q → e.started = none → e.suspect = none →
      ∃ u, exec .mswapExecute s = .next u ∧ u.teams = s.teams ∧ u.mem = s.mem
        ∧ (u.core c).engine = { e with queue := q, active := e.shadow, shadow := e.active })
    ∧ ∀ sq pc td ta tc af wf acc p desc hnd,
      let op : EngineOp := .mma sq pc td ta tc af wf acc p desc hnd
      (∀ q, e.owner = some key → e.queue = op :: q → e.started = none → e.suspect = none →
        (e.active.fmt = wf → elemBits e.active.fmt e.active.desc = elemBits af desc →
          s.tileEcc key op = false → s.ecc.contains (.plane c false) = false →
          exec .mmaStart s = .next (s.setEngine c { e with
            queue := q
            started := some { op, ta := (s.tm key).tile ta.toNat, tc := (s.tm key).tile tc.toNat, tc1 := (s.tm key).tile (tc.toNat + 1)
                              plane := e.active } }))
        ∧ (e.active.fmt ≠ wf →
          exec .mmaStart s = .next ((s.setEngine c { e with queue := q }).raise key sq pc [{ c := .tagMismatch }] (own := hnd))))
      ∧ ∀ st v, hnd = false → e.owner = some key → e.started = some st → st.op = op → st.view = some v →
        let f := accFloat acc
        let out := (inject c f.width s.asyinj (v.out f)).2
        let sets := v.assay f (s.tols acc).1 (s.tols acc).2 out
        ∃ u, exec .mmaDrain s = .next u ∧ u.mem = s.mem ∧ u.asyinj = (inject c f.width s.asyinj (v.out f)).1
          ∧ (u.core c).engine.started = none
          ∧ (sets = (0, 0) → (u.core c).engine.suspect = e.suspect ∧ u.tm key = (s.tm key).commit op out
              ∨ s.teams.find key = none)
          ∧ (sets ≠ (0, 0) → (∃ y, (u.core c).engine.suspect = some y ∧ y.op = op ∧ y.rows = sets.1 ∧ y.cols = sets.2
                ∧ y.out = Map.sparse 0 0 (out.map (BitVec.ofNat 32 ·)) ∧ (u.tm key).tiles = (s.tm key).tiles)
              ∧ ∀ T, s.teams.find key = some T → T.phase ≠ .killed → sq < T.squads.length → ((u.tm key).squad sq).causes.getLsbD 17 = true)
          ∧ ∀ (t : Team) (n : Nat), let w := (t.setAcc td (acc == 2) (accTag acc) out).tile n
              (t.commit op out).tile n = { w with scales := (t.tile n).scales }

/-- `MLOCATE`, `MCORRECT`, `MRETRY`, `MDISCARD`, `MSTAT` (R229 to R234, R236). -/
def Obligations.SuspectResultResolves : Prop :=
  ∀ (s : State) (x : Convoy) (h : Hd) (d : BitVec 8),
    let T := s.tm x.key
    let c := T.core
    let e := (s.core c).engine
    let set (ws : List Word) (th : Thread) : Thread := th.setGroup d ws
    let go (i : Instr) (f : Thread → Thread) (eng : Engine) (bare : Team) : Prop :=
      ∃ u, exec i s = .next u ∧ Issued s u x (past i x f) ∧ (u.tm x.key).bare = bare.bare ∧ (∀ k, u.byte k = s.byte k)
        ∧ (u.core c).engine = eng
    let ok (i : Instr) (operands : Bool) : Prop := Ready s i x ∧ x.act ≠ []
      ∧ (if operands then s.resolveEcc x.key (fun y => i != .mcorrect h d || y.single.isSome) else s.suspectEcc x.key) = false
    (∀ i : Instr, i ∈ ([.mlocate h d, .mcorrect h d, .mretry h d, .mdiscard h, .mstat h d] : List Instr) →
      Ready s i x → x.act = [] → Acts i s x id)
    ∧ (∀ ws : List Word, ws = s.mstatWords x.key → ok (.mstat h d) false → go (.mstat h d) (set ws) e T)
    ∧ (s.suspectOf x.key = none →
        (ok (.mlocate h d) false → go (.mlocate h d) (set (List.replicate 9 0)) e T)
        ∧ (ok (.mcorrect h d) true → go (.mcorrect h d) (set [3]) e T) ∧ (ok (.mretry h d) true → go (.mretry h d) (set [3]) e T)
        ∧ (Ready s (.mdiscard h) x → x.act ≠ [] → go (.mdiscard h) id e T))
    ∧ ∀ y, s.suspectOf x.key = some y →
        (ok (.mlocate h d) false → go (.mlocate h d) (set (BitVec.ofNat 32 (countCols y.cols * 65536 + y.rows.toNat)
          :: (List.range 8).map fun k => y.cols.extractLsb' (32 * k) 32)) e T)
        ∧ (Ready s (.mdiscard h) x → x.act ≠ [] → go (.mdiscard h) id { e with suspect := none } T)
        ∧ (s.planeLost x.key y = true →
            (ok (.mcorrect h d) true → go (.mcorrect h d) (set [4]) e T) ∧ (ok (.mretry h d) true → go (.mretry h d) (set [4]) e T))
        ∧ ∀ v, s.planeLost x.key y = false → (s.start x.key c y.op).view = some v →
            let f := accFloat y.op.acc
            let tol := s.tols y.op.acc
            (ok (.mcorrect h d) true → y.single = none → go (.mcorrect h d) (set [1]) e T)
            ∧ (∀ i j, ok (.mcorrect h d) true → y.single = some (i, j) →
                let out := y.list.set (256 * i + j) (v.elem f i j)
                let bad := v.rowBad f tol.1 v.sums.1 out.toArray i || v.colBad f tol.2 v.sums.2 out.toArray j
                go (.mcorrect h d) (set [if bad then 2 else 0]) (if bad then e else { e with suspect := none })
                  (if bad then T else T.commit y.op out))
            ∧ (ok (.mretry h d) true →
                let sets := v.assay f tol.1 tol.2 (v.out f)
                go (.mretry h d) (set [if sets = (0, 0) then 0 else 1])
                  { e with suspect := if sets = (0, 0) then none
                             else some { y with rows := sets.1, cols := sets.2
                                                out := Map.sparse 0 0 ((v.out f).map fun n => BitVec.ofNat 32 n) } }
                  (if sets = (0, 0) then T.commit y.op (v.out f) else T))

/-- `SREAD`, `SWRITE`, `CLOCK`, `SLEEP`, `TRAPINFO` (R127, R128, R247, R248, R359 to R361, R363). -/
def Obligations.SpecialRegistersAndTime : Prop :=
  ∀ (s : State) (x : Convoy) (h : Hd) (d num a b : BitVec 8) (imm : Word),
    let T := s.tm x.key
    let lanes (i : Instr) (f : Nat → Thread → Thread) : Prop := Performs i s x T fun ln => past i x (f ln) ln
    let sleep (i : Instr) (o : Opb) : Prop := Does s x i fun th =>
      { th with wait := if o.word th = 0 then .none else .sleep (o.word th).toNat }
    let info (i : Instr) (o : Opb) : Prop := Ready s i x →
      EveryLane s x (fun th => (th.r32 a).toNat < T.threads.length ∧ (o.word th).toNat < 13) →
      lanes i fun ln th => th.setReg d (if T.handling = some (x.q, ln) then T.trapWord (th.r32 a).toNat (o.word th).toNat else 0) 0
    (Ready s (.sread h d num) x → lanes (.sread h d num) fun ln th =>
        th.setBits (0x34 ≤ num.toNat) d (s.specialReg T x.q ln th num.toNat) 0)
    ∧ (Ready s (.swrite h 0x20 b) x → (∀ ln ∈ x.act.head?, ((T.lane x.q ln).r32 b).toNat < 8) →
        Once s x (.swrite h 0x20 b) fun t th => { t with fpctl := (th.r32 b).setWidth 3 })
    ∧ (Ready s (.swrite h 0x21 b) x → EveryLane s x (fun th => (th.r32 b).toNat < 32) →
        Acts (.swrite h 0x21 b) s x fun th => { th with flags := th.flags &&& ~~~((th.r32 b).setWidth 5) })
    ∧ (∀ ln hpc, Ready s (.swrite h 0x37 b) x → x.act = [ln] → T.phase = .handler x.q ln hpc →
        ((T.lane x.q ln).r64 b).toNat % 4 = 0 → ((T.lane x.q ln).r64 b).toNat < 2 ^ 57 →
        Performs (.swrite h 0x37 b) s x { T with phase := .handler x.q ln ((T.lane x.q ln).r64 b) } (past (.swrite h 0x37 b) x id))
    ∧ (Ready s (.swrite h num b) x → num.toNat ∉ [0x20, 0x21, 0x37] → x.act ≠ [] →
        exec (.swrite h num b) s = .next (s.trapAt x (x.act.map fun ln => { ln, c := .permission, detail := 4 })))
    ∧ Does s x (.clock h d) (fun th => th.set64 d (s.cycle T.core) 0)
    ∧ sleep (.sleep h b) (.reg b) ∧ sleep (.sleepImm h imm) (.imm imm)
    ∧ info (.trapinfo h d a b) (.reg b) ∧ info (.trapinfoImm h d a imm) (.imm imm)

/-- `TRAP`, `BRK`, `TRAPCLR`, `TRAPRET` (R241, R243, R250, R251, R253, R254, R255, R362). Among the model's choices: what is done with a wait or
fault held for the handling thread where `%hpc` has changed (log 60). -/
def Obligations.TrapsAndReturns : Prop :=
  ∀ (s : State) (x : Convoy) (h : Hd) (code : BitVec 16) (a : BitVec 8),
    let T := s.tm x.key
    let Q := T.squad x.q
    let soft (i : Instr) (c : Cause) : Prop :=
      (Ready s i x → x.act = [] → Acts i s x id)
      ∧ (Ready s i x → x.act ≠ [] → T.phase = .running →
        ∃ u, exec i s = .next u ∧ (u.tm x.key).halting = true ∧ ((u.tm x.key).squad x.q).causes = Q.causes ||| c.mask
          ∧ (Q.causes = 0 → ((u.tm x.key).squad x.q).fpc = x.pc ∧ ((u.tm x.key).squad x.q).detail = 0)
          ∧ (c = .software → Q.causes.getLsbD 25 = false → ((u.tm x.key).squad x.q).code = code.setWidth 32)
          ∧ ((u.tm x.key).squad x.q).run = .halting 0 ∧ ((u.tm x.key).squad x.q).convoy = []
          ∧ (∀ ln ∈ x.lanes, ∃ w k, (u.tm x.key).lane x.q ln =
              { T.lane x.q ln with pc := x.pc + BitVec.ofNat 64 i.len, windows := w, skid := k })
          ∧ ∀ k, u.byte k = s.byte k)
    let kill (i : Instr) (kind : Nat) : Prop := Ready s i x → ∃ u v : State, exec i s = .next u ∧ (u.tm x.key).phase = .killed
        ∧ (∀ tid, tid < T.threads.length → ((u.tm x.key).thread tid).exited = true
            ∧ ((u.tm x.key).thread tid).regs = (T.thread tid).regs ∧ ((u.tm x.key).thread tid).preds = (T.thread tid).preds)
        ∧ (∀ r, r < T.squads.length → ((u.tm x.key).squad r).run = .stopped)
        ∧ (∀ k, k ≠ x.key → u.teams.find k = s.teams.find k)
        ∧ v.mem = s.mem ∧ v.out = s.out ∧ v.fns = s.fns ∧ v.logsDue = s.logsDue
        ∧ (let w := v.log (s.launchOf T).fn (T.logRec (s.launchOf T) kind)
           u.mem = w.mem ∧ u.out = w.out ∧ u.fns = w.fns ∧ u.logsDue = w.logsDue)
    (∀ (v v1 v2 : State) (f : Nat) (r : LogRec), r.kind < 256 → v.logsDue = [] →
      let y := v.fn f
      let vec : List Out := if r.kind = 1 then [] else [.msi f (y.fltcfg.extractLsb' 16 11).toNat]
      let size := 2 ^ (y.fltcfg.extractLsb' 44 4).toNat
      let wr := (logIdx y).1
      (y.fltcfg.getLsbD 43 = false → (v.log f r).out = v.out ++ vec ∧ (v.log f r).mem = v.mem)
      ∧ (y.fltcfg.getLsbD 43 = true → (wr + 65536 - (logIdx y).2) % 65536 ≠ size →
          v.agentRelease (agentNum .log f) (recordCtx r.bytes) 5 = (some true, v1) →
          v1.agentWrite (agentNum .log f) y.world (y.fltcfg.extractLsb' 48 16).toNat
            (y.fltbase.toNat / 4096 * 4096 + 64 * (wr % size)) r.bytes = (.ok (), v2) → v2.fns = v.fns →
          (v.log f r).mem = v2.mem ∧ (v.log f r).out = v2.out ++ vec
          ∧ (logIdx ((v.log f r).fn f)).1 = (wr + 1) % 65536)) ∧
    soft (.trap h code) .software ∧ soft (.brk h code) .breakpoint
    ∧ ∀ ln hpc, x.act = [ln] → T.phase = .handler x.q ln hpc →
      (Ready s (.trapclr h a) x → s.suspectOf x.key = none → ∃ u, exec (.trapclr h a) s = .next u
        ∧ (let Q' := (u.tm x.key).squad x.q
           Q'.causes = Q.causes &&& ~~~((T.lane x.q ln).r32 a &&& 0x1FFFFFFF) ∧ (Q'.causes = 0 → Q'.fpc = 0 ∧ Q'.faddr = 0 ∧ Q'.detail = 0)
           ∧ (Q'.causes.getLsbD 25 = false → Q'.code = 0))
        ∧ (∀ l ∈ x.lanes, ∃ w, (u.tm x.key).lane x.q l = { T.lane x.q l with pc := x.pc + BitVec.ofNat 64 (Instr.trapclr h a).len, windows := w })
        ∧ ∀ k, u.byte k = s.byte k)
      ∧ (Ready s (.trapretResume h) x → T.held = false → (∀ r, (T.squad r).causes = 0) → Q.run = .running →
          (T.lane x.q ln).exited = false → T.heldWait.isBarrier = false ∨ hpc ≠ (T.lane x.q ln).haltPc →
        ∃ u, exec (.trapretResume h) s = .next u ∧ (u.tm x.key).phase = .running ∧ (u.tm x.key).halting = false
          ∧ (∀ tid, tid < T.threads.length → (T.thread tid).exited = false →
              ((u.tm x.key).thread tid).pc = (if tid = tidOf x.q ln then hpc else (T.thread tid).haltPc)
              ∧ ((u.tm x.key).thread tid).regs = (T.thread tid).regs)
          ∧ (∀ r, r < T.squads.length → ((u.tm x.key).squad r).run = .running) ∧ ∀ k, u.byte k = s.byte k)
      ∧ kill (.trapretKill h) 1 ∧ kill (.trapretKillsig h) 2

/-- R250. -/
def Obligations.HandlerOnlyActions : Prop :=
  ∀ (s : State) (x : Convoy) (h : Hd) (a b : BitVec 8) (i : Instr),
    i ∈ ([.trapclr h a, .trapretResume h, .trapretKill h, .trapretKillsig h, .swrite h 0x37 b] : List Instr) → Ready s i x →
    (∃ ln ∈ x.act, (s.tm x.key).handling ≠ some (x.q, ln)) →
    ∃ hs, exec i s = .next (s.trapAt x hs)
      ∧ (∀ ln ∈ x.act, (s.tm x.key).handling ≠ some (x.q, ln) → ({ ln, c := .permission, detail := 8 } : Hit) ∈ hs)
      ∧ ((s.tm x.key).phase = .running →
          let u := s.trapAt x hs
          ((u.tm x.key).squad x.q).causes.getLsbD 9 = true
          ∧ (((s.tm x.key).squad x.q).causes = 0 → ((u.tm x.key).squad x.q).detail = 8)
          ∧ ∀ tid, ((u.tm x.key).thread tid).pc = ((s.tm x.key).thread tid).pc
              ∧ ((u.tm x.key).thread tid).regs = ((s.tm x.key).thread tid).regs)

/-- Trap records (R241). -/
def Obligations.TrapRecordHoldsFirstEvent : Prop :=
  ∀ (q : Squad) (pc : Dword) (hs : List Hit) (code : Word),
    let r := q.record pc hs code
    (hs = [] → r = q)
    ∧ (∀ k, r.causes.getLsbD k = (q.causes.getLsbD k || hs.any fun h => h.c.mask.getLsbD k))
    ∧ (q.causes ≠ 0 → r.fpc = q.fpc ∧ r.faddr = q.faddr ∧ r.detail = q.detail)
    ∧ (q.causes = 0 → hs ≠ [] → ∃ g ∈ hs, leadHit hs = some g ∧ r.fpc = pc ∧ r.faddr = g.addr ∧ r.detail = g.detail
        ∧ ∀ k ∈ hs, g.c.bit < k.c.bit ∨ (g.c.bit = k.c.bit ∧ g.ln ≤ k.ln))
    ∧ (r.code = if q.causes.getLsbD 25 = false ∧ (∃ g ∈ hs, g.c.mask.getLsbD 25 = true) then code else q.code)
    ∧ r.run = q.run ∧ r.convoy = q.convoy ∧ r.park = q.park

/-- `SQUAD_STOPPED`, `HANDLER_ENTRY`, `SLEEP_EXPIRE`, `UNASSIGNED_OPCODE` (R243, R246, R252, R264, R361). -/
def Obligations.HaltsAndHandlers : Prop :=
  ∀ (s : State) (T : Team), s.teams.find s.who = some T →
    (∀ q n, (T.squad q).run = .halting n → T.stepping = none → T.handling = none → q < T.squads.length → s.quiet s.who q = true →
      (T.squad q).amids = [] →
      ∃ u, exec (.squadStopped q) s = .next u ∧ ((u.tm s.who).squad q).run = .stopped
        ∧ ((u.tm s.who).squad q).haltCyc = s.cycle T.core ∧ ((u.tm s.who).squad q).causes = (T.squad q).causes
        ∧ (∀ ln, ln < 32 → tidOf q ln < T.threads.length → ∃ k, (u.tm s.who).lane q ln =
            { T.lane q ln with haltPc := (T.lane q ln).pc, windows := [], skid := k })
        ∧ (∀ tid, (∀ ln, ln < 32 → tid ≠ tidOf q ln) → (u.tm s.who).thread tid = T.thread tid) ∧ u.mem = s.mem)
    ∧ (∀ q ln, T.phase = .running → T.halting = true → T.halted = true → T.held = false → T.waking = false →
        (s.ctx (s.launchOf T).ctx).phase ≠ .freezing → q < T.squads.length → (T.squad q).causes ≠ 0 →
        (∀ r, r < q → (T.squad r).causes = 0) → (T.live q).head? = some ln → tidOf q ln < T.threads.length →
        ((s.launchOf T).hdr.handler ≠ 0 → ∃ u, exec .handlerEntry s = .next u
          ∧ (u.tm s.who).phase = .handler q ln (T.lane q ln).haltPc ∧ ((u.tm s.who).lane q ln).pc = (s.launchOf T).hdr.handler
          ∧ ((u.tm s.who).lane q ln).regs = (T.lane q ln).regs ∧ ((u.tm s.who).lane q ln).preds = (T.lane q ln).preds
          ∧ ((u.tm s.who).squad q).run = .running ∧ ((u.tm s.who).squad q).causes = (T.squad q).causes
          ∧ (∀ tid, tid ≠ tidOf q ln → (u.tm s.who).thread tid = T.thread tid)
          ∧ (∀ r, r ≠ q → (u.tm s.who).squad r = T.squad r) ∧ u.mem = s.mem)
        ∧ ((s.launchOf T).hdr.handler = 0 → ∃ u, exec .handlerEntry s = .next u ∧ (u.tm s.who).phase = .killed
          ∧ ∀ tid, tid < T.threads.length → ((u.tm s.who).thread tid).exited = true))
    ∧ (∀ tid, (T.thread tid).wait = .sleep 0 → exec (.sleepExpire tid) s = .next (s.setTm s.who (T.setThread tid { T.thread tid with wait := .none })))
    ∧ ∀ x k, Ready s (.unassignedOpcode k) x →
        exec (.unassignedOpcode k) s = .next (s.trapAt x (x.lanes.map fun ln => { ln, c := decodeCause k })) ∧ x.lanes ≠ []

/-- `CONVOY_FORMATION`, `FETCH_BLOCK`, `PAGE_REQUEST_REPLY` (R94, R117, R118, R158, R182, R183). -/
def Obligations.FormationAndFetch : Prop :=
  ∀ (s : State) (T : Team), s.teams.find s.team = some T →
    let Q := T.squad s.sq
    let el := T.eligible s.sq
    (T.mayIssue s.sq = true → Q.amids = [] → Q.replay = [] → Q.lone = false → el ≠ [] → (∀ k ∈ el, (T.lane s.sq k).lastForm ≤ Q.formIdx) →
      ∃ u g, exec .convoyFormation s = .next u ∧ ((u.tm s.team).squad s.sq).convoy = g
        ∧ (∃ ln ∈ el, g = el.filter fun k => (T.lane s.sq k).pc == (T.lane s.sq ln).pc)
        ∧ (∃ m ∈ g, ∀ k ∈ el, (T.lane s.sq m).lastForm ≤ (T.lane s.sq k).lastForm)
        ∧ ((u.tm s.team).squad s.sq).formIdx = Q.formIdx + 1 ∧ ((u.tm s.team).squad s.sq).sinceForm = 0
        ∧ (∀ tid, ((u.tm s.team).thread tid).pc = (T.thread tid).pc ∧ ((u.tm s.team).thread tid).regs = (T.thread tid).regs)
        ∧ u.mem = s.mem)
    ∧ (T.mayIssue s.sq = true → (∃ ln ∈ T.live s.sq, ln ∈ Q.replay) →
      ∃ u, exec .convoyFormation s = .next u ∧ (∀ k ∈ ((u.tm s.team).squad s.sq).convoy, k ∈ Q.replay ∧ k ∈ el) ∧ u.mem = s.mem)
    ∧ (∀ ln, Q.convoy.head? = some ln → T.mayIssue s.sq = true → (T.lane s.sq ln).pc.toNat < 2 ^ 57 →
      (Q.lone = true → (T.lane s.sq ln).loop (s.launchOf T).asid (blockOf (T.lane s.sq ln).pc) = none) →
      let va := blockOf (T.lane s.sq ln).pc
      let l := s.launchOf T
      let got (line : Nat) (bytes : List Byte) : Prop := ∃ u, exec .fetchBlock s = .next u
        ∧ ((u.tm s.team).squad s.sq).latch = some { va, asid := l.asid, line, bytes := blockBytes va bytes }
        ∧ (∀ k ∈ Q.convoy, tidOf s.sq k < T.threads.length → ((u.tm s.team).lane s.sq k).loops.head? =
            some { va, asid := l.asid, line, bytes := blockBytes va bytes })
        ∧ (∀ tid, ((u.tm s.team).thread tid).pc = (T.thread tid).pc ∧ ((u.tm s.team).thread tid).regs = (T.thread tid).regs)
        ∧ u.mem = s.mem
      (∀ c, (s.core T.core).fetchLine l.asid va = some c → got c.key c.bytes)
      ∧ ∀ k e s1, (s.core T.core).fetchLine l.asid va = none → s.translate T.core l.world l.asid va .fetch = (.ok k e, s1) →
          isLocal k = true → s1.fetchFail l.world (k / 128 * 128) k = none → got (k / 128 * 128) (s1.read (k / 128 * 128) 128))
    ∧ ∀ r, s.reqs.find s.who = some r → r.agent = 0 →
        ∃ u, exec (.pageRequestReply true) s = .next u ∧ u.reqs.find s.who = none ∧ u.mem = s.mem
          ∧ ∀ tid b, (T.thread tid).wait = .fetch b s.who → ((u.tm s.team).thread tid).wait = .none
              ∧ ((u.tm s.team).thread tid).pc = (T.thread tid).pc

/-- `SPAWN`, `NOTIFY`, `SPAWN_SLOT_RESERVE` (R74, R87, R356 to R358). -/
def Obligations.SpawnAndNotifyComplete : Prop :=
  ∀ (s : State) (x : Convoy) (h : Hd) (st : BitVec 4) (a b : BitVec 8) (ln : Nat),
    let T := s.tm x.key
    let th := T.lane x.q ln
    let d := (s.launchOf T).hdr.stages.getD st.toNat {}
    (x.act = [ln] → x.lanes.Nodup → Ready s (.spawn h st a) x → s.spawnHits x st.toNat a = [] →
      s.inAmid x = none → s.anyLoads x = false → ∀ s1, (s.enterAmid x (.spawn h st a) []).pumpLanes x 3 = (true, [], s1) →
      let idle := x.lanes.filter fun l => !x.act.contains l
      let sA := (s1.leaveAmid x).take.2.advance x idle 8
      ∀ k s2, (match th.slot with | some (_, k) => some (k, sA) | none => sA.reserveSlot (sA.tm x.key).launch st.toNat) = some (k, s2) →
      ∀ s3, (s2.onTm x.key fun t => t.setThread (tidOf x.q ln) { t.lane x.q ln with slot := some (st.toNat, k) }).binWrite
          (sA.tm x.key) (slotAddr d k) (th.spawnRecord a d.recSize) = (.ok, s3) →
        ∃ u, exec (.spawn h st a) s = .next u ∧ u.mem = s3.mem
          ∧ u.launches = (s3.settleSlot T.launch st.toNat k .written).launches
          ∧ ∀ l ∈ x.lanes, ∃ w n, ((u.tm x.key).lane x.q l) =
              { T.lane x.q l with pc := x.pc + 8, windows := w, skid := n, rel := if l = ln then none else (T.lane x.q l).rel })
    ∧ (x.act = [ln] → Ready s (.notify h a b) x → (th.r32 a).toNat < 4096 → s.inAmid x = none → s.anyLoads x = false →
      ∀ s1, (s.enterAmid x (.notify h a b) []).pumpLanes x 5 = (true, [], s1) → ∀ q, (s1.leaveAmid x).queue? (th.r32 a).toNat = some q → q.world = (s.launchOf T).world →
        ∃ u, exec (.notify h a b) s = .next u
          ∧ u.queues = ((s1.leaveAmid x).deviceNotify (th.r32 a).toNat (th.r64 b).toNat).queues
          ∧ (∀ l ∈ x.lanes, ((u.tm x.key).lane x.q l).pc = x.pc + BitVec.ofNat 64 (Instr.notify h a b).len
              ∧ ((u.tm x.key).lane x.q l).regs = (T.lane x.q l).regs) ∧ u.mem = s.mem)
    ∧ ∀ tid st op k s1, s.teams.find s.who ≠ none → ((s.tm s.who).thread tid).wait = .bin st op → (s.tm s.who).phase = .running →
        (s.tm s.who).halting = false → (∀ l, l < tid % 32 → ((s.tm s.who).lane (tid / 32) l).wait ≠ .bin st op) →
        s.reserveSlot (s.tm s.who).launch st = some (k, s1) → tid < (s.tm s.who).threads.length →
        ∃ u, exec (.spawnSlotReserve tid) s = .next u ∧ u.launches = s1.launches
          ∧ (u.tm s.who).thread tid = { (s.tm s.who).thread tid with wait := .none, slot := some (st, k) } ∧ u.mem = s.mem

/-- `QUEUE_CREATE` to `QUEUE_MAP` (R58 to R66). The model's choices (DESIGN CHOICE or DEDUCED): that a queue in every error state restarts,
`ERROR_EXHAUSTED` too (log 72); a notify record at a stopped queue whose geometry is not fixed (log 63); the allotment of queue numbers and
ASIDs (log 7); which slot is taken and which of two queues comes first at a tie (log 78). -/
def Obligations.QueueCommandsComplete : Prop :=
  ∀ (s : State),
    let f := s.who
    let refused (u : State) : Prop := u = s.qcmdStat f 2
    (∀ c, s.qcmd? f 1 = some c → s.queue? c.num = none → s.ownsQueue f c.num = true → s.ownsAsid f c.asid = true →
      (c.auth = true ∨ f = 0 ∨ 255 ≤ f ∨ (s.fn f).world.toNat < 2) →
      ∃ u, exec .queueCreate s = .next u ∧ ((u.fn f).qcmd.extractLsb' 60 2).toNat = 0 ∧ u.mem = s.mem
        ∧ u.queue? c.num = some { fn := f, asid := c.asid, world := (s.fn f).world, auth := c.auth, errvec := c.errvec }
        ∧ ∀ m, m ≠ c.num → u.queue? m = s.queue? m)
    ∧ (∀ c q, s.qcmd? f 2 = some c → s.queue? c.num = some q → s.ownsQueue f c.num = true → q.destroy = false →
        q.running = [] → q.fn = f →
        ∃ u, exec .queueDestroy s = .next u ∧ u.queue? c.num = none ∧ ((u.fn f).qcmd.extractLsb' 60 2).toNat = 0 ∧ u.mem = s.mem)
    ∧ (∀ q, s.queue? s.who = some q → q.destroy = true → q.running = [] →
        ∃ u, exec .queueDestroyComplete s = .next u ∧ u.queue? s.who = none ∧ u.mem = s.mem)
    ∧ (∀ c q, s.qcmd? f 3 = some c → s.queue? c.num = some q → s.ownsQueue f c.num = true → q.err = true →
        q.destroy = false → ∃ u r, exec .queueRestart s = .next u ∧ u.queue? c.num = some r ∧ r.state ≤ 1 ∧ r.rdidx = q.rdidx
          ∧ r.wridx = q.wridx ∧ ((u.fn f).qcmd.extractLsb' 60 2).toNat = 0 ∧ u.mem = s.mem)
    ∧ (∀ c, s.queue? c.num = none → (s.qcmd? f 2 = some c → ∃ u, exec .queueDestroy s = .next u ∧ refused u)
        ∧ (s.qcmd? f 3 = some c → ∃ u, exec .queueRestart s = .next u ∧ refused u))
    ∧ (∀ q d x, s.queue? s.who = some q → q.destroy = false → (s.fn q.fn).serving = true → d.length = 64 → notifyForm d = some x →
        (q.geom = true → x.ring = q.ringBase.toNat ∧ x.log = q.logSize ∧ x.status = q.statusAddr.toNat) →
        x.wridx ≤ q.rdidx + 2 ^ x.log →
        ∃ u r, exec (.notifyRecord 0 d) s = .next u ∧ u.queue? s.who = some r ∧ r.wridx = max q.wridx x.wridx ∧ r.geom = true
          ∧ r.prio = x.prio ∧ r.logSize = x.log ∧ r.rdidx = q.rdidx ∧ r.held = q.held ∧ u.mem = s.mem)
    ∧ (∀ q s1 s2, (s.onQueue s.who id).queue? s.who = some q → q.statusDue ≠ none → q.geom = true →
        (s.onQueue s.who id).agentRelease (agentNum .status s.who) q.ctx 5 = (some true, s1) →
        s1.agentWrite (agentNum .status s.who) q.world q.asid q.statusAddr.toNat q.record = (.ok (), s2) → s2.queues = s1.queues →
        s1.queues = (s.onQueue s.who id).queues →
        ∃ u, exec .statusRecordWrite s = .next u ∧ u.mem = s2.mem ∧ u.queue? s.who = some { q with statusDue := none, errDue := false })
    ∧ ∀ q k, (s.onQueue s.who id).queue? s.who = some q → q.state = 1 → q.destroy = false → (s.onQueue s.who id).mapBefore s.who q = false →
        ((List.range 32).find? fun k => slotFor q k && !((s.onQueue s.who id).mapped (s.who % 2)).any fun u => u.2.slot == some k) = some k →
        ∃ u r, exec .queueMap s = .next u ∧ u.queue? s.who = some r ∧ r.state = 2 ∧ r.slot = some k ∧ r.rdidx = q.rdidx ∧ u.mem = s.mem

/-- `PACKET_ACCEPT`, `NOP_PACKET`, `WAIT`, `WAIT_EVALUATE`, `SIGNAL`, `LAUNCH` (R68 to R73, R77). -/
def Obligations.PacketsComplete : Prop :=
  ∀ (s : State),
    let n := s.who
    (∀ q d p s1, s.queue? n = some q → q.state = 2 → q.canRead = true →
      s.agentRead (agentNum .ring n) q.world q.asid (q.ringBase.toNat + 128 * (q.rdidx % 2 ^ q.logSize)) 128 = (.ok d, s1) →
      q.authFail n d = none → packetForm q.rdidx d = some p →
      ∃ u r, exec .packetAccept s = .next u ∧ u.queue? n = some r ∧ r.held = some p ∧ r.rdidx = q.rdidx + 1 ∧ r.wridx = q.wridx
        ∧ r.expseq = (if q.auth = true ∧ q.expseq + 1 ≠ 2 ^ 64 then q.expseq + 1 else q.expseq) ∧ u.mem = s1.mem)
    ∧ (∀ q p, s.nextPacket n = some (q, p) → p.body = .nop →
        ∃ u r, exec .nopPacket s = .next u ∧ u.queue? n = some r ∧ r.held = none ∧ r.running = q.running ∧ r.rdidx = q.rdidx ∧ u.mem = s.mem)
    ∧ (∀ q p addr value scope bs s1, s.queue? n = some q → q.held = some p → p.body = .wait addr value scope →
        q.destroy = false → q.err = false →
        s.agentRead (agentNum .packet n) q.world q.asid addr.toNat 8 = (.ok bs, s1) → s1.queues = s.queues →
        (∃ u r, exec .waitEvaluate s = .next u ∧ u.queue? n = some r ∧ u.mem = s1.mem
          ∧ u.remote = (if 4 ≤ scope then [] else s1.remote)
          ∧ r.held = some { p with ready := some (decide (value.toNat ≤ ofBytes bs)), polled := 0 })
        ∧ (q.state = 2 → (p.barrier = false ∨ q.running = []) → ((s.evaluate n).nextPacket n).isSome = true →
            ∃ u r, exec .wait s = .next u ∧ u.queue? n = some r ∧ r.held = none ∧ r.running = q.running))
    ∧ (∀ q p addr value add scope intr vector s1 s2, s.nextPacket n = some (q, p) → p.body = .signal addr value add scope intr vector →
        s.agentRelease (agentNum .packet n) q.ctx scope = (some true, s1) →
        s1.agentAdd (agentNum .packet n) q.world q.asid addr.toNat value add scope = (.ok (), s2) → s2.queues = s.queues →
        ∃ u r, exec .signal s = .next u ∧ u.queue? n = some r ∧ r.held = none ∧ u.mem = s2.mem
          ∧ (intr = true → ∃ xs, u.out = xs ++ [.msi q.fn vector]))
    ∧ ∀ q p lrec args da dv ds intr vec d0 d s1 s2 k hdr, s.nextPacket n = some (q, p) → p.body = .launch lrec args da dv ds intr vec →
        s.agentRead (agentNum .packet n) q.world q.asid lrec.toNat 0x80 = (.ok d0, s1) → stagesOf d0 = some k →
        s1.agentRead (agentNum .packet n) q.world q.asid (lrec.toNat + 0x80) (0x40 * k) 0x80 = (.ok d, s2) →
        recordForm (d0 ++ d) s2.mostCores = some hdr →
        s2.queues = s.queues →
        ∃ u r, exec .launch s = .next u ∧ u.queue? n = some r ∧ r.held = none ∧ r.running = q.running ++ [p.idx]
          ∧ u.launches.find s2.fresh = some
            { queue := n, pkt := p.idx, fn := q.fn, asid := q.asid, world := q.world, prio := q.prio, disp := n % 2, lrec, args
              doneAddr := da, doneAdd := dv, doneScope := ds, intr, vector := vec, hdr, stages := hdr.stages.map fun _ => {}
              rooms := k == 1 }

/-- `PLACEMENT_PASS` to `LAUNCH_COMPLETE` (R81 to R93). -/
def Obligations.DispatchersComplete : Prop :=
  (∀ (l : Launch) (key st en tm nrec core ens : Nat) (res : Bool),
    let t := l.team key st en tm nrec core ens res
    t.threads.length = 32 * l.hdr.teamSq ∧ t.squads.length = l.hdr.teamSq ∧ t.bars.length = l.hdr.nbar
    ∧ (∀ tid, tid < 32 * l.hdr.teamSq → (t.thread tid).pc = (l.hdr.stages.getD st {}).entry ∧ (t.thread tid).preds = 1
        ∧ ∀ r, (t.thread tid).reg r = (0, 0))
    ∧ (∀ n, n < l.hdr.nbar → t.bar n = { valid := true, phase := false, pending := 0, expected := 32 * l.hdr.teamSq, arrived := 0 })
    ∧ (t.brec 0).extractLsb' 0 64 = l.args
    ∧ (l.hdr.argSize ≤ 65536 → (t.brec 0).extractLsb' 64 64 = (if l.args = 0 then 0 else BitVec.ofNat 64 l.hdr.argSize)
        ∧ (t.brec 0).extractLsb' 128 40 = 0 ∧ (t.brec 0).extractLsb' 168 8 = 1 ∧ (t.brec 0).extractLsb' 176 80 = 0)
    ∧ (∀ n, n ≠ 0 → t.brec n = 0) ∧ (∀ k, t.fm k = 0) ∧ ∀ n, (t.tile n) = {})
  ∧ ∀ (s : State),
    (∀ key cl cs, let d := s.who
      let s0 : State := { s with launches := s.launches.map fun l => (l.1, if l.2.disp == d then l.2.mode else l.2) }
      let s1 := s0.noteBlocked d
      (∀ y ys, s1.items d = y :: ys → s1.placeable d y = true) → s1.nextItem d = some (key, 0) →
      s1.placeOf d (key, 0) = some { cluster := cl, cores := cs } → s1.tie d cl (s1.launch key).prio = none → s1.launches.find key ≠ none →
      ∃ u, exec .placementPass s = .next u ∧ (u.launch key).nextEn = (s1.launch key).nextEn + 1 ∧ u.mem = s.mem
        ∧ (d < s.disps.length → (u.disps.getD d {}).last = some cl)
        ∧ ∀ j c, cs[j]? = some c → ∃ t, u.teams.find (s1.fresh + 1 + j) = some t ∧ t.core = c ∧ t.tm = j ∧ t.launch = key
          ∧ t.stage = 0 ∧ t.en = (s1.launch key).nextEn)
    ∧ (∀ st cl c cs reserved bs va s2, let l := s.launch s.who
      let g := l.stages.getD st {}
      let sd := l.hdr.stages.getD st {}
      let ks := (g.records.take sd.coalesce).map (·.1)
      s.nextItem l.disp = some (s.who, st) → st ≠ 0 → s.placeOf l.disp (s.who, st) = some { cluster := cl, cores := c :: cs, reserved } →
      let s1 := (s.setLaunch s.who l.mode).noteBlocked l.disp
      s1.tie l.disp cl l.prio = none → s1.readBins s.who sd ks = (.ok bs, va, s2) →
      ∃ u t, exec (.binTeamLaunch st) s = .next u ∧ u.teams.find (s2.fresh + 1) = some t ∧ t.stage = st ∧ t.core = c ∧ t.nrec = ks.length
        ∧ t.slice = Map.storeBytes 0 [] 0 bs ∧ t.launch = s.who ∧ t.reserved = reserved)
    ∧ (∀ st l k a rs, s.launches.find s.who = some l → (l.stages.getD st {}).records = (k, a) :: rs → st < l.stages.length →
        (l.hdr.stages.getD st {}).age * 100 ≤ a →
        ∃ u, exec (.binAgeExpiry st) s = .next u ∧ ((u.launch s.who).stages.getD st {}).due = true ∧ u.mem = s.mem)
    ∧ (∀ b, b ∈ (s.disps.getD s.who {}).blocked → b.since + 10000 ≤ s.ticks → s.who < s.disps.length →
        ∃ u, exec .blockedItemTimeout s = .next u ∧ { b with stop := true } ∈ (u.disps.getD s.who {}).blocked ∧ u.mem = s.mem)
    ∧ (∀ d pre x post b, s.items d = pre ++ x :: post → s.placeable d x = false → b ∈ (s.disps.getD d {}).blocked →
        b.item = itemId x → (b.stop = true ∨ b.since + 10000 ≤ s.ticks) → ∀ y, s.nextItem d = some y → y ∈ pre)
    ∧ (∀ l u, s.launches.find s.who = some l → l.rooms = false → (s.nextItem l.disp).map (·.1) = some s.who → s.claimRooms s.who = some u →
        exec .stageRoomClaim s = .next u ∧ (u.launch s.who).rooms = true ∧ u.mem = s.mem)
    ∧ (∀ t, s.teams.find s.who = some t → s.mayRetire s.who t = true →
        ∃ u, exec .teamRetire s = .next u ∧ u.teams.find s.who = none ∧ ∀ k, k ≠ s.who → u.teams.find k = s.teams.find k)
    ∧ ∀ l, s.launches.find s.who = some l → l.stages ≠ [] → l.stages.all (·.done) = true → l.events = [] → l.doneAddr = 0 →
        ∃ u, exec .launchComplete s = .next u ∧ u.launches.find s.who = none ∧ u.mem = s.mem
          ∧ (∃ xs, u.out = (if l.intr then s.out ++ [.msi l.fn l.vector] else s.out) ++ xs)
          ∧ ∀ q, s.queue? l.queue = some q → (∀ p, q.held = some p → p.idx ∉ q.running) → ∃ r, u.queue? l.queue = some r ∧ r.running = q.running.filter (· != l.pkt)

/-- Contexts (R98 to R102, R107, R110 to R114, R55). The model's choices (DESIGN CHOICE or DEDUCED): a pod command carried out once, that changes
nothing when it comes again, and which contexts it awaits (log 54); the bytes of a chunk, the length of a payload and when a chunk is ready
(log 14); the image an argument names (log 49); the claim on the reserve that is renewed as a freeze begins (log 50). -/
def Obligations.ContextsComplete : Prop :=
  ∀ (s : State),
    let c := s.who
    let freezing (i : Instr) (c : Nat) : Prop := ∃ u m, exec i s = .next u ∧ (u.ctx c).phase = .freezing ∧ (u.ctx c).image = some m
      ∧ m.chunks = [] ∧ m.place = 0 ∧ (∀ k t, s.teams.find k = some t → (s.launchOf t).ctx = c → (u.tm k).halting = true) ∧ u.mem = s.mem
    let runs (i : Instr) (c : Nat) : Prop := ∃ u, exec i s = .next u ∧ (u.ctx c).phase = .running ∧ (u.ctx c).image = none ∧ (u.ctx c).saved = []
    (∀ c s1, let f := s.who
      mayName f c = true → (s.ctx c).phase = .running → (s.ctx c).ends = false → (s.ctx c).cmd ≠ some f → (s.fn f).ctxarg = 0 → s.claimReserve c = some s1 →
      (s.ctxcmd? f 2 = some c → freezing .ctxFreezeNow c)
      ∧ (s.ctxcmd? f 1 = some c → s.ctxTeams c ≠ [] → ∃ u, exec .ctxPreempt s = .next u ∧ (u.ctx c).phase = .draining
          ∧ (u.ctx c).elapsed = 0 ∧ (u.ctx c).deadline = s.draindl * 100000 ∧ u.mem = s.mem ∧ u.teams = s.teams))
    ∧ ((s.ctx c).phase = .draining → (s.ctx c).deadline ≤ (s.ctx c).elapsed → (s.ctxTeams c ≠ [] ∨ (s.ctx c).saved ≠ []) →
        (∀ m, (s.ctx c).image = some m → m.place = 0) → (s.claimReserve c).isSome = true → freezing .drainDeadline c)
    ∧ (∀ t, s.teams.find s.who = some t → s.mayCapture s.who t = true → s.captureBad s.who t = false →
        ∃ u v, exec .teamCapture s = .next u ∧ u.teams.find s.who = none ∧ (u.ctx (s.launchOf t).ctx).saved =
          (s.ctx (s.launchOf t).ctx).saved ++ [v] ∧ v.key = s.who ∧ v.team = t.saved ∧ u.mem = s.mem)
    ∧ (∀ m s1, (s.ctx c).ends = false → (s.ctx c).image = some m → (s.ctx c).phase = .freezing →
        s.chunkReady c m = true → let n := s.fitted c m
        let bs := imageChunk s.device c (s.ctxWorld c) n n.chunks.length
        (n.place = 0 ∨ n.length + bs.length ≤ n.size) → s.imageWrite c n n.length bs = (.ok (), s1) → s1.ctxs = s.ctxs →
        ∃ u m', exec .imageChunkWrite s = .next u ∧ (u.ctx c).image = some m' ∧ m'.chunks = m.chunks ++ [bs]
          ∧ (u.ctx c).phase = if n.len ≤ 65536 * (m.chunks.length + 1) then .frozen else .freezing)
    ∧ (∀ c, s.ctxcmd? s.who 3 = some c → mayName s.who c = true → (s.ctx c).resuming = false → (s.ctx c).cmd = none →
        (s.ctx c).ends = false → s.podHolds c = false →
        ((s.ctx c).phase = .drained → ∃ u, exec .ctxResume s = .next u ∧ (u.ctx c).phase = .running ∧ u.mem = s.mem)
        ∧ ∀ m m' s1, (s.ctx c).phase = .frozen → (s.ctx c).image = some m →
            s.imageOf c (s.fn s.who).ctxarg m = (some (some m'), s1) →
            ∃ u, exec .ctxResume s = .next u ∧ (u.ctx c).resuming = true ∧ (u.ctx c).cmd = some s.who
              ∧ (u.ctx c).image = some { m' with next := 0 } ∧ u.mem = s1.mem)
    ∧ (∀ m b, (s.ctx c).image = some m → (s.ctx c).resuming = true → (s.ctx c).restored = false → m.chunks[m.next]? = some b → b ≠ [] →
        ∃ u, exec (.restoreChunk (some b)) s = .next u ∧
          if m.next + 1 = m.chunks.length then
            (if s.podHolds c then (u.ctx c).phase = .draining ∨ (u.ctx c).phase = .drained
             else (u.ctx c).phase = .running ∧ (u.ctx c).image = none)
          else (u.ctx c).image = some { m with next := m.next + 1 } ∧ (u.ctx c).phase = (s.ctx c).phase)
    ∧ (∀ c m m' s1, s.ctxcmd? s.who 4 = some c → mayName s.who c = true → (s.ctx c).phase = .frozen → (s.ctx c).resuming = false →
        (s.ctx c).cmd = none → (s.ctx c).ends = false → s.podHolds c = false → (s.ctx c).image = some m →
        s.imageOf c (s.fn s.who).ctxarg m = (some (some m'), s1) → runs .ctxDiscardImage c)
    ∧ (∀ r, (s.ctx c).resetDue = some r → runs .contextReset c)
    ∧ ((s.ctx c).restored = false → (s.ctx c).cmd = none → (s.ctx c).pod = false → (s.ctx c).resuming = false → (s.ctx c).ends = false →
        s.podHolds c = false → (s.ctx c).phase = .drained → (s.ctx c).victimOf ≠ [] → (∀ k ∈ (s.ctx c).victimOf, s.launches.find k = none) →
        ∃ u, exec .autoResume s = .next u ∧ (u.ctx c).phase = .running ∧ u.mem = s.mem)
    ∧ (∀ dl space keep, let old : Pod := s.pod.getD { deadline := dl, space, keep }
        let i : Instr := .podCommandReceive dl space keep
        (old.begun = true → exec i s = .next s)
        ∧ (old.begun = false → (∀ c ∈ s.contexts, (s.ctx c).phase = .running → (s.ctx c).ends = false) →
            ∃ u p, exec i s = .next u ∧ u.pod = some p ∧ p.begun = true
            ∧ ∀ c ∈ s.contexts, s.hasWork c = true → kept s.device c old.keep = false →
                ((s.ctx c).phase = .running → c ∈ p.ctxs ∧ ((u.ctx c).phase = .draining ∨ (u.ctx c).phase = .drained))
                ∧ (((s.ctx c).phase = .draining ∨ (s.ctx c).phase = .freezing) →
                    c ∈ p.ctxs ∧ (u.ctx c).phase = (s.ctx c).phase)
                ∧ ((s.ctx c).phase = .frozen → (s.ctx c).resuming = true → c ∈ p.ctxs)))
    ∧ (∀ p ok, s.pod = some p → p.receiver = false → p.reports = [] → s.podOutcome p = some ok →
        ∃ u, exec (.podReport s.device ok) s = .next u ∧ u.pod = none ∧ u.out = s.out ++ [.report ok] ∧ u.mem = s.mem)
    ∧ ∀ p, s.pod = some p → p.receiver = true → (p.deadline + 2000) * 100000 ≤ p.elapsed →
        ∃ u, exec .podResponseDeadline s = .next u ∧ u.pod = none ∧ u.mem = s.mem
          ∧ u.out = s.out ++ [.spdm 0 0x7E 0 (toBytes 2 0x20 ++ toBytes 2 0 ++ toBytes 4 12 ++ toBytes 2 p.members.length
              ++ toBytes 2 (p.reports.filter (·.2)).length ++ toBytes 2 (p.members.length - (p.reports.filter (·.2)).length)
              ++ toBytes 2 0 ++ toBytes 4 (p.elapsed / 100000))]

/-- `PT_SET_ROOT`, `PT_INVALIDATE_*` (R157). That a range at or above 2^57 is no field out of range is the model's choice (log 81). -/
def Obligations.PageTablesComplete : Prop :=
  ∀ (s : State),
    let f := s.who
    let done (u : State) : Prop := ((u.fn f).ptcmd.extractLsb' 60 2).toNat = 0
    let inv (i : Instr) (r : VRange) : Prop := ∃ u, exec i s = .next u ∧ u.mem = s.mem
      ∧ (∀ k, ∀ t ∈ (u.core k).tlb, r.covers t = false) ∧ (∀ k, ∀ t ∈ u.clusterTlb.look [] k, r.covers t = false)
      ∧ (∀ k, ∀ l ∈ (u.core k).l1i, r.meets l.asid l.va 128 = false) ∧ (s.pendingIn r = [] → done u)
    (∀ c, s.ptcmd? f 1 = some c → s.ownsAsid f c.asid = true → c.arg % 4096 = 0 → c.arg < 2 ^ 44 →
      ∃ u, exec .ptSetRoot s = .next u ∧ u.roots.find c.asid = some (BitVec.ofNat 64 c.arg) ∧ done u ∧ u.mem = s.mem)
    ∧ ((∀ x ∈ s.invalidating, x.1 ≠ f) →
        (∀ c, s.ptcmd? f 2 = some c → s.ownsAsid f c.asid = true → inv .ptInvalidateAsid { asid := c.asid, bounds := none })
        ∧ ∀ c, s.ptcmd? f 3 = some c → s.ownsAsid f c.asid = true → c.loglen ≤ 41 → c.arg % 2 ^ (16 + c.loglen) = 0 →
            inv .ptInvalidateRange { asid := c.asid, bounds := some (c.arg, 2 ^ (16 + c.loglen)) })
    ∧ ∀ x, s.invalidating.find? (fun x => x.1 == f) = some x → x.2.2.any s.stillPending = false →
        ∃ u, exec .ptInvalidateComplete s = .next u ∧ done u ∧ (∀ y ∈ u.invalidating, y.1 ≠ f) ∧ u.mem = s.mem

/-- Links (R18, R20, R21, R23, R25 to R27, R29, R33, R34, R40, R44). The model's choices (DESIGN CHOICE or DEDUCED): the idle flit that
acknowledges at once, which flits are numbered, and a message of several flits (log 15); the request at every flit that FEC and CRC do not
pass, counted toward 16, and the replay buffer kept through a training until it is acknowledged (log 70); an answer heard as the outcome of
the accesses to its line (log 56); a packet whose tag fails is not delivered (log 77). -/
def Obligations.LinksComplete : Prop :=
  ∀ (s : State),
    let k := s.who
    let p := s.port k
    let bad (m : FabMsg) : Nat := ((s.arrived k m).map badHalves).getD 0
    let asked (m : FabMsg) : Bool := match m.op with | .answer _ => false | _ => true
    let asks (i : Instr) : Prop := ∃ u n, exec i s = .next u ∧ (u.port k).missing = some (n, 0) ∧ u.mem = s.mem
      ∧ (∃ xs, u.out = xs ++ [.replayRequest k p.expect])
      ∧ n = (match p.missing with | some (m, _) => m | none => 0) + 1
    let again (i : Instr) (seq : Nat) : Prop := ∃ u, exec i s = .next u ∧ u.mem = s.mem
      ∧ u.out = s.out ++ ((p.replay.take replayRoom).filter fun f => seqFrom seq f.1.seq.toNat).map fun f => .flit k f.1
    let trains (i : Instr) : Prop := ∃ u, exec i s = .next u ∧ (u.port k).state = 1 ∧ (u.port k).training.isSome = true ∧ u.mem = s.mem
    let comes (i : Instr) : Prop := ∃ u, exec i s = .next u ∧ (u.port k).state = 2 ∧ (u.port k).width = 4 ∧ (u.port k).training = none
      ∧ (u.port k).replay = p.replay ∧ u.mem = s.mem
      ∧ u.out = s.out ++ (p.replay.take replayRoom).map fun f => .flit k f.1
    (∀ f errs, p.mode = 1 → p.up = true → fecCorrects errs = true → f.whole = true → sequenced f.kind = true →
      (f.seq.toNat = p.expect → s.fabValid = true →
        ∃ u xs g, exec (.flitReceive f errs) s = .next u ∧ (u.port k).expect = (p.expect + 1) % 4096 ∧ (u.port k).missing = none
          ∧ (u.port k).replay = p.replay.dropWhile (fun g => seqFrom g.1.seq.toNat f.ack.toNat) ∧ u.mem = s.mem
          ∧ u.inreqs = s.inreqs ++ (if f.ends then (f.msgs.filter asked).map fun m => { port := k, msg := m, bad := bad m != 0 } else [])
          ∧ (∀ m r, f.ends = true → f.msgs = [m] → m.op = .answer r → u.heard = s.heard.put m.line
              (if (s.arrived k m).isNone then .tagFail else if bad m != 0 then .checkFail else r))
          ∧ u.out = xs ++ [.flit k g] ∧ g.kind = .idle ∧ g.ack = f.seq)
      ∧ (f.seq.toNat ≠ p.expect → seqFrom p.expect f.seq.toNat = true → p.missing = none → asks (.flitReceive f errs)))
    ∧ (∀ f errs, p.mode = 1 → p.up = true → (fecCorrects errs = false ∨ f.whole = false) → asks (.flitReceive f errs))
    ∧ (∀ n t, p.missing = some (n, t) → p.up = true →
        (200 ≤ t → n < 16 → asks .replayRequestRepeat) ∧ (16 ≤ n → p.mode ≠ 0 → p.state ≠ 1 → trains .retrainAfterReplays))
    ∧ (∀ seq, p.mode = 1 → p.up = true → again (.replayRequest seq) seq.toNat)
    ∧ (∀ f fs, p.replay = f :: fs → p.mode = 1 → p.up = true → 400 ≤ p.oldest → again .ackTimeoutResend f.1.seq.toNat)
    ∧ (k < 36 → p.mode ≠ 0 → p.state ≠ 1 → trains (.retrain 1))
    ∧ (p.state = 1 → (p.training ≠ none → comes (.retrainComplete 15)) ∧ (p.training = none → comes (.portTrainingComplete 15)))
    ∧ (∀ t, p.training = some t → 10000000 ≤ t → ∃ u, exec .retrainDeadline s = .next u ∧ (u.port k).state = 0 ∧ (u.port k).training = none)
    ∧ (∀ m, p.mode = 2 → p.up = true → match s.unprotect (channel p m.src.toNat) m with
        | none => exec (.ethernetPacketReceive m true) s = .next s
        | some d => s.fabValid = true → asked m = true → ∃ u, exec (.ethernetPacketReceive m true) s = .next u
            ∧ u.inreqs = s.inreqs ++ [{ port := k, msg := d, bad := badHalves d != 0 }] ∧ u.mem = s.mem)
    ∧ (∀ n ops fs, p.fences = (n, ops) :: fs →
        ((p.switched = true ∨ ops = []) → ∃ u, exec .fenceComplete s = .next u ∧ u.mem = s.mem ∧ (u.port k).fences = fs
          ∧ ∀ r ∈ u.releases, (k, n) ∉ r.ports)
        ∧ (p.switched = false → ops ≠ [] → exec .fenceComplete s = .next s))
    ∧ (∀ ep path used, ∃ u, exec (.flushMarkerReceive ep path used) s = .next u ∧ u.mem = s.mem
        ∧ ∃ g ∈ u.gathers, g.src = k ∧ g.epoch = ep ∧ path ∈ g.have_)
    ∧ (∀ ep, ∃ u, exec (.epochAckReceive ep) s = .next u ∧ u.mem = s.mem ∧ (∀ r ∈ u.releases, (k, ep) ∉ r.dests)
        ∧ ∀ m ∈ (u.conns.look {} k).marks, m.epoch ≠ ep)
    ∧ (let c := s.conns.look {} k
       s.failTimeout ≤ c.age → c.unacked ≠ [] → ∃ u, exec .connectionTimeout s = .next u ∧ (u.conns.look {} k).unacked = [])
    ∧ (∀ m r, s.inreqs.find? (fun r => r.port == k && r.msg == m) = some r →
        let s1 : State := { s with inreqs := s.inreqs.erase r }
        let sound : Prop := (p.world = 1 ∨ p.world = m.world) ∧ m.addr.toNat / 2 ^ 44 = s.device
        let answers (v : State) (d : FabMsg) (x : FabricRes × List Byte × State) : Prop :=
          ∃ u, exec (.fabricRequest m) s = .next u ∧ u = v.answerMsg k d x ∧ u.mem = x.2.2.mem
        (sound → guarded p m.world = false → answers s1 m (s1.serve m r.bad))
        ∧ (sound → guarded p m.world = true → match s1.unprotect m.src.toNat m with
            | some d => ∃ tx rx, let s2 : State := { s1 with pairKeys := s1.pairKeys.put m.src.toNat (tx, rx) }
                m.ctr.toNat < rx ∧ answers s2 d (s2.serve d r.bad)
            | none => answers s1 m (.tagFail, [], s1))
        ∧ (p.world ≠ 1 → p.world ≠ m.world → answers s1 m (.world, [], s1)))
    ∧ (∀ addr len, s.serves k = true → 0 < len → (∀ l ∈ linesOf addr len, s.admits (s.fn k).world l = true) →
        ∃ u, exec (.hostLinkRead (.mem addr) len) s = .next u ∧ u.mem = s.mem
          ∧ u.out = s.out ++ [.hostData (s.read addr len) (s.readable (s.fn k).world addr len).isSome])
    ∧ (∀ off v, s.serves k = true → off % 8 = 0 → s.readReg k off = some v → ∃ u, exec (.hostLinkRead (.io off) 8) s = .next u ∧ u.mem = s.mem
          ∧ u.out = s.out ++ [.hostData (toBytes 8 v) false])
    ∧ (∀ addr b s1, s.serves k = true → isLocal (addr / 128 * 128) = true → s.store (s.fn k).world [(addr, b)] = .ok s1 →
        exec (.hostLinkWrite addr [b] true) s = .next s1)
    ∧ (isLocal k = true → ∃ u, exec .hbmUncorrectableError s = .next u ∧ (u.line k).poison = true ∧ u.mem = s.mem)

/-- Registers and the package (R6 to R9, R11 to R13, R16 to R18, R39, R98, R226, R237, R254). The model's choices (DESIGN CHOICE or DEDUCED): the
draw of the pair keys when VALID is set (log 8); what a command write takes, and a PORTCTL write that trains (log 52); the entry of D3hot
(log 55); the bits that cross a link (log 76). -/
def Obligations.RegistersAndPackage : Prop :=
  ∀ (s : State),
    let same (u : State) : Prop := u.mem = s.mem ∧ u.teams = s.teams
    let lost (u : State) : Prop := u.teams = [] ∧ u.launches = [] ∧ u.ctxs = [] ∧ ∀ a, isLocal a = true → u.byte a = 0
    (∀ v, let ok : Prop := (v.extractLsb' 30 10).toNat ≤ 639
          ∧ (s.fabValid = true → v &&& 0x000FFFFFC00FFFFF = s.fabid &&& 0x000FFFFFC00FFFFF) ∧ (v.getLsbD 63 = false → s.traffic = false)
        (ok → (v.getLsbD 63 = false ∨ s.fabValid = true) → exec (.fabidWrite 1 v) s = .next { s with fabid := v &&& 0x800FFFFFC00FFFFF })
        ∧ (ok → v.getLsbD 63 = true → s.fabValid = false → exec (.fabidWrite 1 v) s = .next
            { s with fabid := v &&& 0x800FFFFFC00FFFFF, pairBase := s.entropy, entropy := s.entropy + 2 ^ 21, pairKeys := [] })
        ∧ (¬ok → exec (.fabidWrite 1 v) s = .next s))
    ∧ (∀ v, ∃ u, exec (.pwrcapWrite 1 v) s = .next u ∧ same u ∧ 1500 ≤ u.pwrcap ∧ u.pwrcap ≤ 4000
        ∧ (1500 ≤ (v.extractLsb' 0 16).toNat → (v.extractLsb' 0 16).toNat ≤ 4000 → u.pwrcap = (v.extractLsb' 0 16).toNat))
    ∧ (∀ v, ∃ u, exec (.draindlWrite 1 v) s = .next u ∧ same u ∧ 1 ≤ u.draindl ∧ u.draindl ≤ 10000
        ∧ (1 ≤ (v.extractLsb' 0 14).toNat → (v.extractLsb' 0 14).toNat ≤ 10000 → u.draindl = (v.extractLsb' 0 14).toNat))
    ∧ (∀ v k, k < 3 → ∃ u w, exec (.asytolWrite 1 false v) s = .next u ∧ exec (.asytolWrite 1 true v) s = .next w ∧ same u ∧ same w
        ∧ u.asytolr.getD k 0 = max 256 (v.extractLsb' (16 * k) 16).toNat ∧ w.asytolc.getD k 0 = max 16 (v.extractLsb' (16 * k) 16).toNat)
    ∧ (∀ n v, ((v.extractLsb' 46 10).toNat < 512 ∨ (v.extractLsb' 46 10).toNat = 1023) → n < s.asyinj.length →
        ∃ u, exec (.asyinjWrite 1 n v) s = .next u ∧ same u ∧ u.asyinj.getD n 0 = v &&& 0xFFFFFFFCFFFFFFFF)
    ∧ (∀ v, s.who < 36 → (v.extractLsb' 0 2).toNat ≠ 3 → ((v.extractLsb' 0 2).toNat = (s.port s.who).mode ∨ (s.port s.who).state = 0) →
        ∃ u, exec (.portctlWrite 1 v) s = .next u ∧ same u ∧ (u.port s.who).world = v.extractLsb' 8 8
          ∧ (u.port s.who).mode = (v.extractLsb' 0 2).toNat
          ∧ ((v.extractLsb' 0 2).toNat ≠ (s.port s.who).mode → (v.extractLsb' 0 2).toNat ≠ 0 → (u.port s.who).state = 1))
    ∧ (∀ w v, s.mayWrite s.who w = true → (∃ u, exec (.fltcfgWrite w v) s = .next u ∧ same u
          ∧ (u.fn s.who).fltcfg = fltcfgNew (s.fn s.who).fltcfg v)
        ∧ ∀ off, off ∈ [0x100, 0x180, 0x188, 0x1C0, 0x1C8, 0x240, 0x250, 0x280, 0x288] →
            ∃ u, exec (.registerWrite w off v) s = .next u ∧ same u ∧ u.fn s.who = (s.fn s.who).write off v)
    ∧ (∀ up d, (s.clocks[s.who]? = some d → exec (.clockThrottleStep up) s =
          .next { s with clocks := s.clocks.set s.who (if up then min 700 (d + 25) else max 350 (d - 25)) }))
    ∧ ((∃ u, exec .coldReset s = .next u ∧ lost u ∧ u.power = .d0 ∧ u.fuseSecret = s.fuseSecret ∧ u.fuseVersion = s.fuseVersion)
      ∧ (∃ u, exec .powerLoss s = .next u ∧ lost u ∧ u.power = .off)
      ∧ (s.powered = true → (∃ u, exec .warmReset s = .next u ∧ lost u ∧ u.power = .d0 ∧ u.fuseSecret = s.fuseSecret
            ∧ ∀ x ∈ s.ports, x.2.lanes ≠ 0 → ∃ y ∈ u.ports, y.1 = x.1 ∧ y.2.lanes = x.2.lanes)
          ∧ (∃ u, exec .thermalTrip s = .next u ∧ lost u ∧ u.power = .off)
          ∧ ∃ u, exec .d3coldEntry s = .next u ∧ lost u ∧ u.power = .d3cold))
    ∧ (∀ f, 1 ≤ f → f ≤ 254 → s.who = f → (∀ c ∈ s.contexts, c / 65536 ≠ f) →
        ∃ u, exec .functionLevelReset s = .next u ∧ same u
          ∧ ∀ n q, s.queue? n = some q → q.fn = f → ∃ r, u.queue? n = some r ∧ r.held = none ∧ r.rdidx = max q.rdidx q.wridx)
    ∧ (s.power = .d0 → s.moving = false → (∀ c ∈ s.contexts, s.ctxTeams c = []) → exec .d3hotEntry s = .next { s with power := .d3hot, d3wait := false })
    ∧ (s.power = .d3hot → exec .d0Return s = .next { s with power := .d0, d3wait := false })
    ∧ (s.who < 512 → (∀ l ∈ s.launches, l.2.grid ≤ l.2.nextEn ∨
          l.2.hdr.enTeams ≤ (s.setCore s.who { s.core s.who with fenced := true }).mostCores) →
        ∃ u, exec .coreFence s = .next u ∧ same u ∧ (u.core s.who).fenced = true
          ∧ ∀ c, c ≠ s.who → (u.core c).fenced = (s.core c).fenced)
    ∧ (∀ c up w n off col v, (s.core c).fenced = true → ∀ i ∈ ([.clockThrottleStep up, .d3coldEntry, .d0Return, .linkRekey, .fabidWrite w v,
          .pwrcapWrite w v, .draindlWrite w v, .asytolWrite w col v, .asyinjWrite w n v, .portctlWrite w v, .fltcfgWrite w v,
          .registerWrite w off v] : List Instr), ∃ u, exec i s = .next u ∧ (u.core c).fenced = true)
    ∧ (let n := (s.linkKeys.look (0, 0) s.who).1 + 1
       exec .linkRekey s = .next (if s.who < 24 ∧ 2 ^ 40 ≤ s.crossed.look 0 s.who then
         { s with linkKeys := s.linkKeys.put s.who (n, n), crossed := s.crossed.del s.who } else s))

/-- Worlds and trust (R28, R35, R36, R46, R48, R49, R51 to R53, R56, R57, R72, R112). The model's choices: the order of the SPDM connection and
its errors (log 16, DESIGN CHOICE); the digest of `WORLD_CREATE` (log 17, PRESUMED) and the requester in it (log 79, DESIGN CHOICE); a second
assignment of a region (log 53, DEDUCED); which of several vendor statuses is answered (log 71, DESIGN CHOICE); when a handover is refused
(log 73, DESIGN CHOICE). -/
def Obligations.TrustComplete : Prop :=
  ∀ (s : State),
    let f := s.who
    let C := s.conn f
    let same (u : State) : Prop := u.mem = s.mem ∧ u.teams = s.teams
    let spdm (i : Instr) (code : BitVec 8) (ready : Prop) (g : Spdm → Spdm) : Prop := ∃ u, exec i s = .next u ∧ same u
      ∧ (ready → u.conn f = g C ∧ ∃ body, u.out = s.out ++ [.spdm f code.toNat 0 body])
      ∧ (¬ready → u.conn f = C ∧ u.out = s.out ++ [.spdm f code.toNat 1 []])
    let answered (i : Instr) (code : Nat) (d : List Byte) (more : State → Prop) : Prop := ∃ u, exec i s = .next u ∧ u.teams = s.teams ∧ more u
      ∧ ∃ out, u.out = out ++ [.spdm f 0x7E 0 (toBytes 2 code ++ toBytes 2 0 ++ toBytes 4 d.length ++ d)]
    let req (code : Nat) (d : List Byte) : List Byte := toBytes 2 code ++ toBytes 2 0 ++ toBytes 4 d.length ++ d
    (∀ w, f < 2 ^ 23 → s.inMgmt (f * 2 ^ 21) = false → (s.regionAt f).ingot = false → (s.regionAt f).state ≠ 2 → s.exists_ w = true →
      ∃ u, exec (.assign w) s = .next u ∧ (u.regionAt f).state = 1 ∧ u.assigns = s.assigns ++ [{ region := f, world := w }] ∧ same u)
    ∧ (∀ a, s.assigns = [a] → a.region = f → (s.regionAt f).gen ≠ 0xFFFFFFFF → f < 2 ^ 23 →
        ∃ u, exec .assignComplete s = .next u ∧ u.assigns = [] ∧ (u.regionAt f).world = a.world ∧ (u.regionAt f).state = 0
          ∧ (u.regionAt f).gen = (s.regionAt f).gen + 1 ∧ (∀ k, inRegion f k = true → u.byte k = 0)
          ∧ ∀ k, inRegion f k = false → u.byte k = s.byte k)
    ∧ (∀ w, 1 ≤ f → f ≤ 254 → (s.fn f).locked = false → ((List.range 256).find? fun w => decide (2 ≤ w) && (s.worlds.find w).isNone) = some w →
        ∃ u, exec .worldCreate s = .next u ∧ u.worlds.find w = some (s.entropy, f) ∧ same u
          ∧ u.meas = s.meas.put 8 (sha384 (s.meas.look (List.replicate 48 0) 8 ++ sha384 (toBytes 1 w ++ toBytes 2 f))))
    ∧ (∀ w, 256 ≤ f → f < 272 → (s.fn f).locked = false → (s.fn f).world.toNat < 2 →
        ((List.range 256).find? fun w => decide (2 ≤ w) && (s.worlds.find w).isNone) = some w →
        ∃ u, exec .worldCreate s = .next u ∧ u.worlds.find w = some (s.entropy, f) ∧ (u.fn f).world = BitVec.ofNat 8 w ∧ same u)
    ∧ (∀ w : World, 1 ≤ f → f ≤ 254 → 2 ≤ w.toNat → (∃ k, s.worlds.find w.toNat = some (k, f)) → s.exists_ w = true → (s.fn f).locked = false →
        ∃ u, exec (.tdispInterfaceLock w) s = .next u ∧ (u.fn f).world = w ∧ (u.fn f).locked = true ∧ (u.fn f).serving = true ∧ same u)
    ∧ (2 ≤ f → f ≤ 255 → s.exists_ (BitVec.ofNat 8 f) = true → (∀ p ∈ s.ports, p.2.world ≠ BitVec.ofNat 8 f) →
        ∃ u, exec .worldDestroy s = .next u ∧ u.worlds.find f = none)
    ∧ ((s.port f).returnWorld = true → s.busyPort f = false →
        ∃ u, exec .portWorldReturn s = .next u ∧ (u.port f).world = 1 ∧ (u.port f).returnWorld = false ∧ same u)
    ∧ (∀ d, 16 ≤ f → f ≤ 31 → d.length = 48 → exec (.hostMeasurementExtend d) s =
        .next { s with meas := s.meas.put f (sha384 (s.meas.look (List.replicate 48 0) f ++ d)) })
    ∧ (spdm .getVersion 0x84 True (fun c => { c with version := true, caps := false, algs := false })
      ∧ spdm .getCapabilities 0xE1 (C.version = true) (fun c => { c with caps := true })
      ∧ spdm (.negotiateAlgorithms true) 0xE3 (C.caps = true) (fun c => { c with algs := true })
      ∧ spdm .getDigests 0x81 (C.algs = true) id ∧ spdm .getCertificate 0x82 (C.algs = true) id ∧ spdm .challenge 0x83 (C.algs = true) id
      ∧ (∀ n, spdm (.getMeasurements n) 0xE0 (C.algs = true ∧ 1 ≤ n ∧ n ≤ 34) id)
      ∧ spdm .keyExchange 0xE4 (C.algs = true ∧ C.session = none) (fun c => { c with session := some false, updates := 0 })
      ∧ spdm (.finish true) 0xE5 (C.session = some false) (fun c => { c with session := some true })
      ∧ spdm .keyUpdate 0xE9 (C.session = some true) (fun c => { c with updates := c.updates + 1 })
      ∧ spdm .heartbeat 0xE8 (C.session = some true) id ∧ spdm .endSession 0xEC (C.session = some true) (fun c => { c with session := none }))
    ∧ (∀ r, (s.fn f).serving = false → ∀ i ∈ ([.vendorDefinedRequest r, .queueKey r, .ingotInstall r, .ingotSeal r, .ingotRelease r,
          .podPreempt r] : List Instr), exec i s = .next s)
    ∧ (C.session = some true → (s.fn f).serving = true →
        (∀ d code, code < 65536 → d.length < 2 ^ 32 → code ∉ vendorCodes → ∃ u, exec (.vendorDefinedRequest (req code d)) s = .next u ∧ same u
          ∧ u.out = s.out ++ [.spdm f 0x7E 1 (toBytes 2 code ++ toBytes 2 1 ++ toBytes 4 0)])
        ∧ (∀ d q, d.length = 0x28 → zeroAt d 2 6 = true → s.queue? (fieldAt d 0 2) = some q → fieldAt d 0 2 ≤ 4095 → q.destroy = false →
            (s.fn f).world = q.world → q.state ≠ 2 → answered (.queueKey (req 0x0010 d)) 0x0010 (toBytes 8 0) fun u =>
              ∃ r, u.queue? (fieldAt d 0 2) = some r ∧ r.key = some ((d.drop 8).take 32) ∧ r.expseq = 0)
        ∧ (∀ d, d.length = 0x220 → policyForm d = true → s.slots.find (fieldAt d 0 1) = none → s.exists_ (BitVec.ofNat 8 (fieldAt d 1 1)) = true →
            match s.unwrap d with
            | some key => answered (.ingotInstall (req 0x0001 d)) 0x0001 [] fun u =>
                ∃ x, u.slots.find (fieldAt d 0 1) = some x ∧ x.key = key ∧ x.world = BitVec.ofNat 8 (fieldAt d 1 1) ∧ x.digest = sha384 d ∧ u.mem = s.mem
            | none => ∃ u, exec (.ingotInstall (req 0x0001 d)) s = .next u ∧ same u ∧ u.slots = s.slots
                ∧ u.out = s.out ++ [.spdm f 0x7E 5 (toBytes 2 0x0001 ++ toBytes 2 5 ++ toBytes 4 0)])
        ∧ (∀ d x, d.length = 0x20 → fieldAt d 0 1 ≤ 63 → zeroAt d 1 7 = true → zeroAt d 0x14 4 = true → zeroAt d 0x1C 4 = true →
            fieldAt d 8 8 % 128 = 0 → 1 ≤ fieldAt d 0x10 4 → fieldAt d 0x10 4 ≤ 2 ^ 24 → fieldAt d 8 8 < 2 ^ 44 → s.slotFor (fieldAt d 0 1) = .ok x →
            let ok := s.canBind x (fieldAt d 8 8 / 128) (fieldAt d 0x10 4) (fieldAt d 0x18 4)
            (ok = true → answered (.ingotSeal (req 0x0002 d)) 0x0002 [] fun u =>
              (∀ j, j < fieldAt d 0x10 4 → (u.line (fieldAt d 8 8 + 128 * j)).ingot = true) ∧ u.mem = s.mem)
            ∧ (ok = false → ∃ u, exec (.ingotSeal (req 0x0002 d)) s = .next u ∧ same u ∧ u.slots = s.slots ∧ u.lines = s.lines
                ∧ u.out = s.out ++ [.spdm f 0x7E 5 (toBytes 2 0x0002 ++ toBytes 2 5 ++ toBytes 4 0)]))
        ∧ (∀ d x, d.length = 8 → fieldAt d 0 1 ≤ 63 → zeroAt d 1 7 = true → s.slotFor (fieldAt d 0 1) = .ok x → s.slotBusy (fieldAt d 0 1) = false →
            answered (.ingotRelease (req 0x0003 d)) 0x0003 [] fun u => u.slots.find (fieldAt d 0 1) = none)
        ∧ ∀ d, let n := fieldAt d 4 2
            f = 0 → d.length = 8 + 8 * n → n ≤ 64 → fieldAt d 0 2 ≤ 1500 → fieldAt d 2 1 ≤ 1 → zeroAt d 3 1 = true → zeroAt d 6 2 = true →
            (keepList d n).all (·.2.2) = true → s.pod = none → ∃ u p, exec (.podPreempt (req 0x0020 d)) s = .next u ∧ u.pod = some p
              ∧ p.deadline = fieldAt d 0 2 ∧ p.receiver = true ∧ p.begun = false ∧ s.device ∈ p.members ∧ same u)
    ∧ (∀ m peer boot, (s.ctx f).image = some m → (s.ctx f).phase = .frozen → (s.ctx f).resuming = false → (s.ctx f).cmd = none →
        (s.ctx f).ends = false → peer = s.bootMeas →
        ∃ u, exec (.prepareSend peer boot) s = .next u ∧ (u.ctx f).phase = .inDoubt ∧ same u
          ∧ u.out = s.out ++ [.prepare f m.serial m.chunks.length (drawn 32 m.key) (lastTag m.chunks) (s.ctxWorld f) (s.policies (s.ctx f).saved)])
    ∧ ((s.ctx f).phase = .inDoubt →
        (∃ u, exec (.commit true) s = .next u ∧ (u.ctx f).phase = .migrated ∧ (u.ctx f).image = none ∧ same u
          ∧ ∀ n q, s.queue? n = some q → q.ctx = f → ∃ r, u.queue? n = some r ∧ r.key = none)
        ∧ (∃ u, exec (.aborted true) s = .next u ∧ (u.ctx f).phase = .frozen ∧ same u)
        ∧ ∀ b, (s.ctx f).destBoot ≠ some b → ∃ u, exec (.destinationRebootDetected b) s = .next u ∧ (u.ctx f).phase = .frozen ∧ same u)
    ∧ ∀ peer x, s.inbound.find? (fun x => x.ctx == f) = some x →
        ((peer ≠ s.bootMeas ∨ ({ s with inbound := s.inbound.erase x } : State).refuses x = true) →
          ∃ u, exec (.prepare peer) s = .next u ∧ u.inbound = s.inbound.erase x ∧ same u
            ∧ ∃ sig, u.out = s.out ++ [.handover f false x.serial (lastTag x.chunks) s.device sig])
        ∧ (peer = s.bootMeas → ({ s with inbound := s.inbound.erase x } : State).refuses x = false →
          ∃ u, exec (.prepare peer) s = .next u ∧ (u.ctx f).resuming = true ∧ (∃ m, (u.ctx f).image = some m ∧ m.serial = x.serial ∧ m.chunks = x.chunks)
            ∧ same u)

/-- Debugger commands (R37, R256 to R260), over every space. The model's choices (DESIGN CHOICE): RESULT 4 of a halt request for a squad with no
live thread (log 74); the layout of the named state, what of it may be written, and that a command has acted though its RESULT cannot be
written yet, or at all (log 22). -/
def Obligations.DebuggerComplete : Prop :=
  ∀ (s s1 : State) (c : Nat) (d : List Byte),
    let f := s.who
    let x := s.fn f
    let r := reqOf d
    let w := s.dbgWorld c
    (∀ i oper due, (i, oper) ∈ [(Instr.dbgAttach, 1), (.dbgDetach, 2), (.dbgStop, 3), (.dbgResume, 4), (.dbgStep, 5), (.dbgRead, 6), (.dbgWrite, 7),
      (.dbgWatch, 8), (.dbgHaltRequest, 9), (.dbgStopMask, 10)] → s.dbgcmd? f oper = some c → x.dbgDue = some due →
      exec i s = .next (s.dbgEnd f c due))
    ∧ (x.dbgDue = none → mayName f c = true → (w = 1 → (s.ctxWorld c).toNat < 2) → x.dbgarg.toNat % 64 = 0 → reqForm d = true → s1.who = f →
    s.agentRead (dbgAgent c) w (c % 65536) x.dbgarg.toNat 64 = (.ok d, s1) → s1.sessions = s.sessions → s1.fns = s.fns →
    let run (oper : Nat) (i : Instr) (u : State) (res : Nat) : Prop := s.dbgcmd? f oper = some c →
      (if oper = 1 then s.session c = none else ∃ y, s.session c = some y ∧ y.fn = f) →
      exec i s = .next (u.dbgEnd f c { world := w, va := x.dbgarg.toNat + 0x30, result := res })
    let write (bs : List Byte) (v : State) (u : State) : Prop := v.agentWrite (dbgAgent c) w (c % 65536) r.buf bs = (.ok (), u)
    (run 1 .dbgAttach (({ s1 with sessions := s1.sessions.put c { fn := f, world := x.world, stopMask := r.mask } } : State).extendFree 8) 0)
    ∧ (∃ u : State, run 2 .dbgDetach u 0 ∧ u.sessions.find c = none ∧ (u.ctx c).watches = List.replicate 4 {}
        ∧ ∀ v ∈ (u.ctx c).saved, v.team.held = false)
    ∧ ((∀ e ∈ s1.ctxTeams c, e.2.halted = true) →
        ∃ u : State, run 3 .dbgStop u 0 ∧ u.mem = s1.mem
          ∧ ∀ k t, s1.teams.find k = some t → (s1.launchOf t).ctx = c → t.phase ≠ .killed → (u.tm k).held = true)
    ∧ (∀ k t, s1.dbgTeam c r = some (k, t) → r.sq < t.squads.length → r.ln < 32 →
        let reaches : Bool := worldAllowed w { world := (s1.launchOf t).world }
        (reaches = false → run 4 .dbgResume s1 2 ∧ run 9 .dbgHaltRequest s1 2)
        ∧ (reaches = true →
          (t.live r.sq ≠ [] → run 9 .dbgHaltRequest (s1.raise k r.sq 0 [{ ln := r.ln, c := .haltRequest }]) 0)
          ∧ (t.live r.sq = [] → run 9 .dbgHaltRequest s1 4)
          ∧ (t.halted = false → run 4 .dbgResume s1 1 ∧ run 5 .dbgStep s1 1)
          ∧ (t.halted = true →
            run 4 .dbgResume (s1.dbgResume k) 0
            ∧ (t.handling = none → ∃ u : State, run 5 .dbgStep u 0 ∧ (u.tm k).stepping = some r.sq ∧ (u.tm k).held = true
                ∧ ((u.tm k).squad r.sq).run = .halting 1 ∧ u.mem = s1.mem)
            ∧ (r.lenOk = true → 1 ≤ r.space → r.space ≤ 8 ∨ r.space = 11 → ∀ bs, s1.dbgState k t r = .ok bs → r.len ≤ bs.length →
                (∀ u, write (bs.take r.len) s1 u → run 6 .dbgRead u 0)
                ∧ (r.space ≤ 8 → ∀ new v y, s1.agentRead (dbgAgent c) w (c % 65536) r.buf r.len 1 = (.ok new, v) →
                    v.dbgPut k t r bs new = .ok y → run 7 .dbgWrite y 0)
                ∧ (r.space = 11 → run 7 .dbgWrite s1 5)))))
    ∧ (r.lenOk = true → (r.space = 9 ∨ r.space = 10) → ∀ bs v, v.dbgWorld c = w →
        (s1.agentRead (dbgAgent c) w (c % 65536) r.addr r.len 1 = (.ok bs, v) → ∀ u, write bs v u → run 6 .dbgRead u 0)
        ∧ (s1.agentRead (dbgAgent c) w (c % 65536) r.buf r.len 1 = (.ok bs, v) →
            ∀ u, v.agentWrite (dbgAgent c) w (c % 65536) r.addr bs = (.ok (), u) →
              run 7 .dbgWrite (if r.space = 10 then u.dbgPublish c r else u) 0))
    ∧ (r.widx ≤ 3 → r.wkind ≤ 7 → (r.wkind = 0 ∨ r.lenOk = true) →
        run 8 .dbgWatch (s1.onCtx c fun y =>
          { y with watches := y.watches.set r.widx { lo := r.addr, len := r.len, kind := BitVec.ofNat 3 r.wkind } }) 0)
    ∧ ∀ y, s.session c = some y → run 10 .dbgStopMask { s1 with sessions := s1.sessions.put c { y with stopMask := r.mask } } 0)

/-- The memory invariant: every step keeps it (log 5). -/
def Obligations.StepKeepsMemoryCanonical : Prop :=
  ∀ (s t : State), Memory.wf s.mem = true → step s = .next t → Memory.wf t.mem = true

/-- The state after reset (R8, R11, R16, R46, R98, R226, R237; log 5, log 17). -/
def Obligations.ResetState : Prop :=
  let s := State.reset
  Memory.wf s.mem = true ∧ s.mem = [] ∧ s.teams = [] ∧ s.launches = [] ∧ s.queues = [] ∧ s.ctxs = [] ∧ s.flights = [] ∧ s.copies = []
  ∧ s.sessions = [] ∧ s.slots = [] ∧ s.inreqs = [] ∧ s.ports = [] ∧ (∀ c, s.cycle c = 0) ∧ s.power = .d0 ∧ s.fabValid = false
  ∧ s.pwrcap = 4000 ∧ s.draindl = 1200 ∧ s.asytolr = [256, 256, 256] ∧ s.asytolc = [16, 16, 16] ∧ (∀ v ∈ s.asyinj, v = 0)
  ∧ s.podpool = 0 ∧ s.podsize = 0 ∧ s.meas = []
end

