-- ==== Sys2Proof/Laws/Bits.lean ====
section
/-!
SUPPORT. Fields of encoded words.
-/
set_option linter.unusedSimpArgs false

namespace Sys2Proof

/-- A well-formed instruction has no reserved field set. -/
theorem wellFormed_rsv {i : Instr} {h : Hd} (hw : i.wellFormed = true) (hh : i.hd = some h) : h.rsv = false := by
  simp only [Instr.wellFormed, Instr.defects, Bool.and_eq_true, List.isEmpty_iff, List.append_eq_nil_iff] at hw
  have h1 := hw.1.1
  split at h1
  · rename_i h2
    simp only [Instr.headOk, hh, Bool.and_eq_true] at h2
    simpa using h2.1.1.1
  · cases h1

theorem wellFormed_hd {i : Instr} {h : Hd} (hw : i.wellFormed = true) (hh : i.hd = some h) :
    ∃ pg pn la, h = ⟨pg, pn, la, false⟩ := by
  obtain ⟨pg, pn, la, rsv⟩ := h
  obtain rfl : rsv = false := wellFormed_rsv hw hh
  exact ⟨pg, pn, la, rfl⟩

@[simp] theorem satBit (b : Bool) : ((if b = true then 1#6 else 0#6) == 1#6) = b := by cases b <;> rfl
@[simp] theorem immHigh (v : Word) : BitVec.setWidth 8 (v >>> 30) >>> 2 = 0#8 := by
  apply BitVec.eq_of_toNat_eq; simp [Nat.shiftRight_eq_div_pow]; omega
theorem immOf_eq {r : Raw} (v : Word) (hb : r.b = BitVec.setWidth 8 (v >>> 30)) (hx : r.x = BitVec.setWidth 30 v) : immOf r = v := by
  unfold immOf; rw [hb, hx]
  ext i hi
  simp only [BitVec.getElem_append, BitVec.getElem_setWidth, BitVec.getLsbD_setWidth, BitVec.getLsbD_ushiftRight]
  split
  · rw [BitVec.getLsbD_eq_getElem hi]
  · rename_i h
    have : i - 30 < 8 := by omega
    simp only [this, decide_true, Bool.true_and]
    rw [show 30 + (i - 30) = i by omega, BitVec.getLsbD_eq_getElem hi]
@[simp] theorem immOf_mk (par : Nat) (sub : BitVec 6) (d : BitVec 8) (pn : Bool) (pg : BitVec 3) (la : BitVec 4) (op : BitVec 8)
    (m : BitVec 6) (c a : BitVec 8) (y : BitVec 30) (low : Bool) (v : Word) :
    immOf ⟨par, sub, d, pn, pg, la, op, m, c, BitVec.setWidth 8 (v >>> 30), a, BitVec.setWidth 30 v, y, low⟩ = v := immOf_eq v rfl rfl
@[simp] theorem cmp_back (c : Cmp) : cmpOf (cmpSub c) = some c := by cases c <;> rfl
@[simp] theorem fCmp_back (c : FCmp) : fCmpOf (fCmpSub c) = some c := by cases c <;> rfl
@[simp] theorem predOp_back (c : PredOp) : predOpOf (predOpSub c) = some c := by cases c <;> rfl
@[simp] theorem voteOp_back (c : VoteOp) : voteOpOf (voteOpSub c) = some c := by cases c <;> rfl
@[simp] theorem shflMode_back (c : ShflMode) : shflModeOf (shflModeSub c) = some c := by cases c <;> rfl
@[simp] theorem matchOp_back (c : MatchOp) : matchOpOf (matchOpSub c) = some c := by cases c <;> rfl
@[simp] theorem redux_back (o : RedOp) (m : ScanMode) : reduxOf (reduxSub o m) = some (o, m) := by cases o <;> cases m <;> rfl
@[simp] theorem atomOp_back (c : AtomOp) : atomOpOf (atomOpSub c) = some c := by cases c <;> rfl
@[simp] theorem dot4Fmt_back (c : Dot4Fmt) : dot4FmtOf (dot4FmtSub c) = some c := by cases c <;> rfl
@[simp] theorem low3 (d : BitVec 3) : BitVec.setWidth 8 d >>> 3 = 0#8 := by revert d; decide
@[simp] theorem low4 (d : BitVec 4) : BitVec.setWidth 8 d >>> 4 = 0#8 := by revert d; decide
@[simp] theorem low6 (d : BitVec 6) : BitVec.setWidth 8 d >>> 6 = 0#8 := by revert d; decide
@[simp] theorem low56 (d : BitVec 5) : BitVec.setWidth 6 d >>> 5 = 0#6 := by revert d; decide

theorem wellFormed_enc {i : Instr} (hw : i.wellFormed = true) : i.encodable = true := by
  simp only [Instr.wellFormed, Bool.and_eq_true] at hw; exact hw.2

/-- Joined fields as numbers. -/
theorem toNat_joined {w v : Nat} (x : BitVec w) (y : BitVec v) : (x ++ y).toNat = x.toNat * 2 ^ v + y.toNat := by
  rw [BitVec.toNat_append, ← Nat.shiftLeft_add_eq_or_of_lt y.isLt, Nat.shiftLeft_eq]
theorem getElem_nat {w : Nat} (x : BitVec w) (i : Nat) (h : i < w) : x[i] = decide (x.toNat / 2 ^ i % 2 = 1) := by
  rw [BitVec.getElem_eq_testBit_toNat, Nat.testBit_eq_decide_div_mod_eq]
@[simp] theorem field_low {w v : Nat} (x : BitVec w) (y : BitVec v) : BitVec.setWidth v (x ++ y) = y := by
  apply BitVec.eq_of_toNat_eq
  rw [BitVec.toNat_setWidth, toNat_joined, Nat.mul_comm, Nat.mul_add_mod, Nat.mod_eq_of_lt y.isLt]
@[simp] theorem rm_of (rm ft : BitVec 3) : BitVec.setWidth 3 ((rm ++ ft) >>> 3) = rm := by
  apply BitVec.eq_of_toNat_eq
  simp only [BitVec.toNat_setWidth, BitVec.toNat_ushiftRight, toNat_joined, BitVec.toNat_ofBool, BitVec.toNat_ofNat, Nat.shiftRight_eq_div_pow]
  omega
@[simp] theorem cv_rest (sat : Bool) (rm : BitVec 3) (sty dty : BitVec 6) : BitVec.setWidth 30 (BitVec.ofBool sat ++ rm ++ sty ++ dty) >>> 16 = 0#30 := by
  have hs : sat.toNat ≤ 1 := Bool.toNat_le sat
  apply BitVec.eq_of_toNat_eq
  simp only [BitVec.toNat_setWidth, BitVec.toNat_ushiftRight, toNat_joined, BitVec.toNat_ofBool, BitVec.toNat_ofNat, Nat.shiftRight_eq_div_pow]
  omega
@[simp] theorem cv_dty (sat : Bool) (rm : BitVec 3) (sty dty : BitVec 6) : BitVec.setWidth 6 (BitVec.ofBool sat ++ rm ++ sty ++ dty) = dty := by
  have hs : sat.toNat ≤ 1 := Bool.toNat_le sat
  apply BitVec.eq_of_toNat_eq
  simp only [BitVec.toNat_setWidth, BitVec.toNat_ushiftRight, toNat_joined, BitVec.toNat_ofBool, BitVec.toNat_ofNat, Nat.shiftRight_eq_div_pow]
  omega
@[simp] theorem cv_sty (sat : Bool) (rm : BitVec 3) (sty dty : BitVec 6) : BitVec.setWidth 6 (BitVec.setWidth 30 (BitVec.ofBool sat ++ rm ++ sty ++ dty) >>> 6) = sty := by
  have hs : sat.toNat ≤ 1 := Bool.toNat_le sat
  apply BitVec.eq_of_toNat_eq
  simp only [BitVec.toNat_setWidth, BitVec.toNat_ushiftRight, toNat_joined, BitVec.toNat_ofBool, BitVec.toNat_ofNat, Nat.shiftRight_eq_div_pow]
  omega
@[simp] theorem cv_rm (sat : Bool) (rm : BitVec 3) (sty dty : BitVec 6) : BitVec.setWidth 3 (BitVec.setWidth 30 (BitVec.ofBool sat ++ rm ++ sty ++ dty) >>> 12) = rm := by
  have hs : sat.toNat ≤ 1 := Bool.toNat_le sat
  apply BitVec.eq_of_toNat_eq
  simp only [BitVec.toNat_setWidth, BitVec.toNat_ushiftRight, toNat_joined, BitVec.toNat_ofBool, BitVec.toNat_ofNat, Nat.shiftRight_eq_div_pow]
  omega
@[simp] theorem cv_sat (sat : Bool) (rm : BitVec 3) (sty dty : BitVec 6) : (BitVec.ofBool sat ++ rm ++ sty ++ dty)[15] = sat := by
  rw [getElem_nat]
  simp only [toNat_joined, BitVec.toNat_ofBool]
  cases sat <;> simp <;> omega
@[simp] theorem mem_ord (scp ord : BitVec 3) (imm : BitVec 24) : BitVec.setWidth 3 ((scp ++ ord ++ imm) >>> 24) = ord := by
  apply BitVec.eq_of_toNat_eq
  simp only [BitVec.toNat_setWidth, BitVec.toNat_ushiftRight, toNat_joined, BitVec.toNat_ofBool, BitVec.toNat_ofNat, Nat.shiftRight_eq_div_pow]
  omega
@[simp] theorem mem_scp (scp ord : BitVec 3) (imm : BitVec 24) : BitVec.setWidth 3 ((scp ++ ord ++ imm) >>> 27) = scp := by
  apply BitVec.eq_of_toNat_eq
  simp only [BitVec.toNat_setWidth, BitVec.toNat_ushiftRight, toNat_joined, BitVec.toNat_ofBool, BitVec.toNat_ofNat, Nat.shiftRight_eq_div_pow]
  omega
@[simp] theorem cas_rest (y : BitVec 8) : BitVec.setWidth 30 y >>> 8 = 0#30 := by
  apply BitVec.eq_of_toNat_eq
  simp only [BitVec.toNat_setWidth, BitVec.toNat_ushiftRight, toNat_joined, BitVec.toNat_ofBool, BitVec.toNat_ofNat, Nat.shiftRight_eq_div_pow]
  omega
@[simp] theorem plop_rest (a b : Bool) : BitVec.setWidth 6 (BitVec.ofBool b ++ BitVec.ofBool a) >>> 2 = 0#6 := by
  have ha : a.toNat ≤ 1 := Bool.toNat_le a
  have hb : b.toNat ≤ 1 := Bool.toNat_le b
  apply BitVec.eq_of_toNat_eq
  simp only [BitVec.toNat_setWidth, BitVec.toNat_ushiftRight, toNat_joined, BitVec.toNat_ofBool, BitVec.toNat_ofNat, Nat.shiftRight_eq_div_pow]
  omega
@[simp] theorem plop_a (a b : Bool) : (BitVec.ofBool b ++ BitVec.ofBool a)[0] = a := by cases a <;> cases b <;> rfl
@[simp] theorem plop_b (a b : Bool) : (BitVec.ofBool b ++ BitVec.ofBool a)[1] = b := by cases a <;> cases b <;> rfl
@[simp] theorem vote_rest (a : Bool) : BitVec.setWidth 6 (BitVec.ofBool a) >>> 1 = 0#6 := by cases a <;> rfl
@[simp] theorem dot2_bf (b : Bool) : ((if b = true then 9#6 else 8#6) == 9#6) = b := by cases b <;> rfl
@[simp] theorem brec_eta (ad : MemAddr) : (⟨ad.brec, ad.idx, ad.imm⟩ : MemAddr) = ad := rfl
@[simp] theorem copy_len (l : BitVec 8) (s : BitVec 24) : BitVec.setWidth 30 (BitVec.setWidth 2 (l >>> 6) ++ s) >>> 26 = 0#30 := by
  apply BitVec.eq_of_toNat_eq
  simp only [BitVec.toNat_setWidth, BitVec.toNat_ushiftRight, toNat_joined, BitVec.toNat_ofBool, BitVec.toNat_ofNat, Nat.shiftRight_eq_div_pow]
  omega
@[simp] theorem bar_arr (o a : Bool) (n : BitVec 4) : (BitVec.ofBool o ++ BitVec.ofBool a ++ n)[4] = a := by
  rw [getElem_nat]
  simp only [toNat_joined, BitVec.toNat_ofBool]
  cases o <;> cases a <;> simp <;> omega
@[simp] theorem copyrem_mid (o : Bool) (s : BitVec 3) : BitVec.setWidth 2 ((BitVec.ofBool o ++ 0#2 ++ s) >>> 3) = 0#2 := by
  have ho : o.toNat ≤ 1 := Bool.toNat_le o
  apply BitVec.eq_of_toNat_eq
  simp only [BitVec.toNat_setWidth, BitVec.toNat_ushiftRight, toNat_joined, BitVec.toNat_ofBool, BitVec.toNat_ofNat, Nat.shiftRight_eq_div_pow]
  omega
@[simp] theorem copyrem_rec (c : BitVec 4) (l : BitVec 2) (s : BitVec 24) : BitVec.setWidth 4 ((c ++ l ++ s) >>> 26) = c := by
  apply BitVec.eq_of_toNat_eq
  simp only [BitVec.toNat_setWidth, BitVec.toNat_ushiftRight, toNat_joined, BitVec.toNat_ofBool, BitVec.toNat_ofNat, Nat.shiftRight_eq_div_pow]
  omega
@[simp] theorem tcvt_seg (g : BitVec 2) (f : BitVec 5) : BitVec.setWidth 2 (BitVec.setWidth 8 (g ++ f) >>> 5) = g := by
  apply BitVec.eq_of_toNat_eq
  simp only [BitVec.toNat_setWidth, BitVec.toNat_ushiftRight, toNat_joined, BitVec.toNat_ofBool, BitVec.toNat_ofNat, Nat.shiftRight_eq_div_pow]
  omega
@[simp] theorem tcvt_sf (g : BitVec 2) (f : BitVec 5) : BitVec.setWidth 5 (BitVec.setWidth 8 (g ++ f)) = f := by
  apply BitVec.eq_of_toNat_eq
  simp only [BitVec.toNat_setWidth, BitVec.toNat_ushiftRight, toNat_joined, BitVec.toNat_ofBool, BitVec.toNat_ofNat, Nat.shiftRight_eq_div_pow]
  omega
@[simp] theorem mloadw_rest (i : BitVec 24) : BitVec.setWidth 30 i >>> 24 = 0#30 := by
  apply BitVec.eq_of_toNat_eq
  simp only [BitVec.toNat_setWidth, BitVec.toNat_ushiftRight, toNat_joined, BitVec.toNat_ofBool, BitVec.toNat_ofNat, Nat.shiftRight_eq_div_pow]
  omega
@[simp] theorem mloadw_ing (g : Bool) (s : BitVec 6) : (BitVec.ofBool g ++ s)[6] = g := by
  rw [getElem_nat]
  simp only [toNat_joined, BitVec.toNat_ofBool]
  cases g <;> simp <;> omega
@[simp] theorem mma_acc (p : Bool) (c : BitVec 2) (f : BitVec 5) : BitVec.setWidth 2 ((BitVec.ofBool p ++ c ++ f) >>> 5) = c := by
  have hp : p.toNat ≤ 1 := Bool.toNat_le p
  apply BitVec.eq_of_toNat_eq
  simp only [BitVec.toNat_setWidth, BitVec.toNat_ushiftRight, toNat_joined, BitVec.toNat_ofBool, BitVec.toNat_ofNat, Nat.shiftRight_eq_div_pow]
  omega
@[simp] theorem mma_p (p : Bool) (c : BitVec 2) (f : BitVec 5) : (BitVec.ofBool p ++ c ++ f)[7] = p := by
  rw [getElem_nat]
  simp only [toNat_joined, BitVec.toNat_ofBool]
  cases p <;> simp <;> omega
@[simp] theorem code_back (c : BitVec 16) : BitVec.setWidth 8 (c >>> 8) ++ BitVec.setWidth 8 c = c := by
  apply BitVec.eq_of_toNat_eq
  simp only [BitVec.toNat_setWidth, BitVec.toNat_ushiftRight, toNat_joined, BitVec.toNat_ofBool, BitVec.toNat_ofNat, Nat.shiftRight_eq_div_pow]
  omega
theorem rec_high (s d : BitVec 4) : BitVec.setWidth 4 ((s ++ d) >>> 4) = s := by
  apply BitVec.eq_of_toNat_eq
  simp only [BitVec.toNat_setWidth, BitVec.toNat_ushiftRight, toNat_joined, BitVec.toNat_ofBool, BitVec.toNat_ofNat, Nat.shiftRight_eq_div_pow]
  omega
theorem len_high (l : BitVec 8) (d : BitVec 24) : BitVec.setWidth 6 ((BitVec.setWidth 6 l ++ d) >>> 24) = BitVec.setWidth 6 l := by
  apply BitVec.eq_of_toNat_eq
  simp only [BitVec.toNat_setWidth, BitVec.toNat_ushiftRight, toNat_joined, BitVec.toNat_ofBool, BitVec.toNat_ofNat, Nat.shiftRight_eq_div_pow]
  omega
theorem len_back (l : BitVec 8) : BitVec.setWidth 2 (l >>> 6) ++ BitVec.setWidth 6 l = l := by
  apply BitVec.eq_of_toNat_eq
  simp only [BitVec.toNat_setWidth, BitVec.toNat_ushiftRight, toNat_joined, BitVec.toNat_ofBool, BitVec.toNat_ofNat, Nat.shiftRight_eq_div_pow]
  omega
theorem copyArgs_eq {r : Raw} {k : CopyArgs} (hd : r.d = k.vS) (ha : r.a = k.sRec ++ k.dRec) (hb : r.b = k.vK) (hc : r.c = k.vJ)
    (hx : r.x = BitVec.setWidth 6 k.len ++ k.dImm) (hy1 : BitVec.setWidth 24 r.y = k.sImm)
    (hy2 : BitVec.setWidth 2 (r.y >>> 24) = BitVec.setWidth 2 (k.len >>> 6)) (ho : r.sub.getLsbD 5 = k.ord) : copyArgs r = k := by
  obtain ⟨vS, dRec, sRec, vK, vJ, dImm, sImm, len, ord⟩ := k
  simp only [copyArgs, CopyArgs.mk.injEq]
  refine ⟨hd, ?_, ?_, hb, hc, ?_, hy1, ?_, ho⟩
  · rw [ha]; exact field_low ..
  · rw [ha]; exact rec_high ..
  · rw [hx]; exact field_low ..
  · rw [hy2, hx, len_high]; exact len_back _

theorem copy_simm (l : BitVec 2) (s : BitVec 24) : BitVec.setWidth 24 (BitVec.setWidth 30 (l ++ s)) = s := by
  apply BitVec.eq_of_toNat_eq
  simp only [BitVec.toNat_setWidth, BitVec.toNat_ushiftRight, toNat_joined, BitVec.toNat_ofBool, BitVec.toNat_ofNat, Nat.shiftRight_eq_div_pow]
  omega
theorem copy_hi (l : BitVec 2) (s : BitVec 24) : BitVec.setWidth 2 (BitVec.setWidth 30 (l ++ s) >>> 24) = l := by
  apply BitVec.eq_of_toNat_eq
  simp only [BitVec.toNat_setWidth, BitVec.toNat_ushiftRight, toNat_joined, BitVec.toNat_ofBool, BitVec.toNat_ofNat, Nat.shiftRight_eq_div_pow]
  omega
theorem copyrem_hi (c : BitVec 4) (l : BitVec 2) (s : BitVec 24) : BitVec.setWidth 2 ((c ++ l ++ s) >>> 24) = l := by
  apply BitVec.eq_of_toNat_eq
  simp only [BitVec.toNat_setWidth, BitVec.toNat_ushiftRight, toNat_joined, BitVec.toNat_ofBool, BitVec.toNat_ofNat, Nat.shiftRight_eq_div_pow]
  omega
theorem copy_ord (o a : Bool) (n : BitVec 4) : (BitVec.ofBool o ++ BitVec.ofBool a ++ n).getLsbD 5 = o := by
  rw [BitVec.getLsbD_eq_getElem (by decide), getElem_nat]
  simp only [toNat_joined, BitVec.toNat_ofBool]
  cases o <;> cases a <;> simp <;> omega
theorem copyrem_ord (o : Bool) (n : BitVec 3) : (BitVec.ofBool o ++ 0#2 ++ n).getLsbD 5 = o := by
  rw [BitVec.getLsbD_eq_getElem (by decide), getElem_nat]
  simp only [toNat_joined, BitVec.toNat_ofBool]
  cases o <;> simp <;> omega
@[simp] theorem ft_of (rm ft : BitVec 3) : BitVec.setWidth 3 (rm ++ ft) = ft := field_low ..
@[simp] theorem mem_imm (scp ord : BitVec 3) (imm : BitVec 24) : BitVec.setWidth 24 (scp ++ ord ++ imm) = imm := field_low ..
@[simp] theorem bar_nb (o a : Bool) (n : BitVec 4) : BitVec.setWidth 4 (BitVec.ofBool o ++ BitVec.ofBool a ++ n) = n := field_low ..
@[simp] theorem copyrem_scp (o : Bool) (s : BitVec 3) : BitVec.setWidth 3 (BitVec.ofBool o ++ 0#2 ++ s) = s := field_low ..
@[simp] theorem mloadw_slot (g : Bool) (s : BitVec 6) : BitVec.setWidth 6 (BitVec.ofBool g ++ s) = s := field_low ..
@[simp] theorem mma_af (p : Bool) (c : BitVec 2) (f : BitVec 5) : BitVec.setWidth 5 (BitVec.ofBool p ++ c ++ f) = f := field_low ..
@[simp] theorem tcvt_low (g : BitVec 2) (f : BitVec 5) : BitVec.setWidth 5 (g ++ f) = f := field_low ..
theorem copyArgs_bar (k : CopyArgs) (bar : CopyBar) (m : BitVec 6) (op : BitVec 8) (pg : BitVec 3) (pn : Bool) (la : BitVec 4) :
    copyArgs ⟨4, BitVec.ofBool k.ord ++ BitVec.ofBool bar.arr ++ bar.nb, k.vS, pn, pg, la, op, m, k.vJ, k.vK, k.sRec ++ k.dRec,
      BitVec.setWidth 6 k.len ++ k.dImm, BitVec.setWidth 30 (BitVec.setWidth 2 (k.len >>> 6) ++ k.sImm), false⟩ = k := by
  apply copyArgs_eq <;> try rfl
  · exact copy_simm ..
  · exact copy_hi ..
  · exact copy_ord ..
theorem copyArgs_scp (k : CopyArgs) (scp : BitVec 3) (c : BitVec 4) (m : BitVec 6) (op : BitVec 8) (pg : BitVec 3) (pn : Bool) (la : BitVec 4) :
    copyArgs ⟨4, BitVec.ofBool k.ord ++ 0#2 ++ scp, k.vS, pn, pg, la, op, m, k.vJ, k.vK, k.sRec ++ k.dRec,
      BitVec.setWidth 6 k.len ++ k.dImm, c ++ BitVec.setWidth 2 (k.len >>> 6) ++ k.sImm, false⟩ = k := by
  apply copyArgs_eq <;> try rfl
  · exact field_low ..
  · exact copyrem_hi ..
  · exact copyrem_ord ..
@[simp] theorem copyBar_eta (b : CopyBar) : (⟨b.arr, b.nb⟩ : CopyBar) = b := rfl

end Sys2Proof
end

