-- ==== Sys2Proof/Laws/Maps.lean ====
section
/-!
SUPPORT. Laws of the sparse maps: what a look-up sees after a change, and that changes keep the canonical form.
-/
namespace Sys2Proof.Machine

variable {α : Type}

@[simp] theorem Map.find_nil (x : Nat) : Map.find ([] : Map α) x = none := rfl

theorem Map.find_put (m : Map α) (x y : Nat) (v : α) : (m.put x v).find y = if y = x then some v else m.find y := by
  induction m with
  | nil => simp [Map.put, Map.find]
  | cons e m ih =>
    obtain ⟨k, w⟩ := e
    by_cases h : x = k
    · subst h; by_cases hy : y = x <;> simp [Map.put, Map.find, hy]
    · by_cases h2 : x < k
      · by_cases hy : y = x <;> simp [Map.put, Map.find, h, h2, hy]
      · simp only [Map.put, h, h2, if_false, Map.find, ih]
        by_cases hy : y = k
        · have : ¬ y = x := by omega
          simp [hy, Ne.symm h]
        · simp [hy]

@[simp] theorem Map.find_put_self (m : Map α) (x : Nat) (v : α) : (m.put x v).find x = some v := by simp [Map.find_put]

theorem Map.put_put (m : Map α) (x : Nat) (v w : α) : (m.put x v).put x w = m.put x w := by
  induction m with
  | nil => simp [Map.put]
  | cons e m ih =>
    obtain ⟨k, u⟩ := e
    by_cases h1 : x = k
    · simp [Map.put, h1]
    · by_cases h2 : x < k
      · simp [Map.put, h1, h2]
      · simp [Map.put, h1, h2, ih]

theorem Map.find_del (m : Map α) (x y : Nat) : (m.del x).find y = if y = x then none else m.find y := by
  induction m with
  | nil => simp [Map.del, Map.find]
  | cons e m ih =>
    obtain ⟨k, w⟩ := e
    by_cases h : x = k
    · subst h
      simp only [Map.del, if_true, ih, Map.find]
      by_cases hy : y = x <;> simp [hy]
    · simp only [Map.del, h, if_false, Map.find, ih]
      by_cases hy : y = k
      · have : ¬ y = x := by omega
        simp [hy, Ne.symm h]
      · simp [hy]

theorem Map.look_put (d : α) (m : Map α) (x y : Nat) (v : α) : (m.put x v).look d y = if y = x then v else m.look d y := by
  unfold Map.look; rw [Map.find_put]; split <;> rfl

/-- Read after write: the written key gives the value, every other key what it gave. -/
theorem Map.look_store [DecidableEq α] (d : α) (m : Map α) (x y : Nat) (v : α) :
    (m.store d x v).look d y = if y = x then v else m.look d y := by
  unfold Map.store
  by_cases h : v = d
  · simp only [h, if_true, Map.look, Map.find_del]; split <;> rfl
  · simp only [h, if_false]; exact Map.look_put d m x y v

theorem Map.find_update (m : Map α) (x y : Nat) (f : α → α) :
    (m.update x f).find y = if y = x then (m.find x).map f else m.find y := by
  unfold Map.update
  split
  · rename_i v hv; rw [Map.find_put]; simp [hv]
  · rename_i hv; by_cases h : y = x <;> simp [h, hv]

theorem Map.rising_mono {m : Map α} {a b : Nat} (h : m.rising b = true) (hab : a ≤ b) : m.rising a = true := by
  cases m with
  | nil => rfl
  | cons e m => simp only [Map.rising, Bool.and_eq_true, decide_eq_true_eq] at *; exact ⟨by omega, h.2⟩

theorem Map.rising_put {m : Map α} {b : Nat} (h : m.rising b = true) {x : Nat} (hx : b ≤ x) (v : α) :
    (m.put x v).rising b = true := by
  induction m generalizing b with
  | nil => simp [Map.put, Map.rising, hx]
  | cons e m ih =>
    obtain ⟨k, w⟩ := e
    simp only [Map.rising, Bool.and_eq_true, decide_eq_true_eq] at h
    unfold Map.put
    split
    · simp [Map.rising, h.1, h.2]
    · split
      · simp only [Map.rising, Bool.and_eq_true, decide_eq_true_eq]; exact ⟨hx, by omega, h.2⟩
      · simp only [Map.rising, Bool.and_eq_true, decide_eq_true_eq]; exact ⟨h.1, ih h.2 (by omega)⟩

theorem Map.rising_del {m : Map α} {b : Nat} (h : m.rising b = true) (x : Nat) : (m.del x).rising b = true := by
  induction m generalizing b with
  | nil => rfl
  | cons e m ih =>
    obtain ⟨k, w⟩ := e
    simp only [Map.rising, Bool.and_eq_true, decide_eq_true_eq] at h
    unfold Map.del
    split
    · exact Map.rising_mono (ih h.2) (by omega)
    · simp only [Map.rising, Bool.and_eq_true, decide_eq_true_eq]; exact ⟨h.1, ih h.2⟩

theorem Map.rising_filter {m : Map α} {b : Nat} (h : m.rising b = true) (p : Nat × α → Bool) :
    Map.rising b (m.filter p) = true := by
  induction m generalizing b with
  | nil => rfl
  | cons e m ih =>
    obtain ⟨k, w⟩ := e
    simp only [Map.rising, Bool.and_eq_true, decide_eq_true_eq] at h
    simp only [List.filter]
    split
    · simp only [Map.rising, Bool.and_eq_true, decide_eq_true_eq]; exact ⟨h.1, ih h.2⟩
    · exact Map.rising_mono (ih h.2) (by omega)

theorem Map.all_put {m : Map α} {p : Nat × α → Bool} (h : m.all p = true) {x : Nat} {v : α} (hv : p (x, v) = true) :
    (m.put x v).all p = true := by
  induction m with
  | nil => simp [Map.put, hv]
  | cons e m ih =>
    obtain ⟨k, w⟩ := e
    simp only [List.all_cons, Bool.and_eq_true] at h
    unfold Map.put
    split
    · rename_i hx; subst hx; simp only [List.all_cons, Bool.and_eq_true]; exact ⟨hv, h.2⟩
    · split
      · simp only [List.all_cons, Bool.and_eq_true]; exact ⟨hv, h.1, h.2⟩
      · simp only [List.all_cons, Bool.and_eq_true]; exact ⟨h.1, ih h.2⟩

theorem Map.all_del {m : Map α} {p : Nat × α → Bool} (h : m.all p = true) (x : Nat) : (m.del x).all p = true := by
  induction m with
  | nil => rfl
  | cons e m ih =>
    obtain ⟨k, w⟩ := e
    simp only [List.all_cons, Bool.and_eq_true] at h
    unfold Map.del
    split
    · exact ih h.2
    · simp only [List.all_cons, Bool.and_eq_true]; exact ⟨h.1, ih h.2⟩

/-- Writing a key keeps the canonical form. -/
theorem Map.wf_store [DecidableEq α] {d : α} {m : Map α} (h : m.wf d = true) (x : Nat) (v : α) : (m.store d x v).wf d = true := by
  simp only [Map.wf, Bool.and_eq_true] at *
  unfold Map.store
  split
  · exact ⟨Map.rising_del h.1 x, Map.all_del h.2 x⟩
  · rename_i hv; exact ⟨Map.rising_put h.1 (Nat.zero_le x) v, Map.all_put h.2 (by simpa using hv)⟩

/-- Removing entries keeps the canonical form. -/
theorem Map.wf_filter [DecidableEq α] {d : α} {m : Map α} (h : m.wf d = true) (p : Nat × α → Bool) :
    Map.wf d (m.filter p) = true := by
  simp only [Map.wf, Bool.and_eq_true] at *
  exact ⟨Map.rising_filter h.1 p, by rw [List.all_eq_true] at *; exact fun e he => h.2 e ((List.mem_filter.mp he).1)⟩

/-- In canonical form a map is determined by what it gives. -/
theorem Map.find_none_of_rising {m : Map α} {b x : Nat} (h : m.rising b = true) (hx : x < b) : m.find x = none := by
  induction m generalizing b with
  | nil => rfl
  | cons e m ih =>
    obtain ⟨k, w⟩ := e
    simp only [Map.rising, Bool.and_eq_true, decide_eq_true_eq] at h
    have hk : ¬ x = k := by omega
    simp only [Map.find, hk, if_false]
    exact ih h.2 (by omega)

end Sys2Proof.Machine
end

