-- ==== Sys2Proof/Laws/State.lean ====
section
/-!
SUPPORT. What each update of the state, of a team and of a thread leaves and what it gives: one law for each field, true by
definition.
-/
namespace Sys2Proof.Machine

section
variable (s : State) (k : Nat) (t : Team)
@[simp] theorem State.setTm_power : (s.setTm k t).power = s.power := rfl
@[simp] theorem State.setTm_d3wait : (s.setTm k t).d3wait = s.d3wait := rfl
@[simp] theorem State.setTm_stepping : (s.setTm k t).stepping = s.stepping := rfl
@[simp] theorem State.setTm_fuseVersion : (s.setTm k t).fuseVersion = s.fuseVersion := rfl
@[simp] theorem State.setTm_fuseDebug : (s.setTm k t).fuseDebug = s.fuseDebug := rfl
@[simp] theorem State.setTm_fuseSecret : (s.setTm k t).fuseSecret = s.fuseSecret := rfl
@[simp] theorem State.setTm_clocks : (s.setTm k t).clocks = s.clocks := rfl
@[simp] theorem State.setTm_cycles : (s.setTm k t).cycles = s.cycles := rfl
@[simp] theorem State.setTm_ticks : (s.setTm k t).ticks = s.ticks := rfl
@[simp] theorem State.setTm_fabid : (s.setTm k t).fabid = s.fabid := rfl
@[simp] theorem State.setTm_pwrcap : (s.setTm k t).pwrcap = s.pwrcap := rfl
@[simp] theorem State.setTm_draindl : (s.setTm k t).draindl = s.draindl := rfl
@[simp] theorem State.setTm_podpool : (s.setTm k t).podpool = s.podpool := rfl
@[simp] theorem State.setTm_podsize : (s.setTm k t).podsize = s.podsize := rfl
@[simp] theorem State.setTm_asytolr : (s.setTm k t).asytolr = s.asytolr := rfl
@[simp] theorem State.setTm_asytolc : (s.setTm k t).asytolc = s.asytolc := rfl
@[simp] theorem State.setTm_asyinj : (s.setTm k t).asyinj = s.asyinj := rfl
@[simp] theorem State.setTm_mgmtBase : (s.setTm k t).mgmtBase = s.mgmtBase := rfl
@[simp] theorem State.setTm_mgmtSize : (s.setTm k t).mgmtSize = s.mgmtSize := rfl
@[simp] theorem State.setTm_failTimeout : (s.setTm k t).failTimeout = s.failTimeout := rfl
@[simp] theorem State.setTm_ports : (s.setTm k t).ports = s.ports := rfl
@[simp] theorem State.setTm_conns : (s.setTm k t).conns = s.conns := rfl
@[simp] theorem State.setTm_gathers : (s.setTm k t).gathers = s.gathers := rfl
@[simp] theorem State.setTm_pairKeys : (s.setTm k t).pairKeys = s.pairKeys := rfl
@[simp] theorem State.setTm_pairBase : (s.setTm k t).pairBase = s.pairBase := rfl
@[simp] theorem State.setTm_inreqs : (s.setTm k t).inreqs = s.inreqs := rfl
@[simp] theorem State.setTm_agentRel : (s.setTm k t).agentRel = s.agentRel := rfl
@[simp] theorem State.setTm_routes : (s.setTm k t).routes = s.routes := rfl
@[simp] theorem State.setTm_areqs : (s.setTm k t).areqs = s.areqs := rfl
@[simp] theorem State.setTm_heard : (s.setTm k t).heard = s.heard := rfl
@[simp] theorem State.setTm_ideBad : (s.setTm k t).ideBad = s.ideBad := rfl
@[simp] theorem State.setTm_fns : (s.setTm k t).fns = s.fns := rfl
@[simp] theorem State.setTm_allot : (s.setTm k t).allot = s.allot := rfl
@[simp] theorem State.setTm_worlds : (s.setTm k t).worlds = s.worlds := rfl
@[simp] theorem State.setTm_dying : (s.setTm k t).dying = s.dying := rfl
@[simp] theorem State.setTm_wmap : (s.setTm k t).wmap = s.wmap := rfl
@[simp] theorem State.setTm_assigns : (s.setTm k t).assigns = s.assigns := rfl
@[simp] theorem State.setTm_linkKeys : (s.setTm k t).linkKeys = s.linkKeys := rfl
@[simp] theorem State.setTm_crossed : (s.setTm k t).crossed = s.crossed := rfl
@[simp] theorem State.setTm_meas : (s.setTm k t).meas = s.meas := rfl
@[simp] theorem State.setTm_boot : (s.setTm k t).boot = s.boot := rfl
@[simp] theorem State.setTm_serials : (s.setTm k t).serials = s.serials := rfl
@[simp] theorem State.setTm_slots : (s.setTm k t).slots = s.slots := rfl
@[simp] theorem State.setTm_spdm : (s.setTm k t).spdm = s.spdm := rfl
@[simp] theorem State.setTm_entropy : (s.setTm k t).entropy = s.entropy := rfl
@[simp] theorem State.setTm_mem : (s.setTm k t).mem = s.mem := rfl
@[simp] theorem State.setTm_lines : (s.setTm k t).lines = s.lines := rfl
@[simp] theorem State.setTm_roots : (s.setTm k t).roots = s.roots := rfl
@[simp] theorem State.setTm_cores : (s.setTm k t).cores = s.cores := rfl
@[simp] theorem State.setTm_clusterTlb : (s.setTm k t).clusterTlb = s.clusterTlb := rfl
@[simp] theorem State.setTm_remote : (s.setTm k t).remote = s.remote := rfl
@[simp] theorem State.setTm_presence : (s.setTm k t).presence = s.presence := rfl
@[simp] theorem State.setTm_reqs : (s.setTm k t).reqs = s.reqs := rfl
@[simp] theorem State.setTm_logsDue : (s.setTm k t).logsDue = s.logsDue := rfl
@[simp] theorem State.setTm_invalidating : (s.setTm k t).invalidating = s.invalidating := rfl
@[simp] theorem State.setTm_queues : (s.setTm k t).queues = s.queues := rfl
@[simp] theorem State.setTm_rotation : (s.setTm k t).rotation = s.rotation := rfl
@[simp] theorem State.setTm_disps : (s.setTm k t).disps = s.disps := rfl
@[simp] theorem State.setTm_ties : (s.setTm k t).ties = s.ties := rfl
@[simp] theorem State.setTm_launches : (s.setTm k t).launches = s.launches := rfl
@[simp] theorem State.setTm_ctxs : (s.setTm k t).ctxs = s.ctxs := rfl
@[simp] theorem State.setTm_inbound : (s.setTm k t).inbound = s.inbound := rfl
@[simp] theorem State.setTm_pod : (s.setTm k t).pod = s.pod := rfl
@[simp] theorem State.setTm_poolDir : (s.setTm k t).poolDir = s.poolDir := rfl
@[simp] theorem State.setTm_poolNext : (s.setTm k t).poolNext = s.poolNext := rfl
@[simp] theorem State.setTm_reserveUsed : (s.setTm k t).reserveUsed = s.reserveUsed := rfl
@[simp] theorem State.setTm_sessions : (s.setTm k t).sessions = s.sessions := rfl
@[simp] theorem State.setTm_teams : (s.setTm k t).teams = s.teams.put k t := rfl
@[simp] theorem State.setTm_flights : (s.setTm k t).flights = s.flights := rfl
@[simp] theorem State.setTm_copies : (s.setTm k t).copies = s.copies := rfl
@[simp] theorem State.setTm_ecc : (s.setTm k t).ecc = s.ecc := rfl
@[simp] theorem State.setTm_agenda : (s.setTm k t).agenda = s.agenda := rfl
@[simp] theorem State.setTm_team : (s.setTm k t).team = s.team := rfl
@[simp] theorem State.setTm_sq : (s.setTm k t).sq = s.sq := rfl
@[simp] theorem State.setTm_who : (s.setTm k t).who = s.who := rfl
@[simp] theorem State.setTm_rr : (s.setTm k t).rr = s.rr := rfl
@[simp] theorem State.setTm_fresh : (s.setTm k t).fresh = s.fresh := rfl
@[simp] theorem State.setTm_free : (s.setTm k t).free = s.free := rfl
@[simp] theorem State.setTm_out : (s.setTm k t).out = s.out := rfl
end

section
variable (s : State) (k : Nat) (f : Team → Team)
@[simp] theorem State.onTm_power : (s.onTm k f).power = s.power := rfl
@[simp] theorem State.onTm_d3wait : (s.onTm k f).d3wait = s.d3wait := rfl
@[simp] theorem State.onTm_stepping : (s.onTm k f).stepping = s.stepping := rfl
@[simp] theorem State.onTm_fuseVersion : (s.onTm k f).fuseVersion = s.fuseVersion := rfl
@[simp] theorem State.onTm_fuseDebug : (s.onTm k f).fuseDebug = s.fuseDebug := rfl
@[simp] theorem State.onTm_fuseSecret : (s.onTm k f).fuseSecret = s.fuseSecret := rfl
@[simp] theorem State.onTm_clocks : (s.onTm k f).clocks = s.clocks := rfl
@[simp] theorem State.onTm_cycles : (s.onTm k f).cycles = s.cycles := rfl
@[simp] theorem State.onTm_ticks : (s.onTm k f).ticks = s.ticks := rfl
@[simp] theorem State.onTm_fabid : (s.onTm k f).fabid = s.fabid := rfl
@[simp] theorem State.onTm_pwrcap : (s.onTm k f).pwrcap = s.pwrcap := rfl
@[simp] theorem State.onTm_draindl : (s.onTm k f).draindl = s.draindl := rfl
@[simp] theorem State.onTm_podpool : (s.onTm k f).podpool = s.podpool := rfl
@[simp] theorem State.onTm_podsize : (s.onTm k f).podsize = s.podsize := rfl
@[simp] theorem State.onTm_asytolr : (s.onTm k f).asytolr = s.asytolr := rfl
@[simp] theorem State.onTm_asytolc : (s.onTm k f).asytolc = s.asytolc := rfl
@[simp] theorem State.onTm_asyinj : (s.onTm k f).asyinj = s.asyinj := rfl
@[simp] theorem State.onTm_mgmtBase : (s.onTm k f).mgmtBase = s.mgmtBase := rfl
@[simp] theorem State.onTm_mgmtSize : (s.onTm k f).mgmtSize = s.mgmtSize := rfl
@[simp] theorem State.onTm_failTimeout : (s.onTm k f).failTimeout = s.failTimeout := rfl
@[simp] theorem State.onTm_ports : (s.onTm k f).ports = s.ports := rfl
@[simp] theorem State.onTm_conns : (s.onTm k f).conns = s.conns := rfl
@[simp] theorem State.onTm_gathers : (s.onTm k f).gathers = s.gathers := rfl
@[simp] theorem State.onTm_pairKeys : (s.onTm k f).pairKeys = s.pairKeys := rfl
@[simp] theorem State.onTm_pairBase : (s.onTm k f).pairBase = s.pairBase := rfl
@[simp] theorem State.onTm_inreqs : (s.onTm k f).inreqs = s.inreqs := rfl
@[simp] theorem State.onTm_agentRel : (s.onTm k f).agentRel = s.agentRel := rfl
@[simp] theorem State.onTm_routes : (s.onTm k f).routes = s.routes := rfl
@[simp] theorem State.onTm_areqs : (s.onTm k f).areqs = s.areqs := rfl
@[simp] theorem State.onTm_heard : (s.onTm k f).heard = s.heard := rfl
@[simp] theorem State.onTm_ideBad : (s.onTm k f).ideBad = s.ideBad := rfl
@[simp] theorem State.onTm_fns : (s.onTm k f).fns = s.fns := rfl
@[simp] theorem State.onTm_allot : (s.onTm k f).allot = s.allot := rfl
@[simp] theorem State.onTm_worlds : (s.onTm k f).worlds = s.worlds := rfl
@[simp] theorem State.onTm_dying : (s.onTm k f).dying = s.dying := rfl
@[simp] theorem State.onTm_wmap : (s.onTm k f).wmap = s.wmap := rfl
@[simp] theorem State.onTm_assigns : (s.onTm k f).assigns = s.assigns := rfl
@[simp] theorem State.onTm_linkKeys : (s.onTm k f).linkKeys = s.linkKeys := rfl
@[simp] theorem State.onTm_crossed : (s.onTm k f).crossed = s.crossed := rfl
@[simp] theorem State.onTm_meas : (s.onTm k f).meas = s.meas := rfl
@[simp] theorem State.onTm_boot : (s.onTm k f).boot = s.boot := rfl
@[simp] theorem State.onTm_serials : (s.onTm k f).serials = s.serials := rfl
@[simp] theorem State.onTm_slots : (s.onTm k f).slots = s.slots := rfl
@[simp] theorem State.onTm_spdm : (s.onTm k f).spdm = s.spdm := rfl
@[simp] theorem State.onTm_entropy : (s.onTm k f).entropy = s.entropy := rfl
@[simp] theorem State.onTm_mem : (s.onTm k f).mem = s.mem := rfl
@[simp] theorem State.onTm_lines : (s.onTm k f).lines = s.lines := rfl
@[simp] theorem State.onTm_roots : (s.onTm k f).roots = s.roots := rfl
@[simp] theorem State.onTm_cores : (s.onTm k f).cores = s.cores := rfl
@[simp] theorem State.onTm_clusterTlb : (s.onTm k f).clusterTlb = s.clusterTlb := rfl
@[simp] theorem State.onTm_remote : (s.onTm k f).remote = s.remote := rfl
@[simp] theorem State.onTm_presence : (s.onTm k f).presence = s.presence := rfl
@[simp] theorem State.onTm_reqs : (s.onTm k f).reqs = s.reqs := rfl
@[simp] theorem State.onTm_logsDue : (s.onTm k f).logsDue = s.logsDue := rfl
@[simp] theorem State.onTm_invalidating : (s.onTm k f).invalidating = s.invalidating := rfl
@[simp] theorem State.onTm_queues : (s.onTm k f).queues = s.queues := rfl
@[simp] theorem State.onTm_rotation : (s.onTm k f).rotation = s.rotation := rfl
@[simp] theorem State.onTm_disps : (s.onTm k f).disps = s.disps := rfl
@[simp] theorem State.onTm_ties : (s.onTm k f).ties = s.ties := rfl
@[simp] theorem State.onTm_launches : (s.onTm k f).launches = s.launches := rfl
@[simp] theorem State.onTm_ctxs : (s.onTm k f).ctxs = s.ctxs := rfl
@[simp] theorem State.onTm_inbound : (s.onTm k f).inbound = s.inbound := rfl
@[simp] theorem State.onTm_pod : (s.onTm k f).pod = s.pod := rfl
@[simp] theorem State.onTm_poolDir : (s.onTm k f).poolDir = s.poolDir := rfl
@[simp] theorem State.onTm_poolNext : (s.onTm k f).poolNext = s.poolNext := rfl
@[simp] theorem State.onTm_reserveUsed : (s.onTm k f).reserveUsed = s.reserveUsed := rfl
@[simp] theorem State.onTm_sessions : (s.onTm k f).sessions = s.sessions := rfl
@[simp] theorem State.onTm_teams : (s.onTm k f).teams = s.teams.update k f := rfl
@[simp] theorem State.onTm_flights : (s.onTm k f).flights = s.flights := rfl
@[simp] theorem State.onTm_copies : (s.onTm k f).copies = s.copies := rfl
@[simp] theorem State.onTm_ecc : (s.onTm k f).ecc = s.ecc := rfl
@[simp] theorem State.onTm_agenda : (s.onTm k f).agenda = s.agenda := rfl
@[simp] theorem State.onTm_team : (s.onTm k f).team = s.team := rfl
@[simp] theorem State.onTm_sq : (s.onTm k f).sq = s.sq := rfl
@[simp] theorem State.onTm_who : (s.onTm k f).who = s.who := rfl
@[simp] theorem State.onTm_rr : (s.onTm k f).rr = s.rr := rfl
@[simp] theorem State.onTm_fresh : (s.onTm k f).fresh = s.fresh := rfl
@[simp] theorem State.onTm_free : (s.onTm k f).free = s.free := rfl
@[simp] theorem State.onTm_out : (s.onTm k f).out = s.out := rfl
end

section
variable (s : State) (k : Nat) (x : Core)
@[simp] theorem State.setCore_power : (s.setCore k x).power = s.power := rfl
@[simp] theorem State.setCore_d3wait : (s.setCore k x).d3wait = s.d3wait := rfl
@[simp] theorem State.setCore_stepping : (s.setCore k x).stepping = s.stepping := rfl
@[simp] theorem State.setCore_fuseVersion : (s.setCore k x).fuseVersion = s.fuseVersion := rfl
@[simp] theorem State.setCore_fuseDebug : (s.setCore k x).fuseDebug = s.fuseDebug := rfl
@[simp] theorem State.setCore_fuseSecret : (s.setCore k x).fuseSecret = s.fuseSecret := rfl
@[simp] theorem State.setCore_clocks : (s.setCore k x).clocks = s.clocks := rfl
@[simp] theorem State.setCore_cycles : (s.setCore k x).cycles = s.cycles := rfl
@[simp] theorem State.setCore_ticks : (s.setCore k x).ticks = s.ticks := rfl
@[simp] theorem State.setCore_fabid : (s.setCore k x).fabid = s.fabid := rfl
@[simp] theorem State.setCore_pwrcap : (s.setCore k x).pwrcap = s.pwrcap := rfl
@[simp] theorem State.setCore_draindl : (s.setCore k x).draindl = s.draindl := rfl
@[simp] theorem State.setCore_podpool : (s.setCore k x).podpool = s.podpool := rfl
@[simp] theorem State.setCore_podsize : (s.setCore k x).podsize = s.podsize := rfl
@[simp] theorem State.setCore_asytolr : (s.setCore k x).asytolr = s.asytolr := rfl
@[simp] theorem State.setCore_asytolc : (s.setCore k x).asytolc = s.asytolc := rfl
@[simp] theorem State.setCore_asyinj : (s.setCore k x).asyinj = s.asyinj := rfl
@[simp] theorem State.setCore_mgmtBase : (s.setCore k x).mgmtBase = s.mgmtBase := rfl
@[simp] theorem State.setCore_mgmtSize : (s.setCore k x).mgmtSize = s.mgmtSize := rfl
@[simp] theorem State.setCore_failTimeout : (s.setCore k x).failTimeout = s.failTimeout := rfl
@[simp] theorem State.setCore_ports : (s.setCore k x).ports = s.ports := rfl
@[simp] theorem State.setCore_conns : (s.setCore k x).conns = s.conns := rfl
@[simp] theorem State.setCore_gathers : (s.setCore k x).gathers = s.gathers := rfl
@[simp] theorem State.setCore_pairKeys : (s.setCore k x).pairKeys = s.pairKeys := rfl
@[simp] theorem State.setCore_pairBase : (s.setCore k x).pairBase = s.pairBase := rfl
@[simp] theorem State.setCore_inreqs : (s.setCore k x).inreqs = s.inreqs := rfl
@[simp] theorem State.setCore_agentRel : (s.setCore k x).agentRel = s.agentRel := rfl
@[simp] theorem State.setCore_routes : (s.setCore k x).routes = s.routes := rfl
@[simp] theorem State.setCore_areqs : (s.setCore k x).areqs = s.areqs := rfl
@[simp] theorem State.setCore_heard : (s.setCore k x).heard = s.heard := rfl
@[simp] theorem State.setCore_ideBad : (s.setCore k x).ideBad = s.ideBad := rfl
@[simp] theorem State.setCore_fns : (s.setCore k x).fns = s.fns := rfl
@[simp] theorem State.setCore_allot : (s.setCore k x).allot = s.allot := rfl
@[simp] theorem State.setCore_worlds : (s.setCore k x).worlds = s.worlds := rfl
@[simp] theorem State.setCore_dying : (s.setCore k x).dying = s.dying := rfl
@[simp] theorem State.setCore_wmap : (s.setCore k x).wmap = s.wmap := rfl
@[simp] theorem State.setCore_assigns : (s.setCore k x).assigns = s.assigns := rfl
@[simp] theorem State.setCore_linkKeys : (s.setCore k x).linkKeys = s.linkKeys := rfl
@[simp] theorem State.setCore_crossed : (s.setCore k x).crossed = s.crossed := rfl
@[simp] theorem State.setCore_meas : (s.setCore k x).meas = s.meas := rfl
@[simp] theorem State.setCore_boot : (s.setCore k x).boot = s.boot := rfl
@[simp] theorem State.setCore_serials : (s.setCore k x).serials = s.serials := rfl
@[simp] theorem State.setCore_slots : (s.setCore k x).slots = s.slots := rfl
@[simp] theorem State.setCore_spdm : (s.setCore k x).spdm = s.spdm := rfl
@[simp] theorem State.setCore_entropy : (s.setCore k x).entropy = s.entropy := rfl
@[simp] theorem State.setCore_mem : (s.setCore k x).mem = s.mem := rfl
@[simp] theorem State.setCore_lines : (s.setCore k x).lines = s.lines := rfl
@[simp] theorem State.setCore_roots : (s.setCore k x).roots = s.roots := rfl
@[simp] theorem State.setCore_cores : (s.setCore k x).cores = s.cores.store {} k x := rfl
@[simp] theorem State.setCore_clusterTlb : (s.setCore k x).clusterTlb = s.clusterTlb := rfl
@[simp] theorem State.setCore_remote : (s.setCore k x).remote = s.remote := rfl
@[simp] theorem State.setCore_presence : (s.setCore k x).presence = s.presence := rfl
@[simp] theorem State.setCore_reqs : (s.setCore k x).reqs = s.reqs := rfl
@[simp] theorem State.setCore_logsDue : (s.setCore k x).logsDue = s.logsDue := rfl
@[simp] theorem State.setCore_invalidating : (s.setCore k x).invalidating = s.invalidating := rfl
@[simp] theorem State.setCore_queues : (s.setCore k x).queues = s.queues := rfl
@[simp] theorem State.setCore_rotation : (s.setCore k x).rotation = s.rotation := rfl
@[simp] theorem State.setCore_disps : (s.setCore k x).disps = s.disps := rfl
@[simp] theorem State.setCore_ties : (s.setCore k x).ties = s.ties := rfl
@[simp] theorem State.setCore_launches : (s.setCore k x).launches = s.launches := rfl
@[simp] theorem State.setCore_ctxs : (s.setCore k x).ctxs = s.ctxs := rfl
@[simp] theorem State.setCore_inbound : (s.setCore k x).inbound = s.inbound := rfl
@[simp] theorem State.setCore_pod : (s.setCore k x).pod = s.pod := rfl
@[simp] theorem State.setCore_poolDir : (s.setCore k x).poolDir = s.poolDir := rfl
@[simp] theorem State.setCore_poolNext : (s.setCore k x).poolNext = s.poolNext := rfl
@[simp] theorem State.setCore_reserveUsed : (s.setCore k x).reserveUsed = s.reserveUsed := rfl
@[simp] theorem State.setCore_sessions : (s.setCore k x).sessions = s.sessions := rfl
@[simp] theorem State.setCore_teams : (s.setCore k x).teams = s.teams := rfl
@[simp] theorem State.setCore_flights : (s.setCore k x).flights = s.flights := rfl
@[simp] theorem State.setCore_copies : (s.setCore k x).copies = s.copies := rfl
@[simp] theorem State.setCore_ecc : (s.setCore k x).ecc = s.ecc := rfl
@[simp] theorem State.setCore_agenda : (s.setCore k x).agenda = s.agenda := rfl
@[simp] theorem State.setCore_team : (s.setCore k x).team = s.team := rfl
@[simp] theorem State.setCore_sq : (s.setCore k x).sq = s.sq := rfl
@[simp] theorem State.setCore_who : (s.setCore k x).who = s.who := rfl
@[simp] theorem State.setCore_rr : (s.setCore k x).rr = s.rr := rfl
@[simp] theorem State.setCore_fresh : (s.setCore k x).fresh = s.fresh := rfl
@[simp] theorem State.setCore_free : (s.setCore k x).free = s.free := rfl
@[simp] theorem State.setCore_out : (s.setCore k x).out = s.out := rfl
end

section
variable (s : State) (k : Nat) (x : Launch)
@[simp] theorem State.setLaunch_power : (s.setLaunch k x).power = s.power := rfl
@[simp] theorem State.setLaunch_d3wait : (s.setLaunch k x).d3wait = s.d3wait := rfl
@[simp] theorem State.setLaunch_stepping : (s.setLaunch k x).stepping = s.stepping := rfl
@[simp] theorem State.setLaunch_fuseVersion : (s.setLaunch k x).fuseVersion = s.fuseVersion := rfl
@[simp] theorem State.setLaunch_fuseDebug : (s.setLaunch k x).fuseDebug = s.fuseDebug := rfl
@[simp] theorem State.setLaunch_fuseSecret : (s.setLaunch k x).fuseSecret = s.fuseSecret := rfl
@[simp] theorem State.setLaunch_clocks : (s.setLaunch k x).clocks = s.clocks := rfl
@[simp] theorem State.setLaunch_cycles : (s.setLaunch k x).cycles = s.cycles := rfl
@[simp] theorem State.setLaunch_ticks : (s.setLaunch k x).ticks = s.ticks := rfl
@[simp] theorem State.setLaunch_fabid : (s.setLaunch k x).fabid = s.fabid := rfl
@[simp] theorem State.setLaunch_pwrcap : (s.setLaunch k x).pwrcap = s.pwrcap := rfl
@[simp] theorem State.setLaunch_draindl : (s.setLaunch k x).draindl = s.draindl := rfl
@[simp] theorem State.setLaunch_podpool : (s.setLaunch k x).podpool = s.podpool := rfl
@[simp] theorem State.setLaunch_podsize : (s.setLaunch k x).podsize = s.podsize := rfl
@[simp] theorem State.setLaunch_asytolr : (s.setLaunch k x).asytolr = s.asytolr := rfl
@[simp] theorem State.setLaunch_asytolc : (s.setLaunch k x).asytolc = s.asytolc := rfl
@[simp] theorem State.setLaunch_asyinj : (s.setLaunch k x).asyinj = s.asyinj := rfl
@[simp] theorem State.setLaunch_mgmtBase : (s.setLaunch k x).mgmtBase = s.mgmtBase := rfl
@[simp] theorem State.setLaunch_mgmtSize : (s.setLaunch k x).mgmtSize = s.mgmtSize := rfl
@[simp] theorem State.setLaunch_failTimeout : (s.setLaunch k x).failTimeout = s.failTimeout := rfl
@[simp] theorem State.setLaunch_ports : (s.setLaunch k x).ports = s.ports := rfl
@[simp] theorem State.setLaunch_conns : (s.setLaunch k x).conns = s.conns := rfl
@[simp] theorem State.setLaunch_gathers : (s.setLaunch k x).gathers = s.gathers := rfl
@[simp] theorem State.setLaunch_pairKeys : (s.setLaunch k x).pairKeys = s.pairKeys := rfl
@[simp] theorem State.setLaunch_pairBase : (s.setLaunch k x).pairBase = s.pairBase := rfl
@[simp] theorem State.setLaunch_inreqs : (s.setLaunch k x).inreqs = s.inreqs := rfl
@[simp] theorem State.setLaunch_agentRel : (s.setLaunch k x).agentRel = s.agentRel := rfl
@[simp] theorem State.setLaunch_routes : (s.setLaunch k x).routes = s.routes := rfl
@[simp] theorem State.setLaunch_areqs : (s.setLaunch k x).areqs = s.areqs := rfl
@[simp] theorem State.setLaunch_heard : (s.setLaunch k x).heard = s.heard := rfl
@[simp] theorem State.setLaunch_ideBad : (s.setLaunch k x).ideBad = s.ideBad := rfl
@[simp] theorem State.setLaunch_fns : (s.setLaunch k x).fns = s.fns := rfl
@[simp] theorem State.setLaunch_allot : (s.setLaunch k x).allot = s.allot := rfl
@[simp] theorem State.setLaunch_worlds : (s.setLaunch k x).worlds = s.worlds := rfl
@[simp] theorem State.setLaunch_dying : (s.setLaunch k x).dying = s.dying := rfl
@[simp] theorem State.setLaunch_wmap : (s.setLaunch k x).wmap = s.wmap := rfl
@[simp] theorem State.setLaunch_assigns : (s.setLaunch k x).assigns = s.assigns := rfl
@[simp] theorem State.setLaunch_linkKeys : (s.setLaunch k x).linkKeys = s.linkKeys := rfl
@[simp] theorem State.setLaunch_crossed : (s.setLaunch k x).crossed = s.crossed := rfl
@[simp] theorem State.setLaunch_meas : (s.setLaunch k x).meas = s.meas := rfl
@[simp] theorem State.setLaunch_boot : (s.setLaunch k x).boot = s.boot := rfl
@[simp] theorem State.setLaunch_serials : (s.setLaunch k x).serials = s.serials := rfl
@[simp] theorem State.setLaunch_slots : (s.setLaunch k x).slots = s.slots := rfl
@[simp] theorem State.setLaunch_spdm : (s.setLaunch k x).spdm = s.spdm := rfl
@[simp] theorem State.setLaunch_entropy : (s.setLaunch k x).entropy = s.entropy := rfl
@[simp] theorem State.setLaunch_mem : (s.setLaunch k x).mem = s.mem := rfl
@[simp] theorem State.setLaunch_lines : (s.setLaunch k x).lines = s.lines := rfl
@[simp] theorem State.setLaunch_roots : (s.setLaunch k x).roots = s.roots := rfl
@[simp] theorem State.setLaunch_cores : (s.setLaunch k x).cores = s.cores := rfl
@[simp] theorem State.setLaunch_clusterTlb : (s.setLaunch k x).clusterTlb = s.clusterTlb := rfl
@[simp] theorem State.setLaunch_remote : (s.setLaunch k x).remote = s.remote := rfl
@[simp] theorem State.setLaunch_presence : (s.setLaunch k x).presence = s.presence := rfl
@[simp] theorem State.setLaunch_reqs : (s.setLaunch k x).reqs = s.reqs := rfl
@[simp] theorem State.setLaunch_logsDue : (s.setLaunch k x).logsDue = s.logsDue := rfl
@[simp] theorem State.setLaunch_invalidating : (s.setLaunch k x).invalidating = s.invalidating := rfl
@[simp] theorem State.setLaunch_queues : (s.setLaunch k x).queues = s.queues := rfl
@[simp] theorem State.setLaunch_rotation : (s.setLaunch k x).rotation = s.rotation := rfl
@[simp] theorem State.setLaunch_disps : (s.setLaunch k x).disps = s.disps := rfl
@[simp] theorem State.setLaunch_ties : (s.setLaunch k x).ties = s.ties := rfl
@[simp] theorem State.setLaunch_launches : (s.setLaunch k x).launches = s.launches.put k x := rfl
@[simp] theorem State.setLaunch_ctxs : (s.setLaunch k x).ctxs = s.ctxs := rfl
@[simp] theorem State.setLaunch_inbound : (s.setLaunch k x).inbound = s.inbound := rfl
@[simp] theorem State.setLaunch_pod : (s.setLaunch k x).pod = s.pod := rfl
@[simp] theorem State.setLaunch_poolDir : (s.setLaunch k x).poolDir = s.poolDir := rfl
@[simp] theorem State.setLaunch_poolNext : (s.setLaunch k x).poolNext = s.poolNext := rfl
@[simp] theorem State.setLaunch_reserveUsed : (s.setLaunch k x).reserveUsed = s.reserveUsed := rfl
@[simp] theorem State.setLaunch_sessions : (s.setLaunch k x).sessions = s.sessions := rfl
@[simp] theorem State.setLaunch_teams : (s.setLaunch k x).teams = s.teams := rfl
@[simp] theorem State.setLaunch_flights : (s.setLaunch k x).flights = s.flights := rfl
@[simp] theorem State.setLaunch_copies : (s.setLaunch k x).copies = s.copies := rfl
@[simp] theorem State.setLaunch_ecc : (s.setLaunch k x).ecc = s.ecc := rfl
@[simp] theorem State.setLaunch_agenda : (s.setLaunch k x).agenda = s.agenda := rfl
@[simp] theorem State.setLaunch_team : (s.setLaunch k x).team = s.team := rfl
@[simp] theorem State.setLaunch_sq : (s.setLaunch k x).sq = s.sq := rfl
@[simp] theorem State.setLaunch_who : (s.setLaunch k x).who = s.who := rfl
@[simp] theorem State.setLaunch_rr : (s.setLaunch k x).rr = s.rr := rfl
@[simp] theorem State.setLaunch_fresh : (s.setLaunch k x).fresh = s.fresh := rfl
@[simp] theorem State.setLaunch_free : (s.setLaunch k x).free = s.free := rfl
@[simp] theorem State.setLaunch_out : (s.setLaunch k x).out = s.out := rfl
end

section
variable (s : State) (k : Nat) (x : Ctx)
@[simp] theorem State.setCtx_power : (s.setCtx k x).power = s.power := rfl
@[simp] theorem State.setCtx_d3wait : (s.setCtx k x).d3wait = s.d3wait := rfl
@[simp] theorem State.setCtx_stepping : (s.setCtx k x).stepping = s.stepping := rfl
@[simp] theorem State.setCtx_fuseVersion : (s.setCtx k x).fuseVersion = s.fuseVersion := rfl
@[simp] theorem State.setCtx_fuseDebug : (s.setCtx k x).fuseDebug = s.fuseDebug := rfl
@[simp] theorem State.setCtx_fuseSecret : (s.setCtx k x).fuseSecret = s.fuseSecret := rfl
@[simp] theorem State.setCtx_clocks : (s.setCtx k x).clocks = s.clocks := rfl
@[simp] theorem State.setCtx_cycles : (s.setCtx k x).cycles = s.cycles := rfl
@[simp] theorem State.setCtx_ticks : (s.setCtx k x).ticks = s.ticks := rfl
@[simp] theorem State.setCtx_fabid : (s.setCtx k x).fabid = s.fabid := rfl
@[simp] theorem State.setCtx_pwrcap : (s.setCtx k x).pwrcap = s.pwrcap := rfl
@[simp] theorem State.setCtx_draindl : (s.setCtx k x).draindl = s.draindl := rfl
@[simp] theorem State.setCtx_podpool : (s.setCtx k x).podpool = s.podpool := rfl
@[simp] theorem State.setCtx_podsize : (s.setCtx k x).podsize = s.podsize := rfl
@[simp] theorem State.setCtx_asytolr : (s.setCtx k x).asytolr = s.asytolr := rfl
@[simp] theorem State.setCtx_asytolc : (s.setCtx k x).asytolc = s.asytolc := rfl
@[simp] theorem State.setCtx_asyinj : (s.setCtx k x).asyinj = s.asyinj := rfl
@[simp] theorem State.setCtx_mgmtBase : (s.setCtx k x).mgmtBase = s.mgmtBase := rfl
@[simp] theorem State.setCtx_mgmtSize : (s.setCtx k x).mgmtSize = s.mgmtSize := rfl
@[simp] theorem State.setCtx_failTimeout : (s.setCtx k x).failTimeout = s.failTimeout := rfl
@[simp] theorem State.setCtx_ports : (s.setCtx k x).ports = s.ports := rfl
@[simp] theorem State.setCtx_conns : (s.setCtx k x).conns = s.conns := rfl
@[simp] theorem State.setCtx_gathers : (s.setCtx k x).gathers = s.gathers := rfl
@[simp] theorem State.setCtx_pairKeys : (s.setCtx k x).pairKeys = s.pairKeys := rfl
@[simp] theorem State.setCtx_pairBase : (s.setCtx k x).pairBase = s.pairBase := rfl
@[simp] theorem State.setCtx_inreqs : (s.setCtx k x).inreqs = s.inreqs := rfl
@[simp] theorem State.setCtx_agentRel : (s.setCtx k x).agentRel = s.agentRel := rfl
@[simp] theorem State.setCtx_routes : (s.setCtx k x).routes = s.routes := rfl
@[simp] theorem State.setCtx_areqs : (s.setCtx k x).areqs = s.areqs := rfl
@[simp] theorem State.setCtx_heard : (s.setCtx k x).heard = s.heard := rfl
@[simp] theorem State.setCtx_ideBad : (s.setCtx k x).ideBad = s.ideBad := rfl
@[simp] theorem State.setCtx_fns : (s.setCtx k x).fns = s.fns := rfl
@[simp] theorem State.setCtx_allot : (s.setCtx k x).allot = s.allot := rfl
@[simp] theorem State.setCtx_worlds : (s.setCtx k x).worlds = s.worlds := rfl
@[simp] theorem State.setCtx_dying : (s.setCtx k x).dying = s.dying := rfl
@[simp] theorem State.setCtx_wmap : (s.setCtx k x).wmap = s.wmap := rfl
@[simp] theorem State.setCtx_assigns : (s.setCtx k x).assigns = s.assigns := rfl
@[simp] theorem State.setCtx_linkKeys : (s.setCtx k x).linkKeys = s.linkKeys := rfl
@[simp] theorem State.setCtx_crossed : (s.setCtx k x).crossed = s.crossed := rfl
@[simp] theorem State.setCtx_meas : (s.setCtx k x).meas = s.meas := rfl
@[simp] theorem State.setCtx_boot : (s.setCtx k x).boot = s.boot := rfl
@[simp] theorem State.setCtx_serials : (s.setCtx k x).serials = s.serials := rfl
@[simp] theorem State.setCtx_slots : (s.setCtx k x).slots = s.slots := rfl
@[simp] theorem State.setCtx_spdm : (s.setCtx k x).spdm = s.spdm := rfl
@[simp] theorem State.setCtx_entropy : (s.setCtx k x).entropy = s.entropy := rfl
@[simp] theorem State.setCtx_mem : (s.setCtx k x).mem = s.mem := rfl
@[simp] theorem State.setCtx_lines : (s.setCtx k x).lines = s.lines := rfl
@[simp] theorem State.setCtx_roots : (s.setCtx k x).roots = s.roots := rfl
@[simp] theorem State.setCtx_cores : (s.setCtx k x).cores = s.cores := rfl
@[simp] theorem State.setCtx_clusterTlb : (s.setCtx k x).clusterTlb = s.clusterTlb := rfl
@[simp] theorem State.setCtx_remote : (s.setCtx k x).remote = s.remote := rfl
@[simp] theorem State.setCtx_presence : (s.setCtx k x).presence = s.presence := rfl
@[simp] theorem State.setCtx_reqs : (s.setCtx k x).reqs = s.reqs := rfl
@[simp] theorem State.setCtx_logsDue : (s.setCtx k x).logsDue = s.logsDue := rfl
@[simp] theorem State.setCtx_invalidating : (s.setCtx k x).invalidating = s.invalidating := rfl
@[simp] theorem State.setCtx_queues : (s.setCtx k x).queues = s.queues := rfl
@[simp] theorem State.setCtx_rotation : (s.setCtx k x).rotation = s.rotation := rfl
@[simp] theorem State.setCtx_disps : (s.setCtx k x).disps = s.disps := rfl
@[simp] theorem State.setCtx_ties : (s.setCtx k x).ties = s.ties := rfl
@[simp] theorem State.setCtx_launches : (s.setCtx k x).launches = s.launches := rfl
@[simp] theorem State.setCtx_ctxs : (s.setCtx k x).ctxs = s.ctxs.store {} k x := rfl
@[simp] theorem State.setCtx_inbound : (s.setCtx k x).inbound = s.inbound := rfl
@[simp] theorem State.setCtx_pod : (s.setCtx k x).pod = s.pod := rfl
@[simp] theorem State.setCtx_poolDir : (s.setCtx k x).poolDir = s.poolDir := rfl
@[simp] theorem State.setCtx_poolNext : (s.setCtx k x).poolNext = s.poolNext := rfl
@[simp] theorem State.setCtx_reserveUsed : (s.setCtx k x).reserveUsed = s.reserveUsed := rfl
@[simp] theorem State.setCtx_sessions : (s.setCtx k x).sessions = s.sessions := rfl
@[simp] theorem State.setCtx_teams : (s.setCtx k x).teams = s.teams := rfl
@[simp] theorem State.setCtx_flights : (s.setCtx k x).flights = s.flights := rfl
@[simp] theorem State.setCtx_copies : (s.setCtx k x).copies = s.copies := rfl
@[simp] theorem State.setCtx_ecc : (s.setCtx k x).ecc = s.ecc := rfl
@[simp] theorem State.setCtx_agenda : (s.setCtx k x).agenda = s.agenda := rfl
@[simp] theorem State.setCtx_team : (s.setCtx k x).team = s.team := rfl
@[simp] theorem State.setCtx_sq : (s.setCtx k x).sq = s.sq := rfl
@[simp] theorem State.setCtx_who : (s.setCtx k x).who = s.who := rfl
@[simp] theorem State.setCtx_rr : (s.setCtx k x).rr = s.rr := rfl
@[simp] theorem State.setCtx_fresh : (s.setCtx k x).fresh = s.fresh := rfl
@[simp] theorem State.setCtx_free : (s.setCtx k x).free = s.free := rfl
@[simp] theorem State.setCtx_out : (s.setCtx k x).out = s.out := rfl
end

section
variable (s : State) (k : Nat) (x : Fn)
@[simp] theorem State.setFn_power : (s.setFn k x).power = s.power := rfl
@[simp] theorem State.setFn_d3wait : (s.setFn k x).d3wait = s.d3wait := rfl
@[simp] theorem State.setFn_stepping : (s.setFn k x).stepping = s.stepping := rfl
@[simp] theorem State.setFn_fuseVersion : (s.setFn k x).fuseVersion = s.fuseVersion := rfl
@[simp] theorem State.setFn_fuseDebug : (s.setFn k x).fuseDebug = s.fuseDebug := rfl
@[simp] theorem State.setFn_fuseSecret : (s.setFn k x).fuseSecret = s.fuseSecret := rfl
@[simp] theorem State.setFn_clocks : (s.setFn k x).clocks = s.clocks := rfl
@[simp] theorem State.setFn_cycles : (s.setFn k x).cycles = s.cycles := rfl
@[simp] theorem State.setFn_ticks : (s.setFn k x).ticks = s.ticks := rfl
@[simp] theorem State.setFn_fabid : (s.setFn k x).fabid = s.fabid := rfl
@[simp] theorem State.setFn_pwrcap : (s.setFn k x).pwrcap = s.pwrcap := rfl
@[simp] theorem State.setFn_draindl : (s.setFn k x).draindl = s.draindl := rfl
@[simp] theorem State.setFn_podpool : (s.setFn k x).podpool = s.podpool := rfl
@[simp] theorem State.setFn_podsize : (s.setFn k x).podsize = s.podsize := rfl
@[simp] theorem State.setFn_asytolr : (s.setFn k x).asytolr = s.asytolr := rfl
@[simp] theorem State.setFn_asytolc : (s.setFn k x).asytolc = s.asytolc := rfl
@[simp] theorem State.setFn_asyinj : (s.setFn k x).asyinj = s.asyinj := rfl
@[simp] theorem State.setFn_mgmtBase : (s.setFn k x).mgmtBase = s.mgmtBase := rfl
@[simp] theorem State.setFn_mgmtSize : (s.setFn k x).mgmtSize = s.mgmtSize := rfl
@[simp] theorem State.setFn_failTimeout : (s.setFn k x).failTimeout = s.failTimeout := rfl
@[simp] theorem State.setFn_ports : (s.setFn k x).ports = s.ports := rfl
@[simp] theorem State.setFn_conns : (s.setFn k x).conns = s.conns := rfl
@[simp] theorem State.setFn_gathers : (s.setFn k x).gathers = s.gathers := rfl
@[simp] theorem State.setFn_pairKeys : (s.setFn k x).pairKeys = s.pairKeys := rfl
@[simp] theorem State.setFn_pairBase : (s.setFn k x).pairBase = s.pairBase := rfl
@[simp] theorem State.setFn_inreqs : (s.setFn k x).inreqs = s.inreqs := rfl
@[simp] theorem State.setFn_agentRel : (s.setFn k x).agentRel = s.agentRel := rfl
@[simp] theorem State.setFn_routes : (s.setFn k x).routes = s.routes := rfl
@[simp] theorem State.setFn_areqs : (s.setFn k x).areqs = s.areqs := rfl
@[simp] theorem State.setFn_heard : (s.setFn k x).heard = s.heard := rfl
@[simp] theorem State.setFn_ideBad : (s.setFn k x).ideBad = s.ideBad := rfl
@[simp] theorem State.setFn_fns : (s.setFn k x).fns = s.fns.put k x := rfl
@[simp] theorem State.setFn_allot : (s.setFn k x).allot = s.allot := rfl
@[simp] theorem State.setFn_worlds : (s.setFn k x).worlds = s.worlds := rfl
@[simp] theorem State.setFn_dying : (s.setFn k x).dying = s.dying := rfl
@[simp] theorem State.setFn_wmap : (s.setFn k x).wmap = s.wmap := rfl
@[simp] theorem State.setFn_assigns : (s.setFn k x).assigns = s.assigns := rfl
@[simp] theorem State.setFn_linkKeys : (s.setFn k x).linkKeys = s.linkKeys := rfl
@[simp] theorem State.setFn_crossed : (s.setFn k x).crossed = s.crossed := rfl
@[simp] theorem State.setFn_meas : (s.setFn k x).meas = s.meas := rfl
@[simp] theorem State.setFn_boot : (s.setFn k x).boot = s.boot := rfl
@[simp] theorem State.setFn_serials : (s.setFn k x).serials = s.serials := rfl
@[simp] theorem State.setFn_slots : (s.setFn k x).slots = s.slots := rfl
@[simp] theorem State.setFn_spdm : (s.setFn k x).spdm = s.spdm := rfl
@[simp] theorem State.setFn_entropy : (s.setFn k x).entropy = s.entropy := rfl
@[simp] theorem State.setFn_mem : (s.setFn k x).mem = s.mem := rfl
@[simp] theorem State.setFn_lines : (s.setFn k x).lines = s.lines := rfl
@[simp] theorem State.setFn_roots : (s.setFn k x).roots = s.roots := rfl
@[simp] theorem State.setFn_cores : (s.setFn k x).cores = s.cores := rfl
@[simp] theorem State.setFn_clusterTlb : (s.setFn k x).clusterTlb = s.clusterTlb := rfl
@[simp] theorem State.setFn_remote : (s.setFn k x).remote = s.remote := rfl
@[simp] theorem State.setFn_presence : (s.setFn k x).presence = s.presence := rfl
@[simp] theorem State.setFn_reqs : (s.setFn k x).reqs = s.reqs := rfl
@[simp] theorem State.setFn_logsDue : (s.setFn k x).logsDue = s.logsDue := rfl
@[simp] theorem State.setFn_invalidating : (s.setFn k x).invalidating = s.invalidating := rfl
@[simp] theorem State.setFn_queues : (s.setFn k x).queues = s.queues := rfl
@[simp] theorem State.setFn_rotation : (s.setFn k x).rotation = s.rotation := rfl
@[simp] theorem State.setFn_disps : (s.setFn k x).disps = s.disps := rfl
@[simp] theorem State.setFn_ties : (s.setFn k x).ties = s.ties := rfl
@[simp] theorem State.setFn_launches : (s.setFn k x).launches = s.launches := rfl
@[simp] theorem State.setFn_ctxs : (s.setFn k x).ctxs = s.ctxs := rfl
@[simp] theorem State.setFn_inbound : (s.setFn k x).inbound = s.inbound := rfl
@[simp] theorem State.setFn_pod : (s.setFn k x).pod = s.pod := rfl
@[simp] theorem State.setFn_poolDir : (s.setFn k x).poolDir = s.poolDir := rfl
@[simp] theorem State.setFn_poolNext : (s.setFn k x).poolNext = s.poolNext := rfl
@[simp] theorem State.setFn_reserveUsed : (s.setFn k x).reserveUsed = s.reserveUsed := rfl
@[simp] theorem State.setFn_sessions : (s.setFn k x).sessions = s.sessions := rfl
@[simp] theorem State.setFn_teams : (s.setFn k x).teams = s.teams := rfl
@[simp] theorem State.setFn_flights : (s.setFn k x).flights = s.flights := rfl
@[simp] theorem State.setFn_copies : (s.setFn k x).copies = s.copies := rfl
@[simp] theorem State.setFn_ecc : (s.setFn k x).ecc = s.ecc := rfl
@[simp] theorem State.setFn_agenda : (s.setFn k x).agenda = s.agenda := rfl
@[simp] theorem State.setFn_team : (s.setFn k x).team = s.team := rfl
@[simp] theorem State.setFn_sq : (s.setFn k x).sq = s.sq := rfl
@[simp] theorem State.setFn_who : (s.setFn k x).who = s.who := rfl
@[simp] theorem State.setFn_rr : (s.setFn k x).rr = s.rr := rfl
@[simp] theorem State.setFn_fresh : (s.setFn k x).fresh = s.fresh := rfl
@[simp] theorem State.setFn_free : (s.setFn k x).free = s.free := rfl
@[simp] theorem State.setFn_out : (s.setFn k x).out = s.out := rfl
end

section
variable (s : State) (k : Nat) (x : Queue)
@[simp] theorem State.setQueue_power : (s.setQueue k x).power = s.power := rfl
@[simp] theorem State.setQueue_d3wait : (s.setQueue k x).d3wait = s.d3wait := rfl
@[simp] theorem State.setQueue_stepping : (s.setQueue k x).stepping = s.stepping := rfl
@[simp] theorem State.setQueue_fuseVersion : (s.setQueue k x).fuseVersion = s.fuseVersion := rfl
@[simp] theorem State.setQueue_fuseDebug : (s.setQueue k x).fuseDebug = s.fuseDebug := rfl
@[simp] theorem State.setQueue_fuseSecret : (s.setQueue k x).fuseSecret = s.fuseSecret := rfl
@[simp] theorem State.setQueue_clocks : (s.setQueue k x).clocks = s.clocks := rfl
@[simp] theorem State.setQueue_cycles : (s.setQueue k x).cycles = s.cycles := rfl
@[simp] theorem State.setQueue_ticks : (s.setQueue k x).ticks = s.ticks := rfl
@[simp] theorem State.setQueue_fabid : (s.setQueue k x).fabid = s.fabid := rfl
@[simp] theorem State.setQueue_pwrcap : (s.setQueue k x).pwrcap = s.pwrcap := rfl
@[simp] theorem State.setQueue_draindl : (s.setQueue k x).draindl = s.draindl := rfl
@[simp] theorem State.setQueue_podpool : (s.setQueue k x).podpool = s.podpool := rfl
@[simp] theorem State.setQueue_podsize : (s.setQueue k x).podsize = s.podsize := rfl
@[simp] theorem State.setQueue_asytolr : (s.setQueue k x).asytolr = s.asytolr := rfl
@[simp] theorem State.setQueue_asytolc : (s.setQueue k x).asytolc = s.asytolc := rfl
@[simp] theorem State.setQueue_asyinj : (s.setQueue k x).asyinj = s.asyinj := rfl
@[simp] theorem State.setQueue_mgmtBase : (s.setQueue k x).mgmtBase = s.mgmtBase := rfl
@[simp] theorem State.setQueue_mgmtSize : (s.setQueue k x).mgmtSize = s.mgmtSize := rfl
@[simp] theorem State.setQueue_failTimeout : (s.setQueue k x).failTimeout = s.failTimeout := rfl
@[simp] theorem State.setQueue_ports : (s.setQueue k x).ports = s.ports := rfl
@[simp] theorem State.setQueue_conns : (s.setQueue k x).conns = s.conns := rfl
@[simp] theorem State.setQueue_gathers : (s.setQueue k x).gathers = s.gathers := rfl
@[simp] theorem State.setQueue_pairKeys : (s.setQueue k x).pairKeys = s.pairKeys := rfl
@[simp] theorem State.setQueue_pairBase : (s.setQueue k x).pairBase = s.pairBase := rfl
@[simp] theorem State.setQueue_inreqs : (s.setQueue k x).inreqs = s.inreqs := rfl
@[simp] theorem State.setQueue_agentRel : (s.setQueue k x).agentRel = s.agentRel := rfl
@[simp] theorem State.setQueue_routes : (s.setQueue k x).routes = s.routes := rfl
@[simp] theorem State.setQueue_areqs : (s.setQueue k x).areqs = s.areqs := rfl
@[simp] theorem State.setQueue_heard : (s.setQueue k x).heard = s.heard := rfl
@[simp] theorem State.setQueue_ideBad : (s.setQueue k x).ideBad = s.ideBad := rfl
@[simp] theorem State.setQueue_fns : (s.setQueue k x).fns = s.fns := rfl
@[simp] theorem State.setQueue_allot : (s.setQueue k x).allot = s.allot := rfl
@[simp] theorem State.setQueue_worlds : (s.setQueue k x).worlds = s.worlds := rfl
@[simp] theorem State.setQueue_dying : (s.setQueue k x).dying = s.dying := rfl
@[simp] theorem State.setQueue_wmap : (s.setQueue k x).wmap = s.wmap := rfl
@[simp] theorem State.setQueue_assigns : (s.setQueue k x).assigns = s.assigns := rfl
@[simp] theorem State.setQueue_linkKeys : (s.setQueue k x).linkKeys = s.linkKeys := rfl
@[simp] theorem State.setQueue_crossed : (s.setQueue k x).crossed = s.crossed := rfl
@[simp] theorem State.setQueue_meas : (s.setQueue k x).meas = s.meas := rfl
@[simp] theorem State.setQueue_boot : (s.setQueue k x).boot = s.boot := rfl
@[simp] theorem State.setQueue_serials : (s.setQueue k x).serials = s.serials := rfl
@[simp] theorem State.setQueue_slots : (s.setQueue k x).slots = s.slots := rfl
@[simp] theorem State.setQueue_spdm : (s.setQueue k x).spdm = s.spdm := rfl
@[simp] theorem State.setQueue_entropy : (s.setQueue k x).entropy = s.entropy := rfl
@[simp] theorem State.setQueue_mem : (s.setQueue k x).mem = s.mem := rfl
@[simp] theorem State.setQueue_lines : (s.setQueue k x).lines = s.lines := rfl
@[simp] theorem State.setQueue_roots : (s.setQueue k x).roots = s.roots := rfl
@[simp] theorem State.setQueue_cores : (s.setQueue k x).cores = s.cores := rfl
@[simp] theorem State.setQueue_clusterTlb : (s.setQueue k x).clusterTlb = s.clusterTlb := rfl
@[simp] theorem State.setQueue_remote : (s.setQueue k x).remote = s.remote := rfl
@[simp] theorem State.setQueue_presence : (s.setQueue k x).presence = s.presence := rfl
@[simp] theorem State.setQueue_reqs : (s.setQueue k x).reqs = s.reqs := rfl
@[simp] theorem State.setQueue_logsDue : (s.setQueue k x).logsDue = s.logsDue := rfl
@[simp] theorem State.setQueue_invalidating : (s.setQueue k x).invalidating = s.invalidating := rfl
@[simp] theorem State.setQueue_queues : (s.setQueue k x).queues = s.queues.put k x := rfl
@[simp] theorem State.setQueue_rotation : (s.setQueue k x).rotation = s.rotation := rfl
@[simp] theorem State.setQueue_disps : (s.setQueue k x).disps = s.disps := rfl
@[simp] theorem State.setQueue_ties : (s.setQueue k x).ties = s.ties := rfl
@[simp] theorem State.setQueue_launches : (s.setQueue k x).launches = s.launches := rfl
@[simp] theorem State.setQueue_ctxs : (s.setQueue k x).ctxs = s.ctxs := rfl
@[simp] theorem State.setQueue_inbound : (s.setQueue k x).inbound = s.inbound := rfl
@[simp] theorem State.setQueue_pod : (s.setQueue k x).pod = s.pod := rfl
@[simp] theorem State.setQueue_poolDir : (s.setQueue k x).poolDir = s.poolDir := rfl
@[simp] theorem State.setQueue_poolNext : (s.setQueue k x).poolNext = s.poolNext := rfl
@[simp] theorem State.setQueue_reserveUsed : (s.setQueue k x).reserveUsed = s.reserveUsed := rfl
@[simp] theorem State.setQueue_sessions : (s.setQueue k x).sessions = s.sessions := rfl
@[simp] theorem State.setQueue_teams : (s.setQueue k x).teams = s.teams := rfl
@[simp] theorem State.setQueue_flights : (s.setQueue k x).flights = s.flights := rfl
@[simp] theorem State.setQueue_copies : (s.setQueue k x).copies = s.copies := rfl
@[simp] theorem State.setQueue_ecc : (s.setQueue k x).ecc = s.ecc := rfl
@[simp] theorem State.setQueue_agenda : (s.setQueue k x).agenda = s.agenda := rfl
@[simp] theorem State.setQueue_team : (s.setQueue k x).team = s.team := rfl
@[simp] theorem State.setQueue_sq : (s.setQueue k x).sq = s.sq := rfl
@[simp] theorem State.setQueue_who : (s.setQueue k x).who = s.who := rfl
@[simp] theorem State.setQueue_rr : (s.setQueue k x).rr = s.rr := rfl
@[simp] theorem State.setQueue_fresh : (s.setQueue k x).fresh = s.fresh := rfl
@[simp] theorem State.setQueue_free : (s.setQueue k x).free = s.free := rfl
@[simp] theorem State.setQueue_out : (s.setQueue k x).out = s.out := rfl
end

section
variable (s : State) (k : Nat) (x : Port)
@[simp] theorem State.setPort_power : (s.setPort k x).power = s.power := rfl
@[simp] theorem State.setPort_d3wait : (s.setPort k x).d3wait = s.d3wait := rfl
@[simp] theorem State.setPort_stepping : (s.setPort k x).stepping = s.stepping := rfl
@[simp] theorem State.setPort_fuseVersion : (s.setPort k x).fuseVersion = s.fuseVersion := rfl
@[simp] theorem State.setPort_fuseDebug : (s.setPort k x).fuseDebug = s.fuseDebug := rfl
@[simp] theorem State.setPort_fuseSecret : (s.setPort k x).fuseSecret = s.fuseSecret := rfl
@[simp] theorem State.setPort_clocks : (s.setPort k x).clocks = s.clocks := rfl
@[simp] theorem State.setPort_cycles : (s.setPort k x).cycles = s.cycles := rfl
@[simp] theorem State.setPort_ticks : (s.setPort k x).ticks = s.ticks := rfl
@[simp] theorem State.setPort_fabid : (s.setPort k x).fabid = s.fabid := rfl
@[simp] theorem State.setPort_pwrcap : (s.setPort k x).pwrcap = s.pwrcap := rfl
@[simp] theorem State.setPort_draindl : (s.setPort k x).draindl = s.draindl := rfl
@[simp] theorem State.setPort_podpool : (s.setPort k x).podpool = s.podpool := rfl
@[simp] theorem State.setPort_podsize : (s.setPort k x).podsize = s.podsize := rfl
@[simp] theorem State.setPort_asytolr : (s.setPort k x).asytolr = s.asytolr := rfl
@[simp] theorem State.setPort_asytolc : (s.setPort k x).asytolc = s.asytolc := rfl
@[simp] theorem State.setPort_asyinj : (s.setPort k x).asyinj = s.asyinj := rfl
@[simp] theorem State.setPort_mgmtBase : (s.setPort k x).mgmtBase = s.mgmtBase := rfl
@[simp] theorem State.setPort_mgmtSize : (s.setPort k x).mgmtSize = s.mgmtSize := rfl
@[simp] theorem State.setPort_failTimeout : (s.setPort k x).failTimeout = s.failTimeout := rfl
@[simp] theorem State.setPort_ports : (s.setPort k x).ports = s.ports.store {} k x := rfl
@[simp] theorem State.setPort_conns : (s.setPort k x).conns = s.conns := rfl
@[simp] theorem State.setPort_gathers : (s.setPort k x).gathers = s.gathers := rfl
@[simp] theorem State.setPort_pairKeys : (s.setPort k x).pairKeys = s.pairKeys := rfl
@[simp] theorem State.setPort_pairBase : (s.setPort k x).pairBase = s.pairBase := rfl
@[simp] theorem State.setPort_inreqs : (s.setPort k x).inreqs = s.inreqs := rfl
@[simp] theorem State.setPort_agentRel : (s.setPort k x).agentRel = s.agentRel := rfl
@[simp] theorem State.setPort_routes : (s.setPort k x).routes = s.routes := rfl
@[simp] theorem State.setPort_areqs : (s.setPort k x).areqs = s.areqs := rfl
@[simp] theorem State.setPort_heard : (s.setPort k x).heard = s.heard := rfl
@[simp] theorem State.setPort_ideBad : (s.setPort k x).ideBad = s.ideBad := rfl
@[simp] theorem State.setPort_fns : (s.setPort k x).fns = s.fns := rfl
@[simp] theorem State.setPort_allot : (s.setPort k x).allot = s.allot := rfl
@[simp] theorem State.setPort_worlds : (s.setPort k x).worlds = s.worlds := rfl
@[simp] theorem State.setPort_dying : (s.setPort k x).dying = s.dying := rfl
@[simp] theorem State.setPort_wmap : (s.setPort k x).wmap = s.wmap := rfl
@[simp] theorem State.setPort_assigns : (s.setPort k x).assigns = s.assigns := rfl
@[simp] theorem State.setPort_linkKeys : (s.setPort k x).linkKeys = s.linkKeys := rfl
@[simp] theorem State.setPort_crossed : (s.setPort k x).crossed = s.crossed := rfl
@[simp] theorem State.setPort_meas : (s.setPort k x).meas = s.meas := rfl
@[simp] theorem State.setPort_boot : (s.setPort k x).boot = s.boot := rfl
@[simp] theorem State.setPort_serials : (s.setPort k x).serials = s.serials := rfl
@[simp] theorem State.setPort_slots : (s.setPort k x).slots = s.slots := rfl
@[simp] theorem State.setPort_spdm : (s.setPort k x).spdm = s.spdm := rfl
@[simp] theorem State.setPort_entropy : (s.setPort k x).entropy = s.entropy := rfl
@[simp] theorem State.setPort_mem : (s.setPort k x).mem = s.mem := rfl
@[simp] theorem State.setPort_lines : (s.setPort k x).lines = s.lines := rfl
@[simp] theorem State.setPort_roots : (s.setPort k x).roots = s.roots := rfl
@[simp] theorem State.setPort_cores : (s.setPort k x).cores = s.cores := rfl
@[simp] theorem State.setPort_clusterTlb : (s.setPort k x).clusterTlb = s.clusterTlb := rfl
@[simp] theorem State.setPort_remote : (s.setPort k x).remote = s.remote := rfl
@[simp] theorem State.setPort_presence : (s.setPort k x).presence = s.presence := rfl
@[simp] theorem State.setPort_reqs : (s.setPort k x).reqs = s.reqs := rfl
@[simp] theorem State.setPort_logsDue : (s.setPort k x).logsDue = s.logsDue := rfl
@[simp] theorem State.setPort_invalidating : (s.setPort k x).invalidating = s.invalidating := rfl
@[simp] theorem State.setPort_queues : (s.setPort k x).queues = s.queues := rfl
@[simp] theorem State.setPort_rotation : (s.setPort k x).rotation = s.rotation := rfl
@[simp] theorem State.setPort_disps : (s.setPort k x).disps = s.disps := rfl
@[simp] theorem State.setPort_ties : (s.setPort k x).ties = s.ties := rfl
@[simp] theorem State.setPort_launches : (s.setPort k x).launches = s.launches := rfl
@[simp] theorem State.setPort_ctxs : (s.setPort k x).ctxs = s.ctxs := rfl
@[simp] theorem State.setPort_inbound : (s.setPort k x).inbound = s.inbound := rfl
@[simp] theorem State.setPort_pod : (s.setPort k x).pod = s.pod := rfl
@[simp] theorem State.setPort_poolDir : (s.setPort k x).poolDir = s.poolDir := rfl
@[simp] theorem State.setPort_poolNext : (s.setPort k x).poolNext = s.poolNext := rfl
@[simp] theorem State.setPort_reserveUsed : (s.setPort k x).reserveUsed = s.reserveUsed := rfl
@[simp] theorem State.setPort_sessions : (s.setPort k x).sessions = s.sessions := rfl
@[simp] theorem State.setPort_teams : (s.setPort k x).teams = s.teams := rfl
@[simp] theorem State.setPort_flights : (s.setPort k x).flights = s.flights := rfl
@[simp] theorem State.setPort_copies : (s.setPort k x).copies = s.copies := rfl
@[simp] theorem State.setPort_ecc : (s.setPort k x).ecc = s.ecc := rfl
@[simp] theorem State.setPort_agenda : (s.setPort k x).agenda = s.agenda := rfl
@[simp] theorem State.setPort_team : (s.setPort k x).team = s.team := rfl
@[simp] theorem State.setPort_sq : (s.setPort k x).sq = s.sq := rfl
@[simp] theorem State.setPort_who : (s.setPort k x).who = s.who := rfl
@[simp] theorem State.setPort_rr : (s.setPort k x).rr = s.rr := rfl
@[simp] theorem State.setPort_fresh : (s.setPort k x).fresh = s.fresh := rfl
@[simp] theorem State.setPort_free : (s.setPort k x).free = s.free := rfl
@[simp] theorem State.setPort_out : (s.setPort k x).out = s.out := rfl
end

section
variable (s : State) (k : Nat) (x : LineMeta)
@[simp] theorem State.setLine_power : (s.setLine k x).power = s.power := rfl
@[simp] theorem State.setLine_d3wait : (s.setLine k x).d3wait = s.d3wait := rfl
@[simp] theorem State.setLine_stepping : (s.setLine k x).stepping = s.stepping := rfl
@[simp] theorem State.setLine_fuseVersion : (s.setLine k x).fuseVersion = s.fuseVersion := rfl
@[simp] theorem State.setLine_fuseDebug : (s.setLine k x).fuseDebug = s.fuseDebug := rfl
@[simp] theorem State.setLine_fuseSecret : (s.setLine k x).fuseSecret = s.fuseSecret := rfl
@[simp] theorem State.setLine_clocks : (s.setLine k x).clocks = s.clocks := rfl
@[simp] theorem State.setLine_cycles : (s.setLine k x).cycles = s.cycles := rfl
@[simp] theorem State.setLine_ticks : (s.setLine k x).ticks = s.ticks := rfl
@[simp] theorem State.setLine_fabid : (s.setLine k x).fabid = s.fabid := rfl
@[simp] theorem State.setLine_pwrcap : (s.setLine k x).pwrcap = s.pwrcap := rfl
@[simp] theorem State.setLine_draindl : (s.setLine k x).draindl = s.draindl := rfl
@[simp] theorem State.setLine_podpool : (s.setLine k x).podpool = s.podpool := rfl
@[simp] theorem State.setLine_podsize : (s.setLine k x).podsize = s.podsize := rfl
@[simp] theorem State.setLine_asytolr : (s.setLine k x).asytolr = s.asytolr := rfl
@[simp] theorem State.setLine_asytolc : (s.setLine k x).asytolc = s.asytolc := rfl
@[simp] theorem State.setLine_asyinj : (s.setLine k x).asyinj = s.asyinj := rfl
@[simp] theorem State.setLine_mgmtBase : (s.setLine k x).mgmtBase = s.mgmtBase := rfl
@[simp] theorem State.setLine_mgmtSize : (s.setLine k x).mgmtSize = s.mgmtSize := rfl
@[simp] theorem State.setLine_failTimeout : (s.setLine k x).failTimeout = s.failTimeout := rfl
@[simp] theorem State.setLine_ports : (s.setLine k x).ports = s.ports := rfl
@[simp] theorem State.setLine_conns : (s.setLine k x).conns = s.conns := rfl
@[simp] theorem State.setLine_gathers : (s.setLine k x).gathers = s.gathers := rfl
@[simp] theorem State.setLine_pairKeys : (s.setLine k x).pairKeys = s.pairKeys := rfl
@[simp] theorem State.setLine_pairBase : (s.setLine k x).pairBase = s.pairBase := rfl
@[simp] theorem State.setLine_inreqs : (s.setLine k x).inreqs = s.inreqs := rfl
@[simp] theorem State.setLine_agentRel : (s.setLine k x).agentRel = s.agentRel := rfl
@[simp] theorem State.setLine_routes : (s.setLine k x).routes = s.routes := rfl
@[simp] theorem State.setLine_areqs : (s.setLine k x).areqs = s.areqs := rfl
@[simp] theorem State.setLine_heard : (s.setLine k x).heard = s.heard := rfl
@[simp] theorem State.setLine_ideBad : (s.setLine k x).ideBad = s.ideBad := rfl
@[simp] theorem State.setLine_fns : (s.setLine k x).fns = s.fns := rfl
@[simp] theorem State.setLine_allot : (s.setLine k x).allot = s.allot := rfl
@[simp] theorem State.setLine_worlds : (s.setLine k x).worlds = s.worlds := rfl
@[simp] theorem State.setLine_dying : (s.setLine k x).dying = s.dying := rfl
@[simp] theorem State.setLine_wmap : (s.setLine k x).wmap = s.wmap := rfl
@[simp] theorem State.setLine_assigns : (s.setLine k x).assigns = s.assigns := rfl
@[simp] theorem State.setLine_linkKeys : (s.setLine k x).linkKeys = s.linkKeys := rfl
@[simp] theorem State.setLine_crossed : (s.setLine k x).crossed = s.crossed := rfl
@[simp] theorem State.setLine_meas : (s.setLine k x).meas = s.meas := rfl
@[simp] theorem State.setLine_boot : (s.setLine k x).boot = s.boot := rfl
@[simp] theorem State.setLine_serials : (s.setLine k x).serials = s.serials := rfl
@[simp] theorem State.setLine_slots : (s.setLine k x).slots = s.slots := rfl
@[simp] theorem State.setLine_spdm : (s.setLine k x).spdm = s.spdm := rfl
@[simp] theorem State.setLine_entropy : (s.setLine k x).entropy = s.entropy := rfl
@[simp] theorem State.setLine_mem : (s.setLine k x).mem = s.mem := rfl
@[simp] theorem State.setLine_lines : (s.setLine k x).lines = s.lines.store {} (k / 128) x := rfl
@[simp] theorem State.setLine_roots : (s.setLine k x).roots = s.roots := rfl
@[simp] theorem State.setLine_cores : (s.setLine k x).cores = s.cores := rfl
@[simp] theorem State.setLine_clusterTlb : (s.setLine k x).clusterTlb = s.clusterTlb := rfl
@[simp] theorem State.setLine_remote : (s.setLine k x).remote = s.remote := rfl
@[simp] theorem State.setLine_presence : (s.setLine k x).presence = s.presence := rfl
@[simp] theorem State.setLine_reqs : (s.setLine k x).reqs = s.reqs := rfl
@[simp] theorem State.setLine_logsDue : (s.setLine k x).logsDue = s.logsDue := rfl
@[simp] theorem State.setLine_invalidating : (s.setLine k x).invalidating = s.invalidating := rfl
@[simp] theorem State.setLine_queues : (s.setLine k x).queues = s.queues := rfl
@[simp] theorem State.setLine_rotation : (s.setLine k x).rotation = s.rotation := rfl
@[simp] theorem State.setLine_disps : (s.setLine k x).disps = s.disps := rfl
@[simp] theorem State.setLine_ties : (s.setLine k x).ties = s.ties := rfl
@[simp] theorem State.setLine_launches : (s.setLine k x).launches = s.launches := rfl
@[simp] theorem State.setLine_ctxs : (s.setLine k x).ctxs = s.ctxs := rfl
@[simp] theorem State.setLine_inbound : (s.setLine k x).inbound = s.inbound := rfl
@[simp] theorem State.setLine_pod : (s.setLine k x).pod = s.pod := rfl
@[simp] theorem State.setLine_poolDir : (s.setLine k x).poolDir = s.poolDir := rfl
@[simp] theorem State.setLine_poolNext : (s.setLine k x).poolNext = s.poolNext := rfl
@[simp] theorem State.setLine_reserveUsed : (s.setLine k x).reserveUsed = s.reserveUsed := rfl
@[simp] theorem State.setLine_sessions : (s.setLine k x).sessions = s.sessions := rfl
@[simp] theorem State.setLine_teams : (s.setLine k x).teams = s.teams := rfl
@[simp] theorem State.setLine_flights : (s.setLine k x).flights = s.flights := rfl
@[simp] theorem State.setLine_copies : (s.setLine k x).copies = s.copies := rfl
@[simp] theorem State.setLine_ecc : (s.setLine k x).ecc = s.ecc := rfl
@[simp] theorem State.setLine_agenda : (s.setLine k x).agenda = s.agenda := rfl
@[simp] theorem State.setLine_team : (s.setLine k x).team = s.team := rfl
@[simp] theorem State.setLine_sq : (s.setLine k x).sq = s.sq := rfl
@[simp] theorem State.setLine_who : (s.setLine k x).who = s.who := rfl
@[simp] theorem State.setLine_rr : (s.setLine k x).rr = s.rr := rfl
@[simp] theorem State.setLine_fresh : (s.setLine k x).fresh = s.fresh := rfl
@[simp] theorem State.setLine_free : (s.setLine k x).free = s.free := rfl
@[simp] theorem State.setLine_out : (s.setLine k x).out = s.out := rfl
end

section
variable (s : State) (k : Nat) (x : Byte)
@[simp] theorem State.setByte_power : (s.setByte k x).power = s.power := rfl
@[simp] theorem State.setByte_d3wait : (s.setByte k x).d3wait = s.d3wait := rfl
@[simp] theorem State.setByte_stepping : (s.setByte k x).stepping = s.stepping := rfl
@[simp] theorem State.setByte_fuseVersion : (s.setByte k x).fuseVersion = s.fuseVersion := rfl
@[simp] theorem State.setByte_fuseDebug : (s.setByte k x).fuseDebug = s.fuseDebug := rfl
@[simp] theorem State.setByte_fuseSecret : (s.setByte k x).fuseSecret = s.fuseSecret := rfl
@[simp] theorem State.setByte_clocks : (s.setByte k x).clocks = s.clocks := rfl
@[simp] theorem State.setByte_cycles : (s.setByte k x).cycles = s.cycles := rfl
@[simp] theorem State.setByte_ticks : (s.setByte k x).ticks = s.ticks := rfl
@[simp] theorem State.setByte_fabid : (s.setByte k x).fabid = s.fabid := rfl
@[simp] theorem State.setByte_pwrcap : (s.setByte k x).pwrcap = s.pwrcap := rfl
@[simp] theorem State.setByte_draindl : (s.setByte k x).draindl = s.draindl := rfl
@[simp] theorem State.setByte_podpool : (s.setByte k x).podpool = s.podpool := rfl
@[simp] theorem State.setByte_podsize : (s.setByte k x).podsize = s.podsize := rfl
@[simp] theorem State.setByte_asytolr : (s.setByte k x).asytolr = s.asytolr := rfl
@[simp] theorem State.setByte_asytolc : (s.setByte k x).asytolc = s.asytolc := rfl
@[simp] theorem State.setByte_asyinj : (s.setByte k x).asyinj = s.asyinj := rfl
@[simp] theorem State.setByte_mgmtBase : (s.setByte k x).mgmtBase = s.mgmtBase := rfl
@[simp] theorem State.setByte_mgmtSize : (s.setByte k x).mgmtSize = s.mgmtSize := rfl
@[simp] theorem State.setByte_failTimeout : (s.setByte k x).failTimeout = s.failTimeout := rfl
@[simp] theorem State.setByte_ports : (s.setByte k x).ports = s.ports := rfl
@[simp] theorem State.setByte_conns : (s.setByte k x).conns = s.conns := rfl
@[simp] theorem State.setByte_gathers : (s.setByte k x).gathers = s.gathers := rfl
@[simp] theorem State.setByte_pairKeys : (s.setByte k x).pairKeys = s.pairKeys := rfl
@[simp] theorem State.setByte_pairBase : (s.setByte k x).pairBase = s.pairBase := rfl
@[simp] theorem State.setByte_inreqs : (s.setByte k x).inreqs = s.inreqs := rfl
@[simp] theorem State.setByte_agentRel : (s.setByte k x).agentRel = s.agentRel := rfl
@[simp] theorem State.setByte_routes : (s.setByte k x).routes = s.routes := rfl
@[simp] theorem State.setByte_areqs : (s.setByte k x).areqs = s.areqs := rfl
@[simp] theorem State.setByte_heard : (s.setByte k x).heard = s.heard := rfl
@[simp] theorem State.setByte_ideBad : (s.setByte k x).ideBad = s.ideBad := rfl
@[simp] theorem State.setByte_fns : (s.setByte k x).fns = s.fns := rfl
@[simp] theorem State.setByte_allot : (s.setByte k x).allot = s.allot := rfl
@[simp] theorem State.setByte_worlds : (s.setByte k x).worlds = s.worlds := rfl
@[simp] theorem State.setByte_dying : (s.setByte k x).dying = s.dying := rfl
@[simp] theorem State.setByte_wmap : (s.setByte k x).wmap = s.wmap := rfl
@[simp] theorem State.setByte_assigns : (s.setByte k x).assigns = s.assigns := rfl
@[simp] theorem State.setByte_linkKeys : (s.setByte k x).linkKeys = s.linkKeys := rfl
@[simp] theorem State.setByte_crossed : (s.setByte k x).crossed = s.crossed := rfl
@[simp] theorem State.setByte_meas : (s.setByte k x).meas = s.meas := rfl
@[simp] theorem State.setByte_boot : (s.setByte k x).boot = s.boot := rfl
@[simp] theorem State.setByte_serials : (s.setByte k x).serials = s.serials := rfl
@[simp] theorem State.setByte_slots : (s.setByte k x).slots = s.slots := rfl
@[simp] theorem State.setByte_spdm : (s.setByte k x).spdm = s.spdm := rfl
@[simp] theorem State.setByte_entropy : (s.setByte k x).entropy = s.entropy := rfl
@[simp] theorem State.setByte_mem : (s.setByte k x).mem = Map.store unlisted s.mem k x := rfl
@[simp] theorem State.setByte_lines : (s.setByte k x).lines = s.lines := rfl
@[simp] theorem State.setByte_roots : (s.setByte k x).roots = s.roots := rfl
@[simp] theorem State.setByte_cores : (s.setByte k x).cores = s.cores := rfl
@[simp] theorem State.setByte_clusterTlb : (s.setByte k x).clusterTlb = s.clusterTlb := rfl
@[simp] theorem State.setByte_remote : (s.setByte k x).remote = s.remote := rfl
@[simp] theorem State.setByte_presence : (s.setByte k x).presence = s.presence := rfl
@[simp] theorem State.setByte_reqs : (s.setByte k x).reqs = s.reqs := rfl
@[simp] theorem State.setByte_logsDue : (s.setByte k x).logsDue = s.logsDue := rfl
@[simp] theorem State.setByte_invalidating : (s.setByte k x).invalidating = s.invalidating := rfl
@[simp] theorem State.setByte_queues : (s.setByte k x).queues = s.queues := rfl
@[simp] theorem State.setByte_rotation : (s.setByte k x).rotation = s.rotation := rfl
@[simp] theorem State.setByte_disps : (s.setByte k x).disps = s.disps := rfl
@[simp] theorem State.setByte_ties : (s.setByte k x).ties = s.ties := rfl
@[simp] theorem State.setByte_launches : (s.setByte k x).launches = s.launches := rfl
@[simp] theorem State.setByte_ctxs : (s.setByte k x).ctxs = s.ctxs := rfl
@[simp] theorem State.setByte_inbound : (s.setByte k x).inbound = s.inbound := rfl
@[simp] theorem State.setByte_pod : (s.setByte k x).pod = s.pod := rfl
@[simp] theorem State.setByte_poolDir : (s.setByte k x).poolDir = s.poolDir := rfl
@[simp] theorem State.setByte_poolNext : (s.setByte k x).poolNext = s.poolNext := rfl
@[simp] theorem State.setByte_reserveUsed : (s.setByte k x).reserveUsed = s.reserveUsed := rfl
@[simp] theorem State.setByte_sessions : (s.setByte k x).sessions = s.sessions := rfl
@[simp] theorem State.setByte_teams : (s.setByte k x).teams = s.teams := rfl
@[simp] theorem State.setByte_flights : (s.setByte k x).flights = s.flights := rfl
@[simp] theorem State.setByte_copies : (s.setByte k x).copies = s.copies := rfl
@[simp] theorem State.setByte_ecc : (s.setByte k x).ecc = s.ecc := rfl
@[simp] theorem State.setByte_agenda : (s.setByte k x).agenda = s.agenda := rfl
@[simp] theorem State.setByte_team : (s.setByte k x).team = s.team := rfl
@[simp] theorem State.setByte_sq : (s.setByte k x).sq = s.sq := rfl
@[simp] theorem State.setByte_who : (s.setByte k x).who = s.who := rfl
@[simp] theorem State.setByte_rr : (s.setByte k x).rr = s.rr := rfl
@[simp] theorem State.setByte_fresh : (s.setByte k x).fresh = s.fresh := rfl
@[simp] theorem State.setByte_free : (s.setByte k x).free = s.free := rfl
@[simp] theorem State.setByte_out : (s.setByte k x).out = s.out := rfl
end

section
variable (s : State) (o : Out)
@[simp] theorem State.send_power : (s.send o).power = s.power := rfl
@[simp] theorem State.send_d3wait : (s.send o).d3wait = s.d3wait := rfl
@[simp] theorem State.send_stepping : (s.send o).stepping = s.stepping := rfl
@[simp] theorem State.send_fuseVersion : (s.send o).fuseVersion = s.fuseVersion := rfl
@[simp] theorem State.send_fuseDebug : (s.send o).fuseDebug = s.fuseDebug := rfl
@[simp] theorem State.send_fuseSecret : (s.send o).fuseSecret = s.fuseSecret := rfl
@[simp] theorem State.send_clocks : (s.send o).clocks = s.clocks := rfl
@[simp] theorem State.send_cycles : (s.send o).cycles = s.cycles := rfl
@[simp] theorem State.send_ticks : (s.send o).ticks = s.ticks := rfl
@[simp] theorem State.send_fabid : (s.send o).fabid = s.fabid := rfl
@[simp] theorem State.send_pwrcap : (s.send o).pwrcap = s.pwrcap := rfl
@[simp] theorem State.send_draindl : (s.send o).draindl = s.draindl := rfl
@[simp] theorem State.send_podpool : (s.send o).podpool = s.podpool := rfl
@[simp] theorem State.send_podsize : (s.send o).podsize = s.podsize := rfl
@[simp] theorem State.send_asytolr : (s.send o).asytolr = s.asytolr := rfl
@[simp] theorem State.send_asytolc : (s.send o).asytolc = s.asytolc := rfl
@[simp] theorem State.send_asyinj : (s.send o).asyinj = s.asyinj := rfl
@[simp] theorem State.send_mgmtBase : (s.send o).mgmtBase = s.mgmtBase := rfl
@[simp] theorem State.send_mgmtSize : (s.send o).mgmtSize = s.mgmtSize := rfl
@[simp] theorem State.send_failTimeout : (s.send o).failTimeout = s.failTimeout := rfl
@[simp] theorem State.send_ports : (s.send o).ports = s.ports := rfl
@[simp] theorem State.send_conns : (s.send o).conns = s.conns := rfl
@[simp] theorem State.send_gathers : (s.send o).gathers = s.gathers := rfl
@[simp] theorem State.send_pairKeys : (s.send o).pairKeys = s.pairKeys := rfl
@[simp] theorem State.send_pairBase : (s.send o).pairBase = s.pairBase := rfl
@[simp] theorem State.send_inreqs : (s.send o).inreqs = s.inreqs := rfl
@[simp] theorem State.send_agentRel : (s.send o).agentRel = s.agentRel := rfl
@[simp] theorem State.send_routes : (s.send o).routes = s.routes := rfl
@[simp] theorem State.send_areqs : (s.send o).areqs = s.areqs := rfl
@[simp] theorem State.send_heard : (s.send o).heard = s.heard := rfl
@[simp] theorem State.send_ideBad : (s.send o).ideBad = s.ideBad := rfl
@[simp] theorem State.send_fns : (s.send o).fns = s.fns := rfl
@[simp] theorem State.send_allot : (s.send o).allot = s.allot := rfl
@[simp] theorem State.send_worlds : (s.send o).worlds = s.worlds := rfl
@[simp] theorem State.send_dying : (s.send o).dying = s.dying := rfl
@[simp] theorem State.send_wmap : (s.send o).wmap = s.wmap := rfl
@[simp] theorem State.send_assigns : (s.send o).assigns = s.assigns := rfl
@[simp] theorem State.send_linkKeys : (s.send o).linkKeys = s.linkKeys := rfl
@[simp] theorem State.send_crossed : (s.send o).crossed = s.crossed := rfl
@[simp] theorem State.send_meas : (s.send o).meas = s.meas := rfl
@[simp] theorem State.send_boot : (s.send o).boot = s.boot := rfl
@[simp] theorem State.send_serials : (s.send o).serials = s.serials := rfl
@[simp] theorem State.send_slots : (s.send o).slots = s.slots := rfl
@[simp] theorem State.send_spdm : (s.send o).spdm = s.spdm := rfl
@[simp] theorem State.send_entropy : (s.send o).entropy = s.entropy := rfl
@[simp] theorem State.send_mem : (s.send o).mem = s.mem := rfl
@[simp] theorem State.send_lines : (s.send o).lines = s.lines := rfl
@[simp] theorem State.send_roots : (s.send o).roots = s.roots := rfl
@[simp] theorem State.send_cores : (s.send o).cores = s.cores := rfl
@[simp] theorem State.send_clusterTlb : (s.send o).clusterTlb = s.clusterTlb := rfl
@[simp] theorem State.send_remote : (s.send o).remote = s.remote := rfl
@[simp] theorem State.send_presence : (s.send o).presence = s.presence := rfl
@[simp] theorem State.send_reqs : (s.send o).reqs = s.reqs := rfl
@[simp] theorem State.send_logsDue : (s.send o).logsDue = s.logsDue := rfl
@[simp] theorem State.send_invalidating : (s.send o).invalidating = s.invalidating := rfl
@[simp] theorem State.send_queues : (s.send o).queues = s.queues := rfl
@[simp] theorem State.send_rotation : (s.send o).rotation = s.rotation := rfl
@[simp] theorem State.send_disps : (s.send o).disps = s.disps := rfl
@[simp] theorem State.send_ties : (s.send o).ties = s.ties := rfl
@[simp] theorem State.send_launches : (s.send o).launches = s.launches := rfl
@[simp] theorem State.send_ctxs : (s.send o).ctxs = s.ctxs := rfl
@[simp] theorem State.send_inbound : (s.send o).inbound = s.inbound := rfl
@[simp] theorem State.send_pod : (s.send o).pod = s.pod := rfl
@[simp] theorem State.send_poolDir : (s.send o).poolDir = s.poolDir := rfl
@[simp] theorem State.send_poolNext : (s.send o).poolNext = s.poolNext := rfl
@[simp] theorem State.send_reserveUsed : (s.send o).reserveUsed = s.reserveUsed := rfl
@[simp] theorem State.send_sessions : (s.send o).sessions = s.sessions := rfl
@[simp] theorem State.send_teams : (s.send o).teams = s.teams := rfl
@[simp] theorem State.send_flights : (s.send o).flights = s.flights := rfl
@[simp] theorem State.send_copies : (s.send o).copies = s.copies := rfl
@[simp] theorem State.send_ecc : (s.send o).ecc = s.ecc := rfl
@[simp] theorem State.send_agenda : (s.send o).agenda = s.agenda := rfl
@[simp] theorem State.send_team : (s.send o).team = s.team := rfl
@[simp] theorem State.send_sq : (s.send o).sq = s.sq := rfl
@[simp] theorem State.send_who : (s.send o).who = s.who := rfl
@[simp] theorem State.send_rr : (s.send o).rr = s.rr := rfl
@[simp] theorem State.send_fresh : (s.send o).fresh = s.fresh := rfl
@[simp] theorem State.send_free : (s.send o).free = s.free := rfl
@[simp] theorem State.send_out : (s.send o).out = s.out ++ [o] := rfl
end

section
variable (t : Team) (k : Nat) (x : Thread)
@[simp] theorem Team.setThread_launch : (t.setThread k x).launch = t.launch := rfl
@[simp] theorem Team.setThread_stage : (t.setThread k x).stage = t.stage := rfl
@[simp] theorem Team.setThread_en : (t.setThread k x).en = t.en := rfl
@[simp] theorem Team.setThread_enx : (t.setThread k x).enx = t.enx := rfl
@[simp] theorem Team.setThread_eny : (t.setThread k x).eny = t.eny := rfl
@[simp] theorem Team.setThread_enz : (t.setThread k x).enz = t.enz := rfl
@[simp] theorem Team.setThread_tm : (t.setThread k x).tm = t.tm := rfl
@[simp] theorem Team.setThread_nrec : (t.setThread k x).nrec = t.nrec := rfl
@[simp] theorem Team.setThread_core : (t.setThread k x).core = t.core := rfl
@[simp] theorem Team.setThread_ens : (t.setThread k x).ens = t.ens := rfl
@[simp] theorem Team.setThread_reserved : (t.setThread k x).reserved = t.reserved := rfl
@[simp] theorem Team.setThread_fpctl : (t.setThread k x).fpctl = t.fpctl := rfl
@[simp] theorem Team.setThread_recs : (t.setThread k x).recs = t.recs := rfl
@[simp] theorem Team.setThread_fms : (t.setThread k x).fms = t.fms := rfl
@[simp] theorem Team.setThread_tiles : (t.setThread k x).tiles = t.tiles := rfl
@[simp] theorem Team.setThread_bars : (t.setThread k x).bars = t.bars := rfl
@[simp] theorem Team.setThread_slice : (t.setThread k x).slice = t.slice := rfl
@[simp] theorem Team.setThread_squads : (t.setThread k x).squads = t.squads := rfl
@[simp] theorem Team.setThread_threads : (t.setThread k x).threads = t.threads.set k x := rfl
@[simp] theorem Team.setThread_phase : (t.setThread k x).phase = t.phase := rfl
@[simp] theorem Team.setThread_halting : (t.setThread k x).halting = t.halting := rfl
@[simp] theorem Team.setThread_waking : (t.setThread k x).waking = t.waking := rfl
@[simp] theorem Team.setThread_held : (t.setThread k x).held = t.held := rfl
@[simp] theorem Team.setThread_stepping : (t.setThread k x).stepping = t.stepping := rfl
@[simp] theorem Team.setThread_heldWait : (t.setThread k x).heldWait = t.heldWait := rfl
@[simp] theorem Team.setThread_heldPark : (t.setThread k x).heldPark = t.heldPark := rfl
end

section
variable (t : Team) (k : Nat) (x : Squad)
@[simp] theorem Team.setSquad_launch : (t.setSquad k x).launch = t.launch := rfl
@[simp] theorem Team.setSquad_stage : (t.setSquad k x).stage = t.stage := rfl
@[simp] theorem Team.setSquad_en : (t.setSquad k x).en = t.en := rfl
@[simp] theorem Team.setSquad_enx : (t.setSquad k x).enx = t.enx := rfl
@[simp] theorem Team.setSquad_eny : (t.setSquad k x).eny = t.eny := rfl
@[simp] theorem Team.setSquad_enz : (t.setSquad k x).enz = t.enz := rfl
@[simp] theorem Team.setSquad_tm : (t.setSquad k x).tm = t.tm := rfl
@[simp] theorem Team.setSquad_nrec : (t.setSquad k x).nrec = t.nrec := rfl
@[simp] theorem Team.setSquad_core : (t.setSquad k x).core = t.core := rfl
@[simp] theorem Team.setSquad_ens : (t.setSquad k x).ens = t.ens := rfl
@[simp] theorem Team.setSquad_reserved : (t.setSquad k x).reserved = t.reserved := rfl
@[simp] theorem Team.setSquad_fpctl : (t.setSquad k x).fpctl = t.fpctl := rfl
@[simp] theorem Team.setSquad_recs : (t.setSquad k x).recs = t.recs := rfl
@[simp] theorem Team.setSquad_fms : (t.setSquad k x).fms = t.fms := rfl
@[simp] theorem Team.setSquad_tiles : (t.setSquad k x).tiles = t.tiles := rfl
@[simp] theorem Team.setSquad_bars : (t.setSquad k x).bars = t.bars := rfl
@[simp] theorem Team.setSquad_slice : (t.setSquad k x).slice = t.slice := rfl
@[simp] theorem Team.setSquad_squads : (t.setSquad k x).squads = t.squads.set k x := rfl
@[simp] theorem Team.setSquad_threads : (t.setSquad k x).threads = t.threads := rfl
@[simp] theorem Team.setSquad_phase : (t.setSquad k x).phase = t.phase := rfl
@[simp] theorem Team.setSquad_halting : (t.setSquad k x).halting = t.halting := rfl
@[simp] theorem Team.setSquad_waking : (t.setSquad k x).waking = t.waking := rfl
@[simp] theorem Team.setSquad_held : (t.setSquad k x).held = t.held := rfl
@[simp] theorem Team.setSquad_stepping : (t.setSquad k x).stepping = t.stepping := rfl
@[simp] theorem Team.setSquad_heldWait : (t.setSquad k x).heldWait = t.heldWait := rfl
@[simp] theorem Team.setSquad_heldPark : (t.setSquad k x).heldPark = t.heldPark := rfl
end

section
variable (t : Team) (k : Nat) (x : Tile)
@[simp] theorem Team.setTile_launch : (t.setTile k x).launch = t.launch := rfl
@[simp] theorem Team.setTile_stage : (t.setTile k x).stage = t.stage := rfl
@[simp] theorem Team.setTile_en : (t.setTile k x).en = t.en := rfl
@[simp] theorem Team.setTile_enx : (t.setTile k x).enx = t.enx := rfl
@[simp] theorem Team.setTile_eny : (t.setTile k x).eny = t.eny := rfl
@[simp] theorem Team.setTile_enz : (t.setTile k x).enz = t.enz := rfl
@[simp] theorem Team.setTile_tm : (t.setTile k x).tm = t.tm := rfl
@[simp] theorem Team.setTile_nrec : (t.setTile k x).nrec = t.nrec := rfl
@[simp] theorem Team.setTile_core : (t.setTile k x).core = t.core := rfl
@[simp] theorem Team.setTile_ens : (t.setTile k x).ens = t.ens := rfl
@[simp] theorem Team.setTile_reserved : (t.setTile k x).reserved = t.reserved := rfl
@[simp] theorem Team.setTile_fpctl : (t.setTile k x).fpctl = t.fpctl := rfl
@[simp] theorem Team.setTile_recs : (t.setTile k x).recs = t.recs := rfl
@[simp] theorem Team.setTile_fms : (t.setTile k x).fms = t.fms := rfl
@[simp] theorem Team.setTile_tiles : (t.setTile k x).tiles = t.tiles.store {} k x := rfl
@[simp] theorem Team.setTile_bars : (t.setTile k x).bars = t.bars := rfl
@[simp] theorem Team.setTile_slice : (t.setTile k x).slice = t.slice := rfl
@[simp] theorem Team.setTile_squads : (t.setTile k x).squads = t.squads := rfl
@[simp] theorem Team.setTile_threads : (t.setTile k x).threads = t.threads := rfl
@[simp] theorem Team.setTile_phase : (t.setTile k x).phase = t.phase := rfl
@[simp] theorem Team.setTile_halting : (t.setTile k x).halting = t.halting := rfl
@[simp] theorem Team.setTile_waking : (t.setTile k x).waking = t.waking := rfl
@[simp] theorem Team.setTile_held : (t.setTile k x).held = t.held := rfl
@[simp] theorem Team.setTile_stepping : (t.setTile k x).stepping = t.stepping := rfl
@[simp] theorem Team.setTile_heldWait : (t.setTile k x).heldWait = t.heldWait := rfl
@[simp] theorem Team.setTile_heldPark : (t.setTile k x).heldPark = t.heldPark := rfl
end

section
variable (t : Team) (k : BitVec 4) (x : BitVec 256)
@[simp] theorem Team.setBrec_launch : (t.setBrec k x).launch = t.launch := rfl
@[simp] theorem Team.setBrec_stage : (t.setBrec k x).stage = t.stage := rfl
@[simp] theorem Team.setBrec_en : (t.setBrec k x).en = t.en := rfl
@[simp] theorem Team.setBrec_enx : (t.setBrec k x).enx = t.enx := rfl
@[simp] theorem Team.setBrec_eny : (t.setBrec k x).eny = t.eny := rfl
@[simp] theorem Team.setBrec_enz : (t.setBrec k x).enz = t.enz := rfl
@[simp] theorem Team.setBrec_tm : (t.setBrec k x).tm = t.tm := rfl
@[simp] theorem Team.setBrec_nrec : (t.setBrec k x).nrec = t.nrec := rfl
@[simp] theorem Team.setBrec_core : (t.setBrec k x).core = t.core := rfl
@[simp] theorem Team.setBrec_ens : (t.setBrec k x).ens = t.ens := rfl
@[simp] theorem Team.setBrec_reserved : (t.setBrec k x).reserved = t.reserved := rfl
@[simp] theorem Team.setBrec_fpctl : (t.setBrec k x).fpctl = t.fpctl := rfl
@[simp] theorem Team.setBrec_recs : (t.setBrec k x).recs = t.recs.store 0 k.toNat x := rfl
@[simp] theorem Team.setBrec_fms : (t.setBrec k x).fms = t.fms := rfl
@[simp] theorem Team.setBrec_tiles : (t.setBrec k x).tiles = t.tiles := rfl
@[simp] theorem Team.setBrec_bars : (t.setBrec k x).bars = t.bars := rfl
@[simp] theorem Team.setBrec_slice : (t.setBrec k x).slice = t.slice := rfl
@[simp] theorem Team.setBrec_squads : (t.setBrec k x).squads = t.squads := rfl
@[simp] theorem Team.setBrec_threads : (t.setBrec k x).threads = t.threads := rfl
@[simp] theorem Team.setBrec_phase : (t.setBrec k x).phase = t.phase := rfl
@[simp] theorem Team.setBrec_halting : (t.setBrec k x).halting = t.halting := rfl
@[simp] theorem Team.setBrec_waking : (t.setBrec k x).waking = t.waking := rfl
@[simp] theorem Team.setBrec_held : (t.setBrec k x).held = t.held := rfl
@[simp] theorem Team.setBrec_stepping : (t.setBrec k x).stepping = t.stepping := rfl
@[simp] theorem Team.setBrec_heldWait : (t.setBrec k x).heldWait = t.heldWait := rfl
@[simp] theorem Team.setBrec_heldPark : (t.setBrec k x).heldPark = t.heldPark := rfl
end

section
variable (t : Team) (k : Nat) (x : Barrier)
@[simp] theorem Team.setBar_launch : (t.setBar k x).launch = t.launch := rfl
@[simp] theorem Team.setBar_stage : (t.setBar k x).stage = t.stage := rfl
@[simp] theorem Team.setBar_en : (t.setBar k x).en = t.en := rfl
@[simp] theorem Team.setBar_enx : (t.setBar k x).enx = t.enx := rfl
@[simp] theorem Team.setBar_eny : (t.setBar k x).eny = t.eny := rfl
@[simp] theorem Team.setBar_enz : (t.setBar k x).enz = t.enz := rfl
@[simp] theorem Team.setBar_tm : (t.setBar k x).tm = t.tm := rfl
@[simp] theorem Team.setBar_nrec : (t.setBar k x).nrec = t.nrec := rfl
@[simp] theorem Team.setBar_core : (t.setBar k x).core = t.core := rfl
@[simp] theorem Team.setBar_ens : (t.setBar k x).ens = t.ens := rfl
@[simp] theorem Team.setBar_reserved : (t.setBar k x).reserved = t.reserved := rfl
@[simp] theorem Team.setBar_fpctl : (t.setBar k x).fpctl = t.fpctl := rfl
@[simp] theorem Team.setBar_recs : (t.setBar k x).recs = t.recs := rfl
@[simp] theorem Team.setBar_fms : (t.setBar k x).fms = t.fms := rfl
@[simp] theorem Team.setBar_tiles : (t.setBar k x).tiles = t.tiles := rfl
@[simp] theorem Team.setBar_bars : (t.setBar k x).bars = t.bars.set k x := rfl
@[simp] theorem Team.setBar_slice : (t.setBar k x).slice = t.slice := rfl
@[simp] theorem Team.setBar_squads : (t.setBar k x).squads = t.squads := rfl
@[simp] theorem Team.setBar_threads : (t.setBar k x).threads = t.threads := rfl
@[simp] theorem Team.setBar_phase : (t.setBar k x).phase = t.phase := rfl
@[simp] theorem Team.setBar_halting : (t.setBar k x).halting = t.halting := rfl
@[simp] theorem Team.setBar_waking : (t.setBar k x).waking = t.waking := rfl
@[simp] theorem Team.setBar_held : (t.setBar k x).held = t.held := rfl
@[simp] theorem Team.setBar_stepping : (t.setBar k x).stepping = t.stepping := rfl
@[simp] theorem Team.setBar_heldWait : (t.setBar k x).heldWait = t.heldWait := rfl
@[simp] theorem Team.setBar_heldPark : (t.setBar k x).heldPark = t.heldPark := rfl
end

section
variable (t : Thread) (r : BitVec 8) (v : Word) (g : Tag)
@[simp] theorem Thread.setReg_pc : (t.setReg r v g).pc = t.pc := by unfold Thread.setReg; split <;> rfl
@[simp] theorem Thread.setReg_preds : (t.setReg r v g).preds = t.preds := by unfold Thread.setReg; split <;> rfl
@[simp] theorem Thread.setReg_flags : (t.setReg r v g).flags = t.flags := by unfold Thread.setReg; split <;> rfl
@[simp] theorem Thread.setReg_exited : (t.setReg r v g).exited = t.exited := by unfold Thread.setReg; split <;> rfl
@[simp] theorem Thread.setReg_wait : (t.setReg r v g).wait = t.wait := by unfold Thread.setReg; split <;> rfl
@[simp] theorem Thread.setReg_loops : (t.setReg r v g).loops = t.loops := by unfold Thread.setReg; split <;> rfl
@[simp] theorem Thread.setReg_windows : (t.setReg r v g).windows = t.windows := by unfold Thread.setReg; split <;> rfl
@[simp] theorem Thread.setReg_lastForm : (t.setReg r v g).lastForm = t.lastForm := by unfold Thread.setReg; split <;> rfl
@[simp] theorem Thread.setReg_haltPc : (t.setReg r v g).haltPc = t.haltPc := by unfold Thread.setReg; split <;> rfl
@[simp] theorem Thread.setReg_skid : (t.setReg r v g).skid = t.skid := by unfold Thread.setReg; split <;> rfl
@[simp] theorem Thread.setReg_slot : (t.setReg r v g).slot = t.slot := by unfold Thread.setReg; split <;> rfl
@[simp] theorem Thread.setReg_rel : (t.setReg r v g).rel = t.rel := by unfold Thread.setReg; split <;> rfl
end

section
variable (t : Thread) (p : BitVec 3) (v : Bool)
@[simp] theorem Thread.setPred_pc : (t.setPred p v).pc = t.pc := by unfold Thread.setPred; split <;> rfl
@[simp] theorem Thread.setPred_regs : (t.setPred p v).regs = t.regs := by unfold Thread.setPred; split <;> rfl
@[simp] theorem Thread.setPred_flags : (t.setPred p v).flags = t.flags := by unfold Thread.setPred; split <;> rfl
@[simp] theorem Thread.setPred_exited : (t.setPred p v).exited = t.exited := by unfold Thread.setPred; split <;> rfl
@[simp] theorem Thread.setPred_wait : (t.setPred p v).wait = t.wait := by unfold Thread.setPred; split <;> rfl
@[simp] theorem Thread.setPred_loops : (t.setPred p v).loops = t.loops := by unfold Thread.setPred; split <;> rfl
@[simp] theorem Thread.setPred_windows : (t.setPred p v).windows = t.windows := by unfold Thread.setPred; split <;> rfl
@[simp] theorem Thread.setPred_lastForm : (t.setPred p v).lastForm = t.lastForm := by unfold Thread.setPred; split <;> rfl
@[simp] theorem Thread.setPred_haltPc : (t.setPred p v).haltPc = t.haltPc := by unfold Thread.setPred; split <;> rfl
@[simp] theorem Thread.setPred_skid : (t.setPred p v).skid = t.skid := by unfold Thread.setPred; split <;> rfl
@[simp] theorem Thread.setPred_slot : (t.setPred p v).slot = t.slot := by unfold Thread.setPred; split <;> rfl
@[simp] theorem Thread.setPred_rel : (t.setPred p v).rel = t.rel := by unfold Thread.setPred; split <;> rfl
end

end Sys2Proof.Machine
end

