-- ==== Sys2Proof/Laws/Regs.lean ====
section
/-!
SUPPORT. Laws of the register file (R120, R121), of the threads and squads of a team, and of the teams of the state.
-/
namespace Sys2Proof.Machine

/-- A write gives its register the value and the tag, leaves every other register, and is discarded at `v255` (R120). -/
theorem Thread.reg_setReg (t : Thread) (r q : BitVec 8) (v : Word) (g : Tag) :
    (t.setReg r v g).reg q = if q = r ∧ r ≠ 255 then (v, g) else t.reg q := by
  by_cases hr : r = 255
  · subst hr; simp [Thread.setReg]
  · have hs : t.setReg r v g = { t with regs := t.regs.store (0, 0) r.toNat (v, g) } := by simp only [Thread.setReg, hr, if_false]
    rw [hs]
    by_cases hq : q = 255
    · have h : ¬(q = r ∧ r ≠ 255) := fun h => hr (h.1 ▸ hq)
      rw [if_neg h]; simp only [Thread.reg, hq, if_true]
    · simp only [Thread.reg, hq, if_false, Map.look_store]
      by_cases h : q = r
      · rw [if_pos (congrArg _ h), if_pos ⟨h, hr⟩]
      · rw [if_neg fun e => h (BitVec.eq_of_toNat_eq e), if_neg fun e => h e.1]

@[simp] theorem Thread.setReg_255 (t : Thread) (v : Word) (g : Tag) : t.setReg 255 v g = t := by simp [Thread.setReg]
@[simp] theorem Thread.reg_255 (t : Thread) : t.reg 255 = (0, 0) := by simp [Thread.reg]

/-- A write to a predicate changes that predicate alone, and is discarded at `p0` (R120). -/
theorem Thread.pred_setPred (t : Thread) (p q : BitVec 3) (v : Bool) :
    (t.setPred p v).pred q = if q = p ∧ p ≠ 0 then v else t.pred q := by
  by_cases hp : p = 0
  · subst hp; simp [Thread.setPred]
  · have hs : t.setPred p v = { t with preds := if v then t.preds ||| (1#8 <<< p.toNat) else t.preds &&& ~~~(1#8 <<< p.toNat) } := by
      simp only [Thread.setPred, hp, if_false]
    rw [hs]
    have hq8 : q.toNat < 8 := q.isLt
    have hp8 : p.toNat < 8 := p.isLt
    by_cases h : q = p
    · subst h
      have hc : (if q = q ∧ q ≠ 0 then v else t.pred q) = v := if_pos ⟨rfl, hp⟩
      have h0 : (q == 0) = false := by rw [beq_eq_false_iff_ne]; exact hp
      rw [hc]
      have hb : (1#8 <<< q.toNat).getLsbD q.toNat = true := by
        rw [BitVec.getLsbD_shiftLeft]; simp [hq8]
      cases v
      · show (q == 0 || (t.preds &&& ~~~(1#8 <<< q.toNat)).getLsbD q.toNat) = false
        rw [BitVec.getLsbD_and, BitVec.getLsbD_not, hb, h0]; simp
      · show (q == 0 || (t.preds ||| (1#8 <<< q.toNat)).getLsbD q.toNat) = true
        rw [BitVec.getLsbD_or, hb]; simp
    · have hc : (if q = p ∧ p ≠ 0 then v else t.pred q) = t.pred q := if_neg fun e => h e.1
      rw [hc]
      have hne : q.toNat ≠ p.toNat := fun e => h (BitVec.eq_of_toNat_eq e)
      have hb : (1#8 <<< p.toNat).getLsbD q.toNat = false := by
        rw [BitVec.getLsbD_shiftLeft]
        by_cases hlt : q.toNat < p.toNat
        · simp [hlt]
        · have h1 : q.toNat - p.toNat ≠ 0 := by omega
          simp [h1]
      cases v
      · show (q == 0 || (t.preds &&& ~~~(1#8 <<< p.toNat)).getLsbD q.toNat) = (q == 0 || t.preds.getLsbD q.toNat)
        rw [BitVec.getLsbD_and, BitVec.getLsbD_not, hb]; simp [hq8]
      · show (q == 0 || (t.preds ||| (1#8 <<< p.toNat)).getLsbD q.toNat) = (q == 0 || t.preds.getLsbD q.toNat)
        rw [BitVec.getLsbD_or, hb]; simp

theorem Team.thread_setThread (t : Team) (a b : Nat) (x : Thread) :
    (t.setThread a x).thread b = if b = a ∧ a < t.threads.length then x else t.thread b := by
  unfold Team.setThread Team.thread
  by_cases h : b = a
  · subst h
    by_cases hl : b < t.threads.length
    · simp [List.getD_eq_getElem?_getD, hl]
    · simp [List.getD_eq_getElem?_getD, hl]
  · simp [List.getD_eq_getElem?_getD, h, Ne.symm h]

theorem Team.squad_setSquad (t : Team) (a b : Nat) (x : Squad) :
    (t.setSquad a x).squad b = if b = a ∧ a < t.squads.length then x else t.squad b := by
  unfold Team.setSquad Team.squad
  by_cases h : b = a
  · subst h
    by_cases hl : b < t.squads.length
    · simp [List.getD_eq_getElem?_getD, hl]
    · simp [List.getD_eq_getElem?_getD, hl]
  · simp [List.getD_eq_getElem?_getD, h, Ne.symm h]

@[simp] theorem Team.squad_setThread (t : Team) (a q : Nat) (x : Thread) : (t.setThread a x).squad q = t.squad q := rfl
@[simp] theorem Team.thread_setSquad (t : Team) (a q : Nat) (x : Squad) : (t.setSquad a x).thread q = t.thread q := rfl
@[simp] theorem Team.length_setThread (t : Team) (a : Nat) (x : Thread) :
    (t.setThread a x).threads.length = t.threads.length := by simp
@[simp] theorem Team.length_setSquad (t : Team) (a : Nat) (x : Squad) :
    (t.setSquad a x).squads.length = t.squads.length := by simp

theorem tidOf_inj {q a b : Nat} (h : tidOf q a = tidOf q b) : a = b := by unfold tidOf at h; omega

theorem State.tm_setTm (s : State) (a b : Nat) (t : Team) : (s.setTm a t).tm b = if b = a then t else s.tm b := by
  unfold State.tm State.setTm; simp only [Map.look, Map.find_put]; split <;> rfl

@[simp] theorem State.tm_setTm_self (s : State) (a : Nat) (t : Team) : (s.setTm a t).tm a = t := by simp [State.tm_setTm]

/-- A change of a team that exists. -/
theorem State.tm_onTm {s : State} {a : Nat} {t : Team} (h : s.teams.find a = some t) (f : Team → Team) (b : Nat) :
    (s.onTm a f).tm b = if b = a then f t else s.tm b := by
  unfold State.tm State.onTm; simp only [Map.look, Map.find_update, h]; split <;> rfl

theorem State.tm_of_find {s : State} {a : Nat} {t : Team} (h : s.teams.find a = some t) : s.tm a = t := by
  simp [State.tm, Map.look, h]

/-- Threads that a change by lanes gives: each lane of the list that is a thread takes `f` of what it was, where no lane is
listed twice; other threads stay. -/
theorem Team.thread_mapLanes_other (t : Team) (q : Nat) (lanes : List Nat) (f : Nat → Thread → Thread) (tid : Nat)
    (h : ∀ ln ∈ lanes, tid ≠ tidOf q ln) : (t.mapLanes q lanes f).thread tid = t.thread tid := by
  induction lanes generalizing t with
  | nil => rfl
  | cons a as ih =>
    have := ih (t.setThread (tidOf q a) (f a (t.lane q a))) fun ln hl => h ln (List.mem_cons_of_mem _ hl)
    simp only [Team.mapLanes, List.foldl_cons] at this ⊢
    rw [this, Team.thread_setThread]
    simp [h a (List.mem_cons_self ..)]

@[simp] theorem Team.length_mapLanes (t : Team) (q : Nat) (lanes : List Nat) (f : Nat → Thread → Thread) :
    (t.mapLanes q lanes f).threads.length = t.threads.length := by
  induction lanes generalizing t with
  | nil => rfl
  | cons a as ih => simp only [Team.mapLanes, List.foldl_cons] at ih ⊢; rw [ih]; simp

@[simp] theorem Team.squads_mapLanes (t : Team) (q : Nat) (lanes : List Nat) (f : Nat → Thread → Thread) :
    (t.mapLanes q lanes f).squads = t.squads := by
  induction lanes generalizing t with
  | nil => rfl
  | cons a as ih => simp only [Team.mapLanes, List.foldl_cons] at ih ⊢; rw [ih]; simp

/-- A change that keeps a property of threads gives threads with it. -/
theorem Team.thread_mapLanes_mem (t : Team) (q : Nat) (lanes : List Nat) (f : Nat → Thread → Thread) (ln : Nat)
    (hl : ln ∈ lanes) (hn : tidOf q ln < t.threads.length) (p : Thread → Prop)
    (hp : ∀ th, (th = t.lane q ln ∨ p th) → p (f ln th)) : p ((t.mapLanes q lanes f).lane q ln) := by
  induction lanes generalizing t with
  | nil => cases hl
  | cons a as ih =>
    simp only [Team.mapLanes, List.foldl_cons] at ih ⊢
    by_cases hm : ln ∈ as
    · refine ih (t.setThread (tidOf q a) (f a (t.lane q a))) hm (by simpa using hn) fun th ht => hp th ?_
      rcases ht with ht | ht
      · simp only [Team.lane, Team.thread_setThread] at ht
        split at ht
        · rename_i h
          have : ln = a := tidOf_inj h.1
          subst this
          right; rw [ht]; exact hp _ (Or.inl rfl)
        · left; exact ht
      · right; exact ht
    · have ha : ln = a := by cases hl with | head => rfl | tail _ h => exact absurd h hm
      subst ha
      have := Team.thread_mapLanes_other (t.setThread (tidOf q ln) (f ln (t.lane q ln))) q as f (tidOf q ln)
        fun k hk e => hm (tidOf_inj e ▸ hk)
      simp only [Team.mapLanes] at this
      rw [Team.lane, this, Team.thread_setThread]
      simp only [hn, and_self, if_true]
      exact hp _ (Or.inl rfl)

end Sys2Proof.Machine
end

