-- ==== Sys2Proof/Laws/Issue.lean ====
section
/-!
SUPPORT. What the issue of an instruction does: the laws of `State.issue`, `State.lanewise` and `State.once`.
-/
namespace Sys2Proof.Machine

/-- What it means that a convoy stands at an instruction, in the midst of none. -/
theorem State.slot_spec {s : State} {i : Instr} {x : Convoy} (h : s.slot i = some x) (hn : ((s.tm x.key).squad x.q).amid? = none) :
    ∃ t, s.teams.find x.key = some t ∧ t.mayIssue x.q = true ∧ (∀ ln ∈ x.lanes, tidOf x.q ln < t.threads.length)
      ∧ (∀ ln ∈ x.act, ln ∈ x.lanes) := by
  unfold State.slot at h
  split at h
  · cases h
  · rename_i t ht
    dsimp only at h
    split at h
    · cases h
    · rename_i ln l hl
      split at h
      · rename_i m hm
        split at h
        · obtain rfl := (Option.some.inj h).symm
          rw [State.tm_of_find ht, hm] at hn
          cases hn
        · cases h
      · split at h
        · rename_i hm
          obtain rfl := (Option.some.inj h).symm
          refine ⟨t, ht, hm, fun k hk => ?_, fun k hk => (List.mem_filter.mp hk).1⟩
          simpa using (List.mem_filter.mp hk).2
        · cases h

/-- The squad that may issue is one of its team's. -/
theorem Team.mayIssue_lt {t : Team} {q : Nat} (h : t.mayIssue q = true) : q < t.squads.length := by
  unfold Team.mayIssue at h; simp only [Bool.and_eq_true, decide_eq_true_eq] at h; exact h.1.1

/-- The team after an instruction has issued in some lanes. -/
def issuedTeam (s : State) (x : Convoy) (lanes : List Nat) (t : Team) : Team :=
  let t := t.mapLanes x.q lanes fun _ th =>
    { th with windows := (th.windows.filter fun w => (s.flights.find w.op).isSome).map fun w => { w with since := w.since + 1 } }
  let q := t.squad x.q
  t.setSquad x.q { q with sinceForm := q.sinceForm + 1, replay := []
                          run := match q.run with | .halting n => .halting (n - 1) | r => r }

theorem State.issued_eq (s : State) (x : Convoy) (lanes : List Nat) : s.issued x lanes = s.onTm x.key (issuedTeam s x lanes) := rfl

/-- A raise without causes does nothing. -/
@[simp] theorem State.raise_nil (s : State) (key q : Nat) (pc : Dword) (code : Word) (own : Bool) : s.raise key q pc [] code own = s := by
  unfold State.raise; split <;> rfl

@[simp] theorem Team.bare_setThread (t : Team) (a : Nat) (x : Thread) : (t.setThread a x).bare = t.bare := rfl
@[simp] theorem Team.bare_setSquad (t : Team) (a : Nat) (x : Squad) : (t.setSquad a x).bare = t.bare := rfl
@[simp] theorem Team.bare_mapLanes (t : Team) (q : Nat) (lanes : List Nat) (f : Nat → Thread → Thread) :
    (t.mapLanes q lanes f).bare = t.bare := by
  induction lanes generalizing t with
  | nil => rfl
  | cons a as ih => simp only [Team.mapLanes, List.foldl_cons] at ih ⊢; rw [ih]; rfl

/-- Where nothing hinders it, an instruction that issues performs its body; then errors of storage that it wrote over are gone,
and the convoy settles. -/
theorem State.issue_ready {s : State} {i : Instr} {x : Convoy} (hr : Ready s i x) (causes : State → Convoy → List Hit)
    (body : State → Convoy → State) (hc : causes s x = []) :
    ∃ e, (∀ v ∈ e, v ∈ (body s x).ecc ∨ v ∈ s.ecc) ∧
      s.issue i causes body = ({ body s x with ecc := e } : State).settle x := by
  unfold State.issue
  simp only [hr.1, hr.2.1, hr.2.2.1, hr.2.2.2, hc, Option.isSome_none, Bool.false_eq_true, if_false, List.append_nil, List.isEmpty_nil,
    if_true]
  split
  · exact ⟨(body s x).ecc, fun v hv => Or.inl hv, rfl⟩
  · refine ⟨_, fun v hv => Or.inl ?_, rfl⟩
    unfold State.eccWritten at hv
    exact (List.mem_filter.mp hv).1

/-- Lanes that each take a thread of their own, and no others. -/
theorem Team.thread_foldl_other {α : Type} (q : Nat) (outs : List (Nat × α)) (h : Nat × α → Thread) (t : Team) {tid : Nat}
    (ho : ∀ o ∈ outs, tid ≠ tidOf q o.1) :
    (outs.foldl (fun t o => t.setThread (tidOf q o.1) (h o)) t).thread tid = t.thread tid := by
  induction outs generalizing t with
  | nil => rfl
  | cons o os ih =>
    rw [List.foldl_cons, ih _ fun o' h' => ho o' (List.mem_cons_of_mem _ h'), Team.thread_setThread,
      if_neg fun h' => ho o (List.mem_cons_self ..) h'.1]

/-- A lane listed has what it takes, where all its entries agree. -/
theorem Team.thread_foldl_mem {α : Type} (q : Nat) (outs : List (Nat × α)) (h : Nat × α → Thread) (t : Team) (ln : Nat) {v : α}
    (hm : ∃ e, (ln, e) ∈ outs ∧ h (ln, e) = h (ln, v)) (hn : tidOf q ln < t.threads.length)
    (ho : ∀ o ∈ outs, o.1 = ln → h o = h (ln, v)) :
    (outs.foldl (fun t o => t.setThread (tidOf q o.1) (h o)) t).thread (tidOf q ln) = h (ln, v) := by
  induction outs generalizing t with
  | nil => obtain ⟨_, h, _⟩ := hm; cases h
  | cons o os ih =>
    rw [List.foldl_cons]
    by_cases hx : ∃ e, (ln, e) ∈ os ∧ h (ln, e) = h (ln, v)
    · exact ih _ hx (by simpa using hn) fun o' h' => ho o' (List.mem_cons_of_mem _ h')
    · have he : o.1 = ln := by
        obtain ⟨e, hm, h'⟩ := hm
        cases hm with
        | head => rfl
        | tail _ hm => exact absurd ⟨e, hm, h'⟩ hx
      rw [Team.thread_foldl_other]
      · rw [Team.thread_setThread, he, if_pos ⟨rfl, hn⟩]; exact ho o (List.mem_cons_self ..) he
      · intro o' h' e
        have e := tidOf_inj e
        exact hx ⟨o'.2, by rw [e]; exact h', by have := ho o' (List.mem_cons_of_mem _ h') e.symm; rw [← this, e]⟩

@[simp] theorem Team.squads_foldl_set {α : Type} (q : Nat) (outs : List (Nat × α)) (h : Nat × α → Thread) (t : Team) :
    (outs.foldl (fun t o => t.setThread (tidOf q o.1) (h o)) t).squads = t.squads := by
  induction outs generalizing t with
  | nil => rfl
  | cons o os ih => rw [List.foldl_cons, ih]; rfl

@[simp] theorem Team.squad_foldl_set {α : Type} (q : Nat) (outs : List (Nat × α)) (h : Nat × α → Thread) (t : Team) (r : Nat) :
    (outs.foldl (fun t o => t.setThread (tidOf q o.1) (h o)) t).squad r = t.squad r := by simp [Team.squad]

@[simp] theorem Team.length_foldl_set {α : Type} (q : Nat) (outs : List (Nat × α)) (h : Nat × α → Thread) (t : Team) :
    (outs.foldl (fun t o => t.setThread (tidOf q o.1) (h o)) t).threads.length = t.threads.length := by
  induction outs generalizing t with
  | nil => rfl
  | cons o os ih => rw [List.foldl_cons, ih]; simp

@[simp] theorem Team.bare_foldl_set {α : Type} (q : Nat) (outs : List (Nat × α)) (h : Nat × α → Thread) (t : Team) :
    (outs.foldl (fun t o => t.setThread (tidOf q o.1) (h o)) t).bare = t.bare := by
  induction outs generalizing t with
  | nil => rfl
  | cons o os ih => rw [List.foldl_cons, ih]; rfl

/-- Lanes that change in their skid alone. -/
theorem Team.thread_mapLanes_skid (t : Team) (q : Nat) (lanes : List Nat) (f : Nat → Thread → Thread)
    (hf : ∀ ln th, ∃ n, f ln th = { th with skid := n }) (tid : Nat) :
    ∃ n, (t.mapLanes q lanes f).thread tid = { t.thread tid with skid := n } := by
  induction lanes generalizing t with
  | nil => exact ⟨_, rfl⟩
  | cons a as ih =>
    obtain ⟨n, hn⟩ := ih (t.setThread (tidOf q a) (f a (t.lane q a)))
    simp only [Team.mapLanes, List.foldl_cons] at hn ⊢
    rw [hn, Team.thread_setThread]
    split
    · rename_i h
      obtain ⟨m, hm⟩ := hf a (t.lane q a)
      exact ⟨n, by rw [hm, h.1]; rfl⟩
    · exact ⟨n, rfl⟩

/-- What fixing the skids of a squad leaves. -/
theorem State.fixSkids_spec (s : State) (t : Team) (q : Nat) :
    (s.fixSkids t q).bare = t.bare ∧ (s.fixSkids t q).squads = t.squads ∧ (s.fixSkids t q).threads.length = t.threads.length
      ∧ ∀ tid, ∃ n, (s.fixSkids t q).thread tid = { t.thread tid with skid := n }
        ∧ (¬ (t.handling = none ∧ tid / 32 = q) → n = (t.thread tid).skid) := by
  unfold State.fixSkids
  split
  · rename_i h
    exact ⟨rfl, rfl, rfl, fun tid => ⟨_, rfl, fun _ => rfl⟩⟩
  · rename_i h
    refine ⟨by simp, by simp, by simp, fun tid => ?_⟩
    by_cases hq : tid / 32 = q
    · obtain ⟨n, hn⟩ := Team.thread_mapLanes_skid t q (List.range 32) (fun _ th => { th with skid := s.skidOf th }) (fun _ _ => ⟨_, rfl⟩) tid
      exact ⟨n, hn, fun h' => absurd ⟨by simpa using h, hq⟩ h'⟩
    · refine ⟨(t.thread tid).skid, ?_, fun _ => rfl⟩
      rw [Team.thread_mapLanes_other]
      intro ln hl e
      have := List.mem_range.mp hl
      unfold tidOf at e
      omega

/-- What settling a convoy changes: the convoy, and the skids where the squad has issued its last instruction. -/
def settledTeam (s : State) (x : Convoy) (t : Team) : Team :=
  let q := t.squad x.q
  let t := if q.run == .halting 0 then s.fixSkids t x.q else t
  let ok := q.convoy.filter fun ln => let th := t.lane x.q ln; !th.exited && th.wait == .none
  let c := match ok with
    | [] => []
    | l :: _ => ok.filter fun ln => (t.lane x.q ln).pc == (t.lane x.q l).pc
  let n := match q.run with | .halting 0 => true | _ => false
  t.setSquad x.q { q with convoy := if n || q.park.isSome then [] else c }

/-- What settling leaves, and what becomes of each thread and squad. -/
theorem settledTeam_spec (s : State) (x : Convoy) (t : Team) :
    (settledTeam s x t).bare = t.bare
      ∧ (x.q < t.squads.length → ∃ c, (settledTeam s x t).squad x.q = { t.squad x.q with convoy := c })
      ∧ (∀ r, r ≠ x.q → (settledTeam s x t).squad r = t.squad r)
      ∧ ∀ tid, ∃ n, (settledTeam s x t).thread tid = { t.thread tid with skid := n }
        ∧ (¬ ((t.squad x.q).run = .halting 0 ∧ t.handling = none ∧ tid / 32 = x.q) → n = (t.thread tid).skid) := by
  obtain ⟨hb, hs, -, ht⟩ := State.fixSkids_spec s t x.q
  have hsq (r : Nat) : (s.fixSkids t x.q).squad r = t.squad r := by simp only [Team.squad, hs]
  unfold settledTeam
  by_cases h : ((t.squad x.q).run == .halting 0) = true
  · simp only [h, if_true]
    refine ⟨hb, fun hl => ?_, fun r hr => ?_, fun tid => ?_⟩
    · rw [Team.squad_setSquad, if_pos ⟨rfl, by rw [hs]; exact hl⟩]; exact ⟨_, rfl⟩
    · rw [Team.squad_setSquad, if_neg fun h => hr h.1, hsq]
    · obtain ⟨n, h1, h2⟩ := ht tid
      exact ⟨n, h1, fun h' => h2 fun h3 => h' ⟨by simpa using h, h3⟩⟩
  · simp only [h, if_false, Bool.false_eq_true]
    refine ⟨rfl, fun hl => ?_, fun r hr => ?_, fun tid => ⟨_, rfl, fun _ => rfl⟩⟩
    · rw [Team.squad_setSquad, if_pos ⟨rfl, hl⟩]; exact ⟨_, rfl⟩
    · rw [Team.squad_setSquad, if_neg fun h => hr h.1]

theorem State.settle_eq (s : State) (x : Convoy) : s.settle x = s.onTm x.key (settledTeam s x) := by
  rfl

theorem State.onTm_eq {s : State} {a : Nat} {t : Team} (h : s.teams.find a = some t) (f : Team → Team) :
    s.onTm a f = s.setTm a (f t) := by
  unfold State.onTm State.setTm Map.update; rw [h]

theorem State.find_setTm (s : State) (a b : Nat) (t : Team) :
    (s.setTm a t).teams.find b = if b = a then some t else s.teams.find b := by simp [Map.find_put]

/-- The law of an instruction that acts lane by lane: where it raises no cause, exactly the threads of its convoy change. `g` gives
each active thread after it, with its PC. -/
theorem State.lanewise_law {s : State} {i : Instr} {x : Convoy} (hr : Ready s i x) (f : Team → Nat → Thread → LaneOut)
    (pre : Team → Nat → Thread → List Hit) (g : Nat → Thread → Thread)
    (hpre : ∀ ln ∈ x.act, pre (s.tm x.key) ln ((s.tm x.key).lane x.q ln) = [])
    (hf : ∀ ln ∈ x.act, ∀ u : Team, u.bare = (s.tm x.key).bare → ∀ w, let o := f u ln { (s.tm x.key).lane x.q ln with windows := w }
      o.hits = [] ∧ ∃ w', { o.th with pc := o.jump.getD (x.pc + BitVec.ofNat 64 i.len) } =
        { g ln ((s.tm x.key).lane x.q ln) with windows := w' }) :
    TeamsOnly s (s.lanewise i f pre) ∧ (((s.lanewise i f pre).tm x.key).bare = (s.tm x.key).bare)
      ∧ Issued s (s.lanewise i f pre) x fun ln th => if ln ∈ x.act then g ln th else { th with pc := x.pc + BitVec.ofNat 64 i.len } := by
  obtain ⟨t, ht, hm, hlen, hact⟩ := State.slot_spec hr.1 hr.2.1
  have htm : s.tm x.key = t := State.tm_of_find ht
  rw [htm] at hpre hf ⊢
  have hq : x.q < t.squads.length := Team.mayIssue_lt hm
  have hc : (x.act.flatMap fun ln => pre (s.tm x.key) ln ((s.tm x.key).lane x.q ln)) = [] := by
    rw [List.flatMap_eq_nil_iff]; intro ln hl; rw [htm]; exact hpre ln hl
  obtain ⟨e, he, hs⟩ := State.issue_ready hr (fun s x => x.act.flatMap fun ln => pre (s.tm x.key) ln ((s.tm x.key).lane x.q ln))
    (fun s x => s.perform i f x) hc
  have hL : s.lanewise i f pre = ({ s.perform i f x with ecc := e } : State).settle x := hs
  -- the team after issue
  let t1 := issuedTeam s x x.lanes t
  have hs1 : s.issued x x.lanes = s.setTm x.key t1 := by rw [State.issued_eq, State.onTm_eq ht]
  have ht1b : t1.bare = t.bare := by simp [t1, issuedTeam]
  have ht1len : t1.threads.length = t.threads.length := by simp [t1, issuedTeam]
  have ht1thr : ∀ tid, (∀ ln ∈ x.lanes, tid ≠ tidOf x.q ln) → t1.thread tid = t.thread tid := fun tid h => by
    simp only [t1, issuedTeam, Team.thread_setSquad]; exact Team.thread_mapLanes_other _ _ _ _ _ h
  have ht1lane : ∀ ln ∈ x.lanes, ∃ w, t1.lane x.q ln = { t.lane x.q ln with windows := w } := fun ln hl => by
    have := Team.thread_mapLanes_mem t x.q x.lanes (fun _ th =>
      { th with windows := (th.windows.filter fun w => (s.flights.find w.op).isSome).map fun w => { w with since := w.since + 1 } })
      ln hl (hlen ln hl) (fun th => ∃ w, th = { t.lane x.q ln with windows := w }) (fun th h => by
        rcases h with h | ⟨w, h⟩ <;> (subst h; exact ⟨_, rfl⟩))
    simpa [t1, issuedTeam, Team.lane] using this
  -- the outcomes
  let outs := x.act.map fun ln => (ln, f t1 ln (t1.lane x.q ln))
  have houts : ∀ o ∈ outs, o.1 ∈ x.act ∧ o.2.hits = [] ∧ ∃ w', o.2.after (t.lane x.q o.1) (x.pc + BitVec.ofNat 64 i.len) =
      { g o.1 (t.lane x.q o.1) with windows := w' } := by
    intro o ho
    obtain ⟨ln, hl, rfl⟩ := List.mem_map.mp ho
    obtain ⟨w, hw⟩ := ht1lane ln (hact ln hl)
    have := hf ln hl t1 ht1b w
    simp only [← hw] at this
    refine ⟨hl, this.1, ?_⟩
    obtain ⟨w', h'⟩ := this.2
    exact ⟨w', by simp only [LaneOut.after, this.1, List.isEmpty_nil, if_true]; exact h'⟩
  let idle := x.lanes.filter fun ln => !x.act.contains ln
  let t2 := t1.mapLanes x.q idle fun _ th => { th with pc := x.pc + BitVec.ofNat 64 i.len }
  let t3 := outs.foldl (fun t o => t.setThread (tidOf x.q o.1) (o.2.after ((s.tm x.key).lane x.q o.1) (x.pc + BitVec.ofNat 64 i.len))) t2
  have hperf : s.perform i f x = s.setTm x.key t3 := by
    have hnil : (outs.flatMap fun o => o.2.hits) = [] := by
      rw [List.flatMap_eq_nil_iff]; intro o ho; exact (houts o ho).2.1
    have htm1 : (s.issued x x.lanes).tm x.key = t1 := by rw [hs1]; exact State.tm_setTm_self ..
    show (((s.issued x x.lanes).setTm x.key _).raise x.key x.q x.pc _ 0 _) = _
    simp only [htm1]
    show (((s.issued x x.lanes).setTm x.key t3).raise x.key x.q x.pc (outs.flatMap fun o => o.2.hits) 0 _) = _
    rw [hnil, State.raise_nil, hs1]
    simp only [State.setTm]
    rw [Map.put_put]
  have hsq3 : ∀ r, t3.squad r = t1.squad r := fun r => by
    simp only [t3, Team.squad_foldl_set]
    simp [t2, Team.squad]
  have hlen3 : t3.threads.length = t.threads.length := by simp [t3, t2, ht1len]
  have hb3 : t3.bare = t.bare := by simp [t3, t2, ht1b]
  let t4 := settledTeam { s.setTm x.key t3 with ecc := e } x t3
  obtain ⟨h4b, h4q, h4r, h4t⟩ : _ ∧ _ := settledTeam_spec { s.setTm x.key t3 with ecc := e } x t3
  have hfin : s.lanewise i f pre = { s.setTm x.key t4 with ecc := e } := by
    rw [hL, hperf, State.settle_eq]
    have h3 : ({ s.setTm x.key t3 with ecc := e } : State).teams.find x.key = some t3 := by
      show (s.setTm x.key t3).teams.find x.key = _; rw [State.find_setTm]; simp
    rw [State.onTm_eq h3]
    show ({ s with teams := (s.teams.put x.key t3).put x.key t4, ecc := e } : State) = _
    rw [Map.put_put]; rfl
  have htm4 : (s.lanewise i f pre).tm x.key = t4 := by
    rw [hfin]; show (s.setTm x.key t4).tm x.key = t4; simp
  have hecc : ∀ v ∈ e, v ∈ s.ecc := fun v hv => by
    rcases he v hv with h | h
    · rw [hperf] at h; exact h
    · exact h
  have hh3 : t3.handling = t.handling := by
    have : t3.bare.phase = t.bare.phase := congrArg (·.phase) hb3
    have : t3.phase = t.phase := this
    unfold Team.handling; rw [this]
  have hq1 : t1.squad x.q = { t.squad x.q with sinceForm := (t.squad x.q).sinceForm + 1, replay := []
                                               run := match (t.squad x.q).run with | .halting n => .halting (n - 1) | r => r } := by
    simp only [t1, issuedTeam, Team.squad_setSquad, Team.squads_mapLanes, hq, and_self, if_true]
    simp [Team.squad]
  have hq3 : x.q < t3.squads.length := by
    have : t3.squads = t2.squads := Team.squads_foldl_set ..
    rw [this]; simpa [t2, t1, issuedTeam] using hq
  have hlast : ∀ tid, ¬ LastIssue s x tid → ¬ ((t3.squad x.q).run = .halting 0 ∧ t3.handling = none ∧ tid / 32 = x.q) := by
    intro tid h ⟨h1, h2, h3⟩
    refine h ⟨?_, by rw [htm, ← hh3]; exact h2, h3⟩
    rw [htm]
    rw [hsq3, hq1] at h1
    have hmay : (t.squad x.q).mayIssue = true := by
      unfold Team.mayIssue at hm; simp only [Bool.and_eq_true] at hm; exact hm.1.2
    unfold Squad.mayIssue at hmay
    simp only [Bool.and_eq_true] at hmay
    generalize (t.squad x.q).run = r at h1 hmay
    cases r with
    | running => cases h1
    | stopped => cases h1
    | halting n =>
      have hn : 0 < n := by simpa using hmay.2
      have : n - 1 = 0 := by simpa using h1
      obtain rfl : n = 1 := by omega
      rfl
  refine ⟨⟨by rw [hfin]; rfl, by rw [hfin]; exact hecc, by rw [hfin]; exact fun _ => rfl⟩, by rw [htm4]; exact h4b.trans hb3,
    ⟨⟨?_, ?_⟩, ?_, ?_, ?_⟩⟩
  · intro k hk
    rw [hfin]; show (s.setTm x.key t4).teams.find k = _; rw [State.find_setTm, if_neg hk]
  · intro r hr'
    rw [htm4, htm]
    show t4.squad r = _
    rw [h4r r hr', hsq3]
    simp only [t1, issuedTeam, Team.squad_setSquad, if_neg fun (h : r = x.q ∧ _) => hr' h.1]
    simp [Team.squad]
  · rw [htm4, htm]
    obtain ⟨c, hc4⟩ := h4q hq3
    exact ⟨c, by show t4.squad x.q = _; rw [hc4, hsq3, hq1]; try rfl⟩
  · intro tid h
    have h3 : t3.thread tid = t.thread tid := by
      simp only [t3]
      rw [Team.thread_foldl_other _ _ _ _ fun o ho => ?_]
      · simp only [t2]
        rw [Team.thread_mapLanes_other _ _ _ _ _ fun ln hl => h ln (List.mem_filter.mp hl).1, ht1thr tid h]
      · obtain ⟨h1, -⟩ := houts o ho; exact h _ (hact _ h1)
    obtain ⟨n, h1, h2⟩ := h4t tid
    rw [htm4, htm, ← h3]
    exact ⟨n, h1, fun hl => h2 (hlast tid hl)⟩
  · intro ln hl
    suffices hg : ∃ w, t3.thread (tidOf x.q ln) =
        { (if ln ∈ x.act then g ln (t.lane x.q ln) else { t.lane x.q ln with pc := x.pc + BitVec.ofNat 64 i.len }) with windows := w } by
      obtain ⟨w, hw⟩ := hg
      obtain ⟨n, h1, h2⟩ := h4t (tidOf x.q ln)
      rw [htm4, htm]
      refine ⟨w, n, ?_, fun hL => ?_⟩
      · show t4.thread _ = _; rw [show t4.thread (tidOf x.q ln) = _ from h1, hw]
      · rw [h2 (hlast _ hL), hw]
    have h2 : ln ∉ x.act → ∃ w, t2.lane x.q ln = { t.lane x.q ln with pc := x.pc + BitVec.ofNat 64 i.len, windows := w } := fun hn => by
      refine Team.thread_mapLanes_mem t1 x.q idle _ ln (List.mem_filter.mpr ⟨hl, by simpa using hn⟩) (by rw [ht1len]; exact hlen ln hl)
        (fun th => ∃ w, th = { t.lane x.q ln with pc := x.pc + BitVec.ofNat 64 i.len, windows := w }) fun th hth => ?_
      obtain ⟨w, hw⟩ := ht1lane ln hl
      rcases hth with h | ⟨w', h⟩
      · exact ⟨w, by rw [h, hw]⟩
      · exact ⟨w', by rw [h]⟩
    by_cases ha : ln ∈ x.act
    · simp only [ha, if_true]
      have hmem : (ln, f t1 ln (t1.lane x.q ln)) ∈ outs := List.mem_map.mpr ⟨ln, ha, rfl⟩
      obtain ⟨-, -, w', h'⟩ := houts _ hmem
      refine ⟨w', ?_⟩
      rw [← h']
      simp only [t3, htm]
      exact Team.thread_foldl_mem x.q outs _ t2 ln ⟨_, hmem, rfl⟩ (by simpa [t2, ht1len] using hlen ln hl)
        fun o ho e => by obtain ⟨k, hk, rfl⟩ := List.mem_map.mp ho; obtain rfl : k = ln := e; rfl
    · simp only [ha, if_false]
      obtain ⟨w, hw⟩ := h2 ha
      refine ⟨w, ?_⟩
      simp only [t3]
      rw [Team.thread_foldl_other]
      · exact hw
      · intro o ho e
        obtain ⟨h1, -⟩ := houts o ho
        exact ha (tidOf_inj e ▸ h1)

/-- An instruction written over `lanewise` completes: where no lane raises a cause or jumps, `F` is its effect. -/
theorem State.acts_of_lanewise {s : State} {i : Instr} {x : Convoy} (hr : Ready s i x) {f : Team → Nat → Thread → LaneOut}
    {F : Thread → Thread} (he : exec i s = .next (s.lanewise i f))
    (hf : ∀ ln ∈ x.act, ∀ u : Team, u.bare = (s.tm x.key).bare → ∀ w,
      (f u ln { (s.tm x.key).lane x.q ln with windows := w }).hits = [] ∧
      (f u ln { (s.tm x.key).lane x.q ln with windows := w }).jump = none ∧
      ∃ w', (f u ln { (s.tm x.key).lane x.q ln with windows := w }).th = { F ((s.tm x.key).lane x.q ln) with windows := w' }) :
    Acts i s x F := by
  obtain ⟨h1, h2, h3⟩ := s.lanewise_law hr f (fun _ _ _ => [])
    (fun _ th => { F th with pc := x.pc + BitVec.ofNat 64 i.len }) (fun _ _ => rfl) (fun ln hl u hu w => by
      obtain ⟨h1, h2, w', h3⟩ := hf ln hl u hu w
      exact ⟨h1, w', by rw [h3, h2]; rfl⟩)
  refine ⟨_, he, h1, ⟨h3.only, h3.squad, h3.others, fun ln hl => ?_⟩, h2⟩
  obtain ⟨w, n, hw, hn⟩ := h3.lanes ln hl
  have hp : (if ln ∈ x.act then { F ((s.tm x.key).lane x.q ln) with pc := x.pc + BitVec.ofNat 64 i.len }
      else { (s.tm x.key).lane x.q ln with pc := x.pc + BitVec.ofNat 64 i.len }) = past i x F ln ((s.tm x.key).lane x.q ln) := by
    unfold past; split <;> rfl
  rw [hp] at hw hn
  exact ⟨w, n, hw, hn⟩

end Sys2Proof.Machine
end

