-- ==== Sys2Proof/Laws/Memory.lean ====
section
/-!
SUPPORT. Laws of memory: reading after writing, and that every memory operation keeps the canonical form of the list (log 5).
-/
namespace Sys2Proof.Machine

/-- A byte written reads as written; every other address reads as before. -/
theorem State.byte_setByte (s : State) (k a : Nat) (b : Byte) : (s.setByte k b).byte a = if a = k then b else s.byte a :=
  Map.look_store unlisted s.mem k a b

/-- Writing one byte keeps the canonical form. -/
theorem State.wf_setByte {s : State} (h : Memory.wf s.mem = true) (k : Nat) (b : Byte) : Memory.wf (s.setByte k b).mem = true :=
  Map.wf_store h k b

/-- Writing bytes keeps the canonical form. -/
theorem State.wf_poke {s : State} (h : Memory.wf s.mem = true) (cs : List (Nat × Byte)) : Memory.wf (s.poke cs).mem = true := by
  induction cs generalizing s with
  | nil => exact h
  | cons c cs ih => exact ih (State.wf_setByte h c.1 c.2)

/-- An address that no cell names reads as before. -/
theorem State.byte_poke_other (s : State) (cs : List (Nat × Byte)) (a : Nat) (h : ∀ c ∈ cs, c.1 ≠ a) : (s.poke cs).byte a = s.byte a := by
  induction cs generalizing s with
  | nil => rfl
  | cons c cs ih =>
    show ((s.setByte c.1 c.2).poke cs).byte a = _
    rw [ih _ fun d hd => h d (List.mem_cons_of_mem _ hd), State.byte_setByte, if_neg (Ne.symm (h c (List.mem_cons_self)))]

/-- The addresses of cells from a key up. -/
theorem mem_cellsAt {bs : List Byte} {key : Nat} {c : Nat × Byte} (h : c ∈ cellsAt key bs) : key ≤ c.1 ∧ c.1 < key + bs.length := by
  induction bs generalizing key with
  | nil => simp [cellsAt] at h
  | cons b bs ih =>
    simp only [cellsAt, List.mem_cons] at h
    rcases h with rfl | h
    · simp
    · have := ih h; simp only [List.length_cons]; omega

/-- Bytes written from a key up read as written. -/
theorem State.byte_poke_cellsAt (s : State) (key : Nat) (bs : List Byte) (a : Nat) :
    (s.poke (cellsAt key bs)).byte a = if key ≤ a ∧ a < key + bs.length then bs.getD (a - key) 0 else s.byte a := by
  induction bs generalizing s key with
  | nil => rw [if_neg (by simp only [List.length_nil]; omega)]; rfl
  | cons b bs ih =>
    show ((s.setByte key b).poke (cellsAt (key + 1) bs)).byte a = _
    rw [ih, State.byte_setByte]
    simp only [List.length_cons]
    by_cases h : a = key
    · subst h; rw [if_neg (by omega), if_pos rfl, if_pos (by omega), Nat.sub_self]; rfl
    · by_cases h2 : key + 1 ≤ a ∧ a < key + 1 + bs.length
      · rw [if_pos h2, if_pos (by omega)]
        obtain ⟨n, rfl⟩ : ∃ n, a = key + 1 + n := ⟨a - (key + 1), by omega⟩
        rw [show key + 1 + n - (key + 1) = n by omega, show key + 1 + n - key = n + 1 by omega, List.getD_cons_succ]
      · rw [if_neg h2, if_neg h, if_neg (by omega)]

/-- Making check values leaves memory. -/
@[simp] theorem State.makeCheck_mem (s : State) (k : Nat) : (s.makeCheck k).mem = s.mem := rfl

/-- Making the check values of some half-lines leaves memory. -/
theorem State.makeChecks_mem (s : State) (ks : List Nat) : (ks.foldl State.makeCheck s).mem = s.mem := by
  induction ks generalizing s with
  | nil => rfl
  | cons k ks ih => rw [List.foldl_cons, ih, State.makeCheck_mem]

/-- What a store to one line leaves of memory: the cells, written. -/
theorem State.storeLine_mem (s : State) (line : Nat) (cs : List (Nat × Byte)) : (s.storeLine line cs).mem = (s.poke cs).mem := by
  unfold State.storeLine
  simp only [State.setLine_mem, State.makeChecks_mem]

/-- Spoiling a check value leaves memory. -/
@[simp] theorem State.spoilCheck_mem (s : State) (h : Nat) : (s.spoilCheck h).mem = s.mem := rfl

/-- Spoiling check values leaves memory. -/
theorem State.spoilChecks_mem (hs : List Nat) (s : State) : (hs.foldl State.spoilCheck s).mem = s.mem := by
  induction hs generalizing s with
  | nil => rfl
  | cons h hs ih => rw [List.foldl_cons, ih, State.spoilCheck_mem]

/-- Held remote copies that follow a write leave memory. -/
@[simp] theorem State.follow_mem (s : State) (cs : List (Nat × Byte)) : (s.follow cs).mem = s.mem := rfl

/-- What a write of bytes outside local memory leaves of memory: the cells, written. -/
@[simp] theorem State.pokeFar_mem (s : State) (cs : List (Nat × Byte)) : (s.pokeFar cs).mem = (s.poke cs).mem := rfl

/-- A store keeps the canonical form. -/
theorem State.wf_store {s t : State} {w : World} {cs : List (Nat × Byte)} {res : FabricRes} (h : Memory.wf s.mem = true)
    (hs : s.store w cs res = .ok t) : Memory.wf t.mem = true := by
  have fold (ls : List Nat) (f : Nat → List (Nat × Byte)) (s : State) (h : Memory.wf s.mem = true) :
      Memory.wf (ls.foldl (fun s l => s.storeLine l (f l)) s).mem = true := by
    induction ls generalizing s with
    | nil => exact h
    | cons l ls ih => exact ih _ (by rw [State.storeLine_mem]; exact State.wf_poke h _)
  unfold State.store at hs
  split at hs
  · cases hs; exact h
  · split at hs
    · split at hs
      · cases hs
      · split at hs
        · cases hs
        · cases hs
          split
          · rw [State.spoilChecks_mem]; exact fold _ _ _ h
          · exact fold _ _ _ h
    · dsimp only at hs
      split at hs
      · cases hs
      · cases hs; exact State.wf_poke h _

/-- An atomic keeps the canonical form. -/
theorem State.wf_atomic {s t : State} {w : World} {key n old : Nat} {f : Nat → Option Nat} {res : FabricRes}
    (h : Memory.wf s.mem = true) (hs : s.atomic w key n f res = .ok (old, t)) : Memory.wf t.mem = true := by
  unfold State.atomic at hs
  split at hs
  · cases hs
  split at hs
  · cases hs
  · dsimp only at hs
    split at hs
    · cases hs
      split
      · exact h
      · rw [State.follow_mem]; exact h
    · cases hs
      split
      · rw [State.makeCheck_mem]; exact State.wf_poke h _
      · exact State.wf_poke h _

/-- Scrubbing part of memory keeps the canonical form. -/
theorem Memory.wf_filter {m : List Host.Cell} (h : Memory.wf m = true) (p : Host.Cell → Bool) : Memory.wf (m.filter p) = true :=
  Map.wf_filter h p

/-- Memory after reset has the canonical form. -/
theorem Memory.wf_reset : Memory.wf State.reset.mem = true := rfl

/-- A translation leaves memory. -/
theorem State.translate_mem (s : State) (c : Nat) (w : World) (asid va : Nat) (u : Use4) : (s.translate c w asid va u).2.mem = s.mem := by
  unfold State.translate
  dsimp only
  split
  · rfl
  · split
    · rfl
    · split <;> rfl

/-- Finding the pages of an agent leaves memory. -/
theorem State.agentXlat_mem (s : State) (agent : Nat) (w : World) (asid va : Nat) (u : Use4) :
    (s.agentXlat agent w asid va u).2.mem = s.mem := by
  have ask (s : State) : ((match s.walkIn w asid va with
      | .fail f => (.fail f, s)
      | .leaf e log => (match s.useLeaf e log va u with | .ok k _ => .ok k | .fail f => .fail f | .absent => .wait, s)
      | .absent => (.wait, (s.pageReq asid (BitVec.ofNat 64 va) u agent).2) : Agent Nat × State)).2.mem = s.mem := by
    split <;> rfl
  unfold State.agentXlat
  dsimp only
  split
  · exact ask s
  · split
    · rfl
    · exact ask _
    · rfl

/-- Finding all pages of a range leaves memory. -/
theorem State.agentKeys_mem (s : State) (agent : Nat) (w : World) (asid : Nat) (u : Use4) (ps : List (Nat × Nat)) :
    (s.agentKeys agent w asid u ps).2.mem = s.mem := by
  induction ps generalizing s with
  | nil => rfl
  | cons p ps ih =>
    have hx := State.agentXlat_mem s agent w asid p.1 u
    unfold State.agentKeys
    split
    · rename_i h; rw [h] at hx; exact hx
    · rename_i h; rw [h] at hx; exact hx
    · rename_i h
      rw [h] at hx
      have hi := ih (s.agentXlat agent w asid p.1 u).2
      rw [h] at hi
      split
      · rename_i hk; rw [hk] at hi; exact hi.trans hx
      · exact hi.trans hx

/-- Sending a flit leaves memory. -/
theorem State.sendFlit_mem (s : State) (k : Nat) (kind : FlitKind) (ms : List FabMsg) (tag part : Nat) :
    (s.sendFlit k kind ms tag part).mem = s.mem := by
  unfold State.sendFlit
  generalize (s.port k).flit kind ms part = f
  dsimp only
  split <;> rfl

/-- Protecting a message leaves memory. -/
@[simp] theorem State.protect_mem (s : State) (ch : Nat) (m : FabMsg) : (s.protect ch m).2.mem = s.mem := rfl

/-- Sending the flits of a message leaves memory. -/
theorem State.sendFlits_mem (k tag : Nat) (m : FabMsg) (js : List Nat) (s : State) :
    (js.foldl (fun s j => s.sendFlit k .traffic [m] tag j) s).mem = s.mem := by
  induction js generalizing s with
  | nil => rfl
  | cons j js ih => rw [List.foldl_cons, ih, State.sendFlit_mem]

/-- Sending a message leaves memory. -/
theorem State.sendMsg_mem (s : State) (k dev : Nat) (m : FabMsg) (tag : Nat) : (s.sendMsg k dev m tag).mem = s.mem := by
  have h : (if shielded (s.port k) m.world then s.protect (channel (s.port k) dev) m else (m, s)).2.mem = s.mem := by
    split
    · exact State.protect_mem ..
    · rfl
  unfold State.sendMsg
  dsimp only
  generalize (if shielded (s.port k) m.world then s.protect (channel (s.port k) dev) m else (m, s)) = r at h
  split
  · exact h
  · rw [State.sendFlits_mem]; exact h

/-- Sending a request leaves memory. -/
theorem State.sendReq_mem {s t : State} {ctx dev : Nat} {m : FabMsg} {wr : Bool} {tag : Nat} (h : s.sendReq ctx dev m wr tag = .ok t) :
    t.mem = s.mem := by
  unfold State.sendReq at h
  split at h
  · cases h
  split at h
  · cases h
  dsimp only at h
  split at h
  · cases h
  · cases h; rw [State.sendMsg_mem]; split <;> rfl

/-- Sending the requests of an agent leaves memory. -/
theorem State.agentAsk_mem (agent : Nat) (w : World) (asid : Nat) (ps : List AgentPart) (s : State) :
    (s.agentAsk agent w asid ps).mem = s.mem := by
  induction ps generalizing s with
  | nil => rfl
  | cons p ps ih =>
    unfold State.agentAsk
    split
    · exact ih s
    · dsimp only
      split
      · rw [ih]; rfl
      · rename_i u h
        have hu := State.sendReq_mem h
        rw [ih]; exact hu

/-- An acknowledgement leaves memory. -/
@[simp] theorem State.acked_mem (s : State) (tag : Nat) : (s.acked tag).mem = s.mem := rfl

/-- The end of requests of agents leaves memory. -/
theorem State.askOver_mem (s : State) (sel : AgentReq → Bool) : (s.askOver sel).mem = s.mem := by
  unfold State.askOver
  generalize (s.areqs.filter fun r => sel r.2) = rs
  induction rs generalizing s with
  | nil => rfl
  | cons r rs ih => rw [List.foldl_cons, ih, State.acked_mem]

/-- Taking the answers of an agent leaves memory. -/
theorem State.agentTaken_mem (s : State) (agent : Nat) (ps : List AgentPart) : (s.agentTaken agent ps).mem = s.mem :=
  State.askOver_mem ..

/-- Waiting for the answers to an agent leaves memory. -/
theorem State.agentAwait_mem (s : State) (agent : Nat) (w : World) (asid : Nat) (ps : List AgentPart) :
    (s.agentAwait agent w asid ps).2.mem = s.mem := State.agentAsk_mem ..

/-- The answers of other devices to an agent leave memory. -/
theorem State.agentAnswers_mem (s : State) (agent : Nat) (w : World) (asid : Nat) (ps : List AgentPart) :
    (s.agentAnswers agent w asid ps).2.mem = s.mem := by
  have h := State.agentAwait_mem s agent w asid ps
  unfold State.agentAnswers
  split
  · rename_i he; rw [he] at h; exact h
  · rename_i he; rw [he] at h; exact (State.agentTaken_mem ..).trans h

/-- A transfer that fails IDE leaves memory. -/
theorem State.linkFail_mem {s t : State} {ks : List (Nat × Nat)} (h : s.linkFail ks = some t) : t.mem = s.mem := by
  unfold State.linkFail at h
  dsimp only at h
  split at h
  · cases h
  · cases h; rfl

/-- A read of an agent leaves memory. -/
theorem State.agentRead_mem (s : State) (agent : Nat) (w : World) (asid va n unit : Nat) :
    (s.agentRead agent w asid va n unit).2.mem = s.mem := by
  have hx := State.agentKeys_mem s agent w asid .load (pagesOf va n)
  unfold State.agentRead
  split
  · rename_i h; rw [h] at hx; exact hx
  · rename_i h; rw [h] at hx; exact hx
  · rename_i ks s' h
    rw [h] at hx
    split
    · rename_i hf; exact (State.linkFail_mem hf).trans hx
    · have ha := State.agentAnswers_mem s' agent w asid (ks.map fun k => { key := k.1, n := k.2, op := .load k.2, unit })
      split
      · rename_i h; rw [h] at ha; exact ha.trans hx
      · rename_i h; rw [h] at ha; exact ha.trans hx
      · rename_i h; rw [h] at ha; split <;> exact ha.trans hx

/-- Storing pieces keeps the canonical form. -/
theorem State.wf_storeParts {w : World} {ps : List (Nat × Nat × List Byte)} {s t : State} (h : Memory.wf s.mem = true)
    (hs : s.storeParts w ps = .ok t) : Memory.wf t.mem = true := by
  induction ps generalizing s with
  | nil => cases hs; exact h
  | cons p ps ih =>
    unfold State.storeParts at hs
    split at hs
    · cases hs
    · rename_i hst; exact ih (State.wf_store h hst) hs

/-- A write of an agent keeps the canonical form. -/
theorem State.wf_agentWrite {s : State} (h : Memory.wf s.mem = true) (agent : Nat) (w : World) (asid va : Nat) (bs : List Byte) :
    Memory.wf (s.agentWrite agent w asid va bs).2.mem = true := by
  have hx := State.agentKeys_mem s agent w asid .store (pagesOf va bs.length)
  unfold State.agentWrite
  split
  · rename_i hk; rw [hk] at hx; dsimp only at hx ⊢; rwa [hx]
  · rename_i hk; rw [hk] at hx; dsimp only at hx ⊢; rwa [hx]
  · rename_i ks s' hk
    rw [hk] at hx
    have hs' : Memory.wf s'.mem = true := by rw [show s'.mem = s.mem from hx]; exact h
    have ha := State.agentAnswers_mem s' agent w asid
      ((splitBytes ks bs).map fun p => { key := p.1, n := p.2.1, op := .store, data := p.2.2 })
    dsimp only
    split
    · rename_i u hk
      rw [hk] at ha
      have hu : Memory.wf u.mem = true := by rw [show u.mem = s'.mem from ha]; exact hs'
      split
      · exact hu
      · rename_i hst; exact State.wf_storeParts hu hst
    · rw [ha]; exact hs'

/-- An atomic add or a store of an agent keeps the canonical form. -/
theorem State.wf_agentAdd {s : State} (h : Memory.wf s.mem = true) (agent : Nat) (w : World) (asid va : Nat) (v : Dword) (add : Bool)
    (scope : Nat) : Memory.wf (s.agentAdd agent w asid va v add scope).2.mem = true := by
  have hx := State.agentXlat_mem s agent w asid va (if add then .atomic else .store)
  unfold State.agentAdd
  split
  · rename_i hk; rw [hk] at hx; dsimp only at hx ⊢; rwa [hx]
  · rename_i hk; rw [hk] at hx; dsimp only at hx ⊢; rwa [hx]
  · rename_i k s' hk
    rw [hk] at hx
    have hs' : Memory.wf s'.mem = true := by rw [show s'.mem = s.mem from hx]; exact h
    have ha (p : AgentPart) := State.agentAnswers_mem s' agent w asid [p]
    dsimp only
    split
    · rename_i u hf
      rw [State.linkFail_mem hf]; exact hs'
    · split
      · rename_i u hk
        have hu : Memory.wf u.mem = true := by
          have hu := congrArg (fun r : Agent Unit × State => r.2.mem) hk
          exact (hu.symm.trans (ha _)) ▸ hs'
        split
        · split
          · exact hu
          · rename_i ha; exact State.wf_atomic hu ha
        · split
          · exact hu
          · rename_i ha; exact State.wf_store hu ha
      · rw [ha]; exact hs'

end Sys2Proof.Machine
end

