-- ==== Sys2Proof/Laws/PerInstr.lean ====
section
/-!
SUPPORT. For each instruction: the decoder reads the encoder's fields back (R262 to R274), one lemma per constructor.
-/
namespace Sys2Proof.Laws.Decodes

/-- Decoding the encoded fields of a well-formed instruction gives it back. -/
def Statement (i : Instr) : Prop := ∀ r, i.wellFormed = true → encodeRaw i = some r → decodeRaw r = some i

theorem nop h : Statement (.nop h) := by
  intro r hw he
  obtain ⟨pg, pn, la, rfl⟩ := wellFormed_hd hw rfl
  have hr := (Option.some.inj he).symm
  have e : decodeRaw r = if r.sub == 0 then some (.nop (r.hd (r.m != 0 || r.d != 0 || r.a != 0 || r.b != 0 || r.c != 0))) else none := by rw [hr]; rfl
  rw [e, hr]
  simp [Raw.hd, Raw.zero]
theorem nop96 h : Statement (.nop96 h) := by
  intro r hw he
  obtain ⟨pg, pn, la, rfl⟩ := wellFormed_hd hw rfl
  have hr := (Option.some.inj he).symm
  have e : decodeRaw r = if r.sub == 0 then some (.nop96 (r.hd (r.m != 0 || r.d != 0 || r.a != 0 || r.b != 0 || r.c != 0 || r.x != 0))) else none := by rw [hr]; rfl
  rw [e, hr]
  simp [Raw.hd, Raw.zero]
theorem nop128 h : Statement (.nop128 h) := by
  intro r hw he
  obtain ⟨pg, pn, la, rfl⟩ := wellFormed_hd hw rfl
  have hr := (Option.some.inj he).symm
  have e : decodeRaw r = if r.sub == 0 then some (.nop128 (r.hd (r.m != 0 || r.d != 0 || r.a != 0 || r.b != 0 || r.c != 0 || r.x != 0 || r.y != 0))) else none := by rw [hr]; rfl
  rw [e, hr]
  simp [Raw.hd, Raw.zero]
theorem nopOneParcel h : Statement (.nopOneParcel h) := by
  intro r hw he
  obtain ⟨pg, pn, la, rfl⟩ := wellFormed_hd hw rfl
  have hr := (Option.some.inj he).symm
  have e : decodeRaw r = if r.sub == 0 then some (.nopOneParcel (r.hd (r.d != 0))) else none := by rw [hr]; rfl
  rw [e, hr]
  simp [Raw.hd, Raw.zero]
theorem bra h off : Statement (.bra h off) := by
  intro r hw he
  obtain ⟨pg, pn, la, rfl⟩ := wellFormed_hd hw rfl
  have hr := (Option.some.inj he).symm
  have e : decodeRaw r = if r.sub == 0 then some (.bra (r.hd (r.m != 0 || r.d != 0 || r.a != 0 || r.b != 0 || r.c != 0)) r.x) else none := by rw [hr]; rfl
  rw [e, hr]
  simp [Raw.hd, Raw.zero]
theorem brx h a : Statement (.brx h a) := by
  intro r hw he
  obtain ⟨pg, pn, la, rfl⟩ := wellFormed_hd hw rfl
  have hr := (Option.some.inj he).symm
  have e : decodeRaw r = if r.sub == 0 then some (.brx (r.hd (r.m != 0 || r.d != 0 || r.b != 0 || r.c != 0)) r.a) else none := by rw [hr]; rfl
  rw [e, hr]
  simp [Raw.hd, Raw.zero]
theorem call h d off : Statement (.call h d off) := by
  intro r hw he
  obtain ⟨pg, pn, la, rfl⟩ := wellFormed_hd hw rfl
  have hr := (Option.some.inj he).symm
  have e : decodeRaw r = if r.sub == 0 then some (.call (r.hd (r.m != 0 || r.a != 0 || r.b != 0 || r.c != 0)) r.d r.x) else none := by rw [hr]; rfl
  rw [e, hr]
  simp [Raw.hd, Raw.zero]
theorem callx h d a : Statement (.callx h d a) := by
  intro r hw he
  obtain ⟨pg, pn, la, rfl⟩ := wellFormed_hd hw rfl
  have hr := (Option.some.inj he).symm
  have e : decodeRaw r = if r.sub == 0 then some (.callx (r.hd (r.m != 0 || r.b != 0 || r.c != 0)) r.d r.a) else none := by rw [hr]; rfl
  rw [e, hr]
  simp [Raw.hd, Raw.zero]
theorem ret h a : Statement (.ret h a) := by
  intro r hw he
  obtain ⟨pg, pn, la, rfl⟩ := wellFormed_hd hw rfl
  have hr := (Option.some.inj he).symm
  have e : decodeRaw r = if r.sub == 0 then some (.ret (r.hd (r.m != 0 || r.d != 0 || r.b != 0 || r.c != 0)) r.a) else none := by rw [hr]; rfl
  rw [e, hr]
  simp [Raw.hd, Raw.zero]
theorem exit h : Statement (.exit h) := by
  intro r hw he
  obtain ⟨pg, pn, la, rfl⟩ := wellFormed_hd hw rfl
  have hr := (Option.some.inj he).symm
  have e : decodeRaw r = if r.sub == 0 then some (.exit (r.hd (r.m != 0 || r.d != 0 || r.a != 0 || r.b != 0 || r.c != 0))) else none := by rw [hr]; rfl
  rw [e, hr]
  simp [Raw.hd, Raw.zero]
theorem yield h : Statement (.yield h) := by
  intro r hw he
  obtain ⟨pg, pn, la, rfl⟩ := wellFormed_hd hw rfl
  have hr := (Option.some.inj he).symm
  have e : decodeRaw r = if r.sub == 0 then some (.yield (r.hd (r.m != 0 || r.d != 0 || r.a != 0 || r.b != 0 || r.c != 0))) else none := by rw [hr]; rfl
  rw [e, hr]
  simp [Raw.hd, Raw.zero]
theorem iadd h sat ty d a b : Statement (.iadd h sat ty d a b) := by
  intro r hw he
  obtain ⟨pg, pn, la, rfl⟩ := wellFormed_hd hw rfl
  have hr := (Option.some.inj he).symm
  have e : decodeRaw r = if r.sub == 0 || r.sub == 1 then some (.iadd (r.hd (r.c != 0)) (r.sub == 1) r.m r.d r.a r.b) else none := by rw [hr]; rfl
  rw [e, hr]
  simp [Raw.hd, Raw.zero]
theorem iaddImm h sat ty d a imm : Statement (.iaddImm h sat ty d a imm) := by
  intro r hw he
  obtain ⟨pg, pn, la, rfl⟩ := wellFormed_hd hw rfl
  have hr := (Option.some.inj he).symm
  have e : decodeRaw r = if r.sub == 0 || r.sub == 1 then some (.iaddImm (r.hd (r.c != 0 || r.b >>> 2 != 0)) (r.sub == 1) r.m r.d r.a (immOf r)) else none := by rw [hr]; rfl
  rw [e, hr]
  simp [Raw.hd, Raw.zero]
theorem isub h sat ty d a b : Statement (.isub h sat ty d a b) := by
  intro r hw he
  obtain ⟨pg, pn, la, rfl⟩ := wellFormed_hd hw rfl
  have hr := (Option.some.inj he).symm
  have e : decodeRaw r = if r.sub == 0 || r.sub == 1 then some (.isub (r.hd (r.c != 0)) (r.sub == 1) r.m r.d r.a r.b) else none := by rw [hr]; rfl
  rw [e, hr]
  simp [Raw.hd, Raw.zero]
theorem isubImm h sat ty d a imm : Statement (.isubImm h sat ty d a imm) := by
  intro r hw he
  obtain ⟨pg, pn, la, rfl⟩ := wellFormed_hd hw rfl
  have hr := (Option.some.inj he).symm
  have e : decodeRaw r = if r.sub == 0 || r.sub == 1 then some (.isubImm (r.hd (r.c != 0 || r.b >>> 2 != 0)) (r.sub == 1) r.m r.d r.a (immOf r)) else none := by rw [hr]; rfl
  rw [e, hr]
  simp [Raw.hd, Raw.zero]
theorem imul h ty d a b : Statement (.imul h ty d a b) := by
  intro r hw he
  obtain ⟨pg, pn, la, rfl⟩ := wellFormed_hd hw rfl
  have hr := (Option.some.inj he).symm
  have e : decodeRaw r = if r.sub == 0 then some (.imul (r.hd (r.c != 0)) r.m r.d r.a r.b) else none := by rw [hr]; rfl
  rw [e, hr]
  simp [Raw.hd, Raw.zero]
theorem imulImm h ty d a imm : Statement (.imulImm h ty d a imm) := by
  intro r hw he
  obtain ⟨pg, pn, la, rfl⟩ := wellFormed_hd hw rfl
  have hr := (Option.some.inj he).symm
  have e : decodeRaw r = if r.sub == 0 then some (.imulImm (r.hd (r.c != 0 || r.b >>> 2 != 0)) r.m r.d r.a (immOf r)) else none := by rw [hr]; rfl
  rw [e, hr]
  simp [Raw.hd, Raw.zero]
theorem imulh h ty d a b : Statement (.imulh h ty d a b) := by
  intro r hw he
  obtain ⟨pg, pn, la, rfl⟩ := wellFormed_hd hw rfl
  have hr := (Option.some.inj he).symm
  have e : decodeRaw r = if r.sub == 0 then some (.imulh (r.hd (r.c != 0)) r.m r.d r.a r.b) else none := by rw [hr]; rfl
  rw [e, hr]
  simp [Raw.hd, Raw.zero]
theorem imulhImm h ty d a imm : Statement (.imulhImm h ty d a imm) := by
  intro r hw he
  obtain ⟨pg, pn, la, rfl⟩ := wellFormed_hd hw rfl
  have hr := (Option.some.inj he).symm
  have e : decodeRaw r = if r.sub == 0 then some (.imulhImm (r.hd (r.c != 0 || r.b >>> 2 != 0)) r.m r.d r.a (immOf r)) else none := by rw [hr]; rfl
  rw [e, hr]
  simp [Raw.hd, Raw.zero]
theorem imad h ty d a b c : Statement (.imad h ty d a b c) := by
  intro r hw he
  obtain ⟨pg, pn, la, rfl⟩ := wellFormed_hd hw rfl
  have hr := (Option.some.inj he).symm
  have e : decodeRaw r = if r.sub == 0 then some (.imad (r.hd (false)) r.m r.d r.a r.b r.c) else none := by rw [hr]; rfl
  rw [e, hr]
  simp [Raw.hd, Raw.zero]
theorem imadImm h ty d a c imm : Statement (.imadImm h ty d a c imm) := by
  intro r hw he
  obtain ⟨pg, pn, la, rfl⟩ := wellFormed_hd hw rfl
  have hr := (Option.some.inj he).symm
  have e : decodeRaw r = if r.sub == 0 then some (.imadImm (r.hd (r.b >>> 2 != 0)) r.m r.d r.a r.c (immOf r)) else none := by rw [hr]; rfl
  rw [e, hr]
  simp [Raw.hd, Raw.zero]
theorem imin h ty d a b : Statement (.imin h ty d a b) := by
  intro r hw he
  obtain ⟨pg, pn, la, rfl⟩ := wellFormed_hd hw rfl
  have hr := (Option.some.inj he).symm
  have e : decodeRaw r = if r.sub == 0 then some (.imin (r.hd (r.c != 0)) r.m r.d r.a r.b) else none := by rw [hr]; rfl
  rw [e, hr]
  simp [Raw.hd, Raw.zero]
theorem iminImm h ty d a imm : Statement (.iminImm h ty d a imm) := by
  intro r hw he
  obtain ⟨pg, pn, la, rfl⟩ := wellFormed_hd hw rfl
  have hr := (Option.some.inj he).symm
  have e : decodeRaw r = if r.sub == 0 then some (.iminImm (r.hd (r.c != 0 || r.b >>> 2 != 0)) r.m r.d r.a (immOf r)) else none := by rw [hr]; rfl
  rw [e, hr]
  simp [Raw.hd, Raw.zero]
theorem imax h ty d a b : Statement (.imax h ty d a b) := by
  intro r hw he
  obtain ⟨pg, pn, la, rfl⟩ := wellFormed_hd hw rfl
  have hr := (Option.some.inj he).symm
  have e : decodeRaw r = if r.sub == 0 then some (.imax (r.hd (r.c != 0)) r.m r.d r.a r.b) else none := by rw [hr]; rfl
  rw [e, hr]
  simp [Raw.hd, Raw.zero]
theorem imaxImm h ty d a imm : Statement (.imaxImm h ty d a imm) := by
  intro r hw he
  obtain ⟨pg, pn, la, rfl⟩ := wellFormed_hd hw rfl
  have hr := (Option.some.inj he).symm
  have e : decodeRaw r = if r.sub == 0 then some (.imaxImm (r.hd (r.c != 0 || r.b >>> 2 != 0)) r.m r.d r.a (immOf r)) else none := by rw [hr]; rfl
  rw [e, hr]
  simp [Raw.hd, Raw.zero]
theorem iabs h ty d a : Statement (.iabs h ty d a) := by
  intro r hw he
  obtain ⟨pg, pn, la, rfl⟩ := wellFormed_hd hw rfl
  have hr := (Option.some.inj he).symm
  have e : decodeRaw r = if r.sub == 0 then some (.iabs (r.hd (r.b != 0 || r.c != 0)) r.m r.d r.a) else none := by rw [hr]; rfl
  rw [e, hr]
  simp [Raw.hd, Raw.zero]
theorem ineg h ty d a : Statement (.ineg h ty d a) := by
  intro r hw he
  obtain ⟨pg, pn, la, rfl⟩ := wellFormed_hd hw rfl
  have hr := (Option.some.inj he).symm
  have e : decodeRaw r = if r.sub == 0 then some (.ineg (r.hd (r.b != 0 || r.c != 0)) r.m r.d r.a) else none := by rw [hr]; rfl
  rw [e, hr]
  simp [Raw.hd, Raw.zero]
theorem idiv h ty d a b : Statement (.idiv h ty d a b) := by
  intro r hw he
  obtain ⟨pg, pn, la, rfl⟩ := wellFormed_hd hw rfl
  have hr := (Option.some.inj he).symm
  have e : decodeRaw r = if r.sub == 0 then some (.idiv (r.hd (r.c != 0)) r.m r.d r.a r.b) else none := by rw [hr]; rfl
  rw [e, hr]
  simp [Raw.hd, Raw.zero]
theorem idivImm h ty d a imm : Statement (.idivImm h ty d a imm) := by
  intro r hw he
  obtain ⟨pg, pn, la, rfl⟩ := wellFormed_hd hw rfl
  have hr := (Option.some.inj he).symm
  have e : decodeRaw r = if r.sub == 0 then some (.idivImm (r.hd (r.c != 0 || r.b >>> 2 != 0)) r.m r.d r.a (immOf r)) else none := by rw [hr]; rfl
  rw [e, hr]
  simp [Raw.hd, Raw.zero]
theorem imod h ty d a b : Statement (.imod h ty d a b) := by
  intro r hw he
  obtain ⟨pg, pn, la, rfl⟩ := wellFormed_hd hw rfl
  have hr := (Option.some.inj he).symm
  have e : decodeRaw r = if r.sub == 0 then some (.imod (r.hd (r.c != 0)) r.m r.d r.a r.b) else none := by rw [hr]; rfl
  rw [e, hr]
  simp [Raw.hd, Raw.zero]
theorem imodImm h ty d a imm : Statement (.imodImm h ty d a imm) := by
  intro r hw he
  obtain ⟨pg, pn, la, rfl⟩ := wellFormed_hd hw rfl
  have hr := (Option.some.inj he).symm
  have e : decodeRaw r = if r.sub == 0 then some (.imodImm (r.hd (r.c != 0 || r.b >>> 2 != 0)) r.m r.d r.a (immOf r)) else none := by rw [hr]; rfl
  rw [e, hr]
  simp [Raw.hd, Raw.zero]
theorem icmp h cmp ty d a b : Statement (.icmp h cmp ty d a b) := by
  intro r hw he
  obtain ⟨pg, pn, la, rfl⟩ := wellFormed_hd hw rfl
  have hr := (Option.some.inj he).symm
  have e : decodeRaw r = (cmpOf r.sub).map fun x => (.icmp (r.hd (r.d >>> 3 != 0 || r.c != 0)) x r.m (r.d.setWidth 3) r.a r.b) := by rw [hr]; rfl
  rw [e, hr]
  simp [Raw.hd, Raw.zero]
theorem icmpImm h cmp ty d a imm : Statement (.icmpImm h cmp ty d a imm) := by
  intro r hw he
  obtain ⟨pg, pn, la, rfl⟩ := wellFormed_hd hw rfl
  have hr := (Option.some.inj he).symm
  have e : decodeRaw r = (cmpOf r.sub).map fun x => (.icmpImm (r.hd (r.d >>> 3 != 0 || r.c != 0 || r.b >>> 2 != 0)) x r.m (r.d.setWidth 3) r.a (immOf r)) := by rw [hr]; rfl
  rw [e, hr]
  simp [Raw.hd, Raw.zero]
theorem and h ty d a b : Statement (.and h ty d a b) := by
  intro r hw he
  obtain ⟨pg, pn, la, rfl⟩ := wellFormed_hd hw rfl
  have hr := (Option.some.inj he).symm
  have e : decodeRaw r = if r.sub == 0 then some (.and (r.hd (r.c != 0)) r.m r.d r.a r.b) else none := by rw [hr]; rfl
  rw [e, hr]
  simp [Raw.hd, Raw.zero]
theorem andImm h ty d a imm : Statement (.andImm h ty d a imm) := by
  intro r hw he
  obtain ⟨pg, pn, la, rfl⟩ := wellFormed_hd hw rfl
  have hr := (Option.some.inj he).symm
  have e : decodeRaw r = if r.sub == 0 then some (.andImm (r.hd (r.c != 0 || r.b >>> 2 != 0)) r.m r.d r.a (immOf r)) else none := by rw [hr]; rfl
  rw [e, hr]
  simp [Raw.hd, Raw.zero]
theorem or h ty d a b : Statement (.or h ty d a b) := by
  intro r hw he
  obtain ⟨pg, pn, la, rfl⟩ := wellFormed_hd hw rfl
  have hr := (Option.some.inj he).symm
  have e : decodeRaw r = if r.sub == 0 then some (.or (r.hd (r.c != 0)) r.m r.d r.a r.b) else none := by rw [hr]; rfl
  rw [e, hr]
  simp [Raw.hd, Raw.zero]
theorem orImm h ty d a imm : Statement (.orImm h ty d a imm) := by
  intro r hw he
  obtain ⟨pg, pn, la, rfl⟩ := wellFormed_hd hw rfl
  have hr := (Option.some.inj he).symm
  have e : decodeRaw r = if r.sub == 0 then some (.orImm (r.hd (r.c != 0 || r.b >>> 2 != 0)) r.m r.d r.a (immOf r)) else none := by rw [hr]; rfl
  rw [e, hr]
  simp [Raw.hd, Raw.zero]
theorem xor h ty d a b : Statement (.xor h ty d a b) := by
  intro r hw he
  obtain ⟨pg, pn, la, rfl⟩ := wellFormed_hd hw rfl
  have hr := (Option.some.inj he).symm
  have e : decodeRaw r = if r.sub == 0 then some (.xor (r.hd (r.c != 0)) r.m r.d r.a r.b) else none := by rw [hr]; rfl
  rw [e, hr]
  simp [Raw.hd, Raw.zero]
theorem xorImm h ty d a imm : Statement (.xorImm h ty d a imm) := by
  intro r hw he
  obtain ⟨pg, pn, la, rfl⟩ := wellFormed_hd hw rfl
  have hr := (Option.some.inj he).symm
  have e : decodeRaw r = if r.sub == 0 then some (.xorImm (r.hd (r.c != 0 || r.b >>> 2 != 0)) r.m r.d r.a (immOf r)) else none := by rw [hr]; rfl
  rw [e, hr]
  simp [Raw.hd, Raw.zero]
theorem not h ty d a : Statement (.not h ty d a) := by
  intro r hw he
  obtain ⟨pg, pn, la, rfl⟩ := wellFormed_hd hw rfl
  have hr := (Option.some.inj he).symm
  have e : decodeRaw r = if r.sub == 0 then some (.not (r.hd (r.b != 0 || r.c != 0)) r.m r.d r.a) else none := by rw [hr]; rfl
  rw [e, hr]
  simp [Raw.hd, Raw.zero]
theorem andn h ty d a b : Statement (.andn h ty d a b) := by
  intro r hw he
  obtain ⟨pg, pn, la, rfl⟩ := wellFormed_hd hw rfl
  have hr := (Option.some.inj he).symm
  have e : decodeRaw r = if r.sub == 0 then some (.andn (r.hd (r.c != 0)) r.m r.d r.a r.b) else none := by rw [hr]; rfl
  rw [e, hr]
  simp [Raw.hd, Raw.zero]
theorem andnImm h ty d a imm : Statement (.andnImm h ty d a imm) := by
  intro r hw he
  obtain ⟨pg, pn, la, rfl⟩ := wellFormed_hd hw rfl
  have hr := (Option.some.inj he).symm
  have e : decodeRaw r = if r.sub == 0 then some (.andnImm (r.hd (r.c != 0 || r.b >>> 2 != 0)) r.m r.d r.a (immOf r)) else none := by rw [hr]; rfl
  rw [e, hr]
  simp [Raw.hd, Raw.zero]
theorem shl h ty d a b : Statement (.shl h ty d a b) := by
  intro r hw he
  obtain ⟨pg, pn, la, rfl⟩ := wellFormed_hd hw rfl
  have hr := (Option.some.inj he).symm
  have e : decodeRaw r = if r.sub == 0 then some (.shl (r.hd (r.c != 0)) r.m r.d r.a r.b) else none := by rw [hr]; rfl
  rw [e, hr]
  simp [Raw.hd, Raw.zero]
theorem shlImm h ty d a imm : Statement (.shlImm h ty d a imm) := by
  intro r hw he
  obtain ⟨pg, pn, la, rfl⟩ := wellFormed_hd hw rfl
  have hr := (Option.some.inj he).symm
  have e : decodeRaw r = if r.sub == 0 then some (.shlImm (r.hd (r.c != 0 || r.b >>> 2 != 0)) r.m r.d r.a (immOf r)) else none := by rw [hr]; rfl
  rw [e, hr]
  simp [Raw.hd, Raw.zero]
theorem shr h ty d a b : Statement (.shr h ty d a b) := by
  intro r hw he
  obtain ⟨pg, pn, la, rfl⟩ := wellFormed_hd hw rfl
  have hr := (Option.some.inj he).symm
  have e : decodeRaw r = if r.sub == 0 then some (.shr (r.hd (r.c != 0)) r.m r.d r.a r.b) else none := by rw [hr]; rfl
  rw [e, hr]
  simp [Raw.hd, Raw.zero]
theorem shrImm h ty d a imm : Statement (.shrImm h ty d a imm) := by
  intro r hw he
  obtain ⟨pg, pn, la, rfl⟩ := wellFormed_hd hw rfl
  have hr := (Option.some.inj he).symm
  have e : decodeRaw r = if r.sub == 0 then some (.shrImm (r.hd (r.c != 0 || r.b >>> 2 != 0)) r.m r.d r.a (immOf r)) else none := by rw [hr]; rfl
  rw [e, hr]
  simp [Raw.hd, Raw.zero]
theorem sar h ty d a b : Statement (.sar h ty d a b) := by
  intro r hw he
  obtain ⟨pg, pn, la, rfl⟩ := wellFormed_hd hw rfl
  have hr := (Option.some.inj he).symm
  have e : decodeRaw r = if r.sub == 0 then some (.sar (r.hd (r.c != 0)) r.m r.d r.a r.b) else none := by rw [hr]; rfl
  rw [e, hr]
  simp [Raw.hd, Raw.zero]
theorem sarImm h ty d a imm : Statement (.sarImm h ty d a imm) := by
  intro r hw he
  obtain ⟨pg, pn, la, rfl⟩ := wellFormed_hd hw rfl
  have hr := (Option.some.inj he).symm
  have e : decodeRaw r = if r.sub == 0 then some (.sarImm (r.hd (r.c != 0 || r.b >>> 2 != 0)) r.m r.d r.a (immOf r)) else none := by rw [hr]; rfl
  rw [e, hr]
  simp [Raw.hd, Raw.zero]
theorem rot h ty d a b : Statement (.rot h ty d a b) := by
  intro r hw he
  obtain ⟨pg, pn, la, rfl⟩ := wellFormed_hd hw rfl
  have hr := (Option.some.inj he).symm
  have e : decodeRaw r = if r.sub == 0 then some (.rot (r.hd (r.c != 0)) r.m r.d r.a r.b) else none := by rw [hr]; rfl
  rw [e, hr]
  simp [Raw.hd, Raw.zero]
theorem rotImm h ty d a imm : Statement (.rotImm h ty d a imm) := by
  intro r hw he
  obtain ⟨pg, pn, la, rfl⟩ := wellFormed_hd hw rfl
  have hr := (Option.some.inj he).symm
  have e : decodeRaw r = if r.sub == 0 then some (.rotImm (r.hd (r.c != 0 || r.b >>> 2 != 0)) r.m r.d r.a (immOf r)) else none := by rw [hr]; rfl
  rw [e, hr]
  simp [Raw.hd, Raw.zero]
theorem popc h ty d a : Statement (.popc h ty d a) := by
  intro r hw he
  obtain ⟨pg, pn, la, rfl⟩ := wellFormed_hd hw rfl
  have hr := (Option.some.inj he).symm
  have e : decodeRaw r = if r.sub == 0 then some (.popc (r.hd (r.b != 0 || r.c != 0)) r.m r.d r.a) else none := by rw [hr]; rfl
  rw [e, hr]
  simp [Raw.hd, Raw.zero]
theorem clz h ty d a : Statement (.clz h ty d a) := by
  intro r hw he
  obtain ⟨pg, pn, la, rfl⟩ := wellFormed_hd hw rfl
  have hr := (Option.some.inj he).symm
  have e : decodeRaw r = if r.sub == 0 then some (.clz (r.hd (r.b != 0 || r.c != 0)) r.m r.d r.a) else none := by rw [hr]; rfl
  rw [e, hr]
  simp [Raw.hd, Raw.zero]
theorem ctz h ty d a : Statement (.ctz h ty d a) := by
  intro r hw he
  obtain ⟨pg, pn, la, rfl⟩ := wellFormed_hd hw rfl
  have hr := (Option.some.inj he).symm
  have e : decodeRaw r = if r.sub == 0 then some (.ctz (r.hd (r.b != 0 || r.c != 0)) r.m r.d r.a) else none := by rw [hr]; rfl
  rw [e, hr]
  simp [Raw.hd, Raw.zero]
theorem brev h ty d a : Statement (.brev h ty d a) := by
  intro r hw he
  obtain ⟨pg, pn, la, rfl⟩ := wellFormed_hd hw rfl
  have hr := (Option.some.inj he).symm
  have e : decodeRaw r = if r.sub == 0 then some (.brev (r.hd (r.b != 0 || r.c != 0)) r.m r.d r.a) else none := by rw [hr]; rfl
  rw [e, hr]
  simp [Raw.hd, Raw.zero]
theorem bfx h ty d a b : Statement (.bfx h ty d a b) := by
  intro r hw he
  obtain ⟨pg, pn, la, rfl⟩ := wellFormed_hd hw rfl
  have hr := (Option.some.inj he).symm
  have e : decodeRaw r = if r.sub == 0 then some (.bfx (r.hd (r.c != 0)) r.m r.d r.a r.b) else none := by rw [hr]; rfl
  rw [e, hr]
  simp [Raw.hd, Raw.zero]
theorem bfxImm h ty d a imm : Statement (.bfxImm h ty d a imm) := by
  intro r hw he
  obtain ⟨pg, pn, la, rfl⟩ := wellFormed_hd hw rfl
  have hr := (Option.some.inj he).symm
  have e : decodeRaw r = if r.sub == 0 then some (.bfxImm (r.hd (r.c != 0 || r.b >>> 2 != 0)) r.m r.d r.a (immOf r)) else none := by rw [hr]; rfl
  rw [e, hr]
  simp [Raw.hd, Raw.zero]
theorem bfi h ty d a b c : Statement (.bfi h ty d a b c) := by
  intro r hw he
  obtain ⟨pg, pn, la, rfl⟩ := wellFormed_hd hw rfl
  have hr := (Option.some.inj he).symm
  have e : decodeRaw r = if r.sub == 0 then some (.bfi (r.hd (false)) r.m r.d r.a r.b r.c) else none := by rw [hr]; rfl
  rw [e, hr]
  simp [Raw.hd, Raw.zero]
theorem bfiImm h ty d a c imm : Statement (.bfiImm h ty d a c imm) := by
  intro r hw he
  obtain ⟨pg, pn, la, rfl⟩ := wellFormed_hd hw rfl
  have hr := (Option.some.inj he).symm
  have e : decodeRaw r = if r.sub == 0 then some (.bfiImm (r.hd (r.b >>> 2 != 0)) r.m r.d r.a r.c (immOf r)) else none := by rw [hr]; rfl
  rw [e, hr]
  simp [Raw.hd, Raw.zero]
theorem bperm h ty d a b c : Statement (.bperm h ty d a b c) := by
  intro r hw he
  obtain ⟨pg, pn, la, rfl⟩ := wellFormed_hd hw rfl
  have hr := (Option.some.inj he).symm
  have e : decodeRaw r = if r.sub == 0 then some (.bperm (r.hd (false)) r.m r.d r.a r.b r.c) else none := by rw [hr]; rfl
  rw [e, hr]
  simp [Raw.hd, Raw.zero]
theorem bpermImm h ty d a c imm : Statement (.bpermImm h ty d a c imm) := by
  intro r hw he
  obtain ⟨pg, pn, la, rfl⟩ := wellFormed_hd hw rfl
  have hr := (Option.some.inj he).symm
  have e : decodeRaw r = if r.sub == 0 then some (.bpermImm (r.hd (r.b >>> 2 != 0)) r.m r.d r.a r.c (immOf r)) else none := by rw [hr]; rfl
  rw [e, hr]
  simp [Raw.hd, Raw.zero]
theorem mov h ty d a : Statement (.mov h ty d a) := by
  intro r hw he
  obtain ⟨pg, pn, la, rfl⟩ := wellFormed_hd hw rfl
  have hr := (Option.some.inj he).symm
  have e : decodeRaw r = if r.sub == 0 then some (.mov (r.hd (r.b != 0 || r.c != 0)) r.m r.d r.a) else none := by rw [hr]; rfl
  rw [e, hr]
  simp [Raw.hd, Raw.zero]
theorem movi h ty d imm : Statement (.movi h ty d imm) := by
  intro r hw he
  obtain ⟨pg, pn, la, rfl⟩ := wellFormed_hd hw rfl
  have hr := (Option.some.inj he).symm
  have e : decodeRaw r = if r.sub == 0 then some (.movi (r.hd (r.a != 0 || r.c != 0 || r.b >>> 2 != 0)) r.m r.d (immOf r)) else none := by rw [hr]; rfl
  rw [e, hr]
  simp [Raw.hd, Raw.zero]
theorem sel h ty d a b c : Statement (.sel h ty d a b c) := by
  intro r hw he
  obtain ⟨pg, pn, la, rfl⟩ := wellFormed_hd hw rfl
  have hr := (Option.some.inj he).symm
  have e : decodeRaw r = if r.sub == 0 then some (.sel (r.hd (r.c >>> 3 != 0)) r.m r.d r.a r.b (r.c.setWidth 3)) else none := by rw [hr]; rfl
  rw [e, hr]
  simp [Raw.hd, Raw.zero]
theorem selImm h ty d a c imm : Statement (.selImm h ty d a c imm) := by
  intro r hw he
  obtain ⟨pg, pn, la, rfl⟩ := wellFormed_hd hw rfl
  have hr := (Option.some.inj he).symm
  have e : decodeRaw r = if r.sub == 0 then some (.selImm (r.hd (r.c >>> 3 != 0 || r.b >>> 2 != 0)) r.m r.d r.a (r.c.setWidth 3) (immOf r)) else none := by rw [hr]; rfl
  rw [e, hr]
  simp [Raw.hd, Raw.zero]
theorem lea h ty d a b sh : Statement (.lea h ty d a b sh) := by
  intro r hw he
  obtain ⟨pg, pn, la, rfl⟩ := wellFormed_hd hw rfl
  have hr := (Option.some.inj he).symm
  have e : decodeRaw r = if r.sub == 0 then some (.lea (r.hd (r.c >>> 3 != 0)) r.m r.d r.a r.b (r.c.setWidth 3)) else none := by rw [hr]; rfl
  rw [e, hr]
  simp [Raw.hd, Raw.zero]
theorem leaImm h ty d a sh imm : Statement (.leaImm h ty d a sh imm) := by
  intro r hw he
  obtain ⟨pg, pn, la, rfl⟩ := wellFormed_hd hw rfl
  have hr := (Option.some.inj he).symm
  have e : decodeRaw r = if r.sub == 0 then some (.leaImm (r.hd (r.c >>> 3 != 0 || r.b >>> 2 != 0)) r.m r.d r.a (r.c.setWidth 3) (immOf r)) else none := by rw [hr]; rfl
  rw [e, hr]
  simp [Raw.hd, Raw.zero]
theorem plop h op ia ib d a b : Statement (.plop h op ia ib d a b) := by
  intro r hw he
  obtain ⟨pg, pn, la, rfl⟩ := wellFormed_hd hw rfl
  have hr := (Option.some.inj he).symm
  have e : decodeRaw r = (predOpOf r.sub).map fun x => (.plop (r.hd (r.m >>> 2 != 0 || r.d >>> 3 != 0 || r.a >>> 3 != 0 || r.b >>> 3 != 0 || r.c != 0)) x (r.m.getLsbD 0) (r.m.getLsbD 1) (r.d.setWidth 3) (r.a.setWidth 3) (r.b.setWidth 3)) := by rw [hr]; rfl
  rw [e, hr]
  simp [Raw.hd, Raw.zero]
theorem pmovToRegister h d : Statement (.pmovToRegister h d) := by
  intro r hw he
  obtain ⟨pg, pn, la, rfl⟩ := wellFormed_hd hw rfl
  have hr := (Option.some.inj he).symm
  have e : decodeRaw r = if r.sub == 0 then some (.pmovToRegister (r.hd (r.m != 0 || r.a != 0 || r.b != 0 || r.c != 0)) r.d) else if r.sub == 1 then some (.pmovToPredicates (r.hd (r.m != 0 || r.d != 0 || r.b != 0 || r.c != 0)) r.a) else none := by rw [hr]; rfl
  rw [e, hr]
  simp [Raw.hd, Raw.zero]
theorem pmovToPredicates h a : Statement (.pmovToPredicates h a) := by
  intro r hw he
  obtain ⟨pg, pn, la, rfl⟩ := wellFormed_hd hw rfl
  have hr := (Option.some.inj he).symm
  have e : decodeRaw r = if r.sub == 0 then some (.pmovToRegister (r.hd (r.m != 0 || r.a != 0 || r.b != 0 || r.c != 0)) r.d) else if r.sub == 1 then some (.pmovToPredicates (r.hd (r.m != 0 || r.d != 0 || r.b != 0 || r.c != 0)) r.a) else none := by rw [hr]; rfl
  rw [e, hr]
  simp [Raw.hd, Raw.zero]
theorem sqsync h b : Statement (.sqsync h b) := by
  intro r hw he
  obtain ⟨pg, pn, la, rfl⟩ := wellFormed_hd hw rfl
  have hr := (Option.some.inj he).symm
  have e : decodeRaw r = if r.sub == 0 then some (.sqsync (r.hd (r.m != 0 || r.d != 0 || r.a != 0 || r.c != 0)) r.b) else none := by rw [hr]; rfl
  rw [e, hr]
  simp [Raw.hd, Raw.zero]
theorem sqsyncImm h imm : Statement (.sqsyncImm h imm) := by
  intro r hw he
  obtain ⟨pg, pn, la, rfl⟩ := wellFormed_hd hw rfl
  have hr := (Option.some.inj he).symm
  have e : decodeRaw r = if r.sub == 0 then some (.sqsyncImm (r.hd (r.m != 0 || r.d != 0 || r.a != 0 || r.c != 0 || r.b >>> 2 != 0)) (immOf r)) else none := by rw [hr]; rfl
  rw [e, hr]
  simp [Raw.hd, Raw.zero]
theorem vote h op ia d a b : Statement (.vote h op ia d a b) := by
  intro r hw he
  obtain ⟨pg, pn, la, rfl⟩ := wellFormed_hd hw rfl
  have hr := (Option.some.inj he).symm
  have e : decodeRaw r = (voteOpOf r.sub).map fun x => (.vote (r.hd (r.m >>> 1 != 0 || r.a >>> 3 != 0 || r.c != 0)) x (r.m.getLsbD 0) r.d (r.a.setWidth 3) r.b) := by rw [hr]; rfl
  rw [e, hr]
  simp [Raw.hd, Raw.zero]
theorem voteImm h op ia d a imm : Statement (.voteImm h op ia d a imm) := by
  intro r hw he
  obtain ⟨pg, pn, la, rfl⟩ := wellFormed_hd hw rfl
  have hr := (Option.some.inj he).symm
  have e : decodeRaw r = (voteOpOf r.sub).map fun x => (.voteImm (r.hd (r.m >>> 1 != 0 || r.a >>> 3 != 0 || r.c != 0 || r.b >>> 2 != 0)) x (r.m.getLsbD 0) r.d (r.a.setWidth 3) (immOf r)) := by rw [hr]; rfl
  rw [e, hr]
  simp [Raw.hd, Raw.zero]
theorem shfl h mode ty d a b c : Statement (.shfl h mode ty d a b c) := by
  intro r hw he
  obtain ⟨pg, pn, la, rfl⟩ := wellFormed_hd hw rfl
  have hr := (Option.some.inj he).symm
  have e : decodeRaw r = (shflModeOf r.sub).map fun x => (.shfl (r.hd (false)) x r.m r.d r.a r.b r.c) := by rw [hr]; rfl
  rw [e, hr]
  simp [Raw.hd, Raw.zero]
theorem shflImm h mode ty d a c imm : Statement (.shflImm h mode ty d a c imm) := by
  intro r hw he
  obtain ⟨pg, pn, la, rfl⟩ := wellFormed_hd hw rfl
  have hr := (Option.some.inj he).symm
  have e : decodeRaw r = (shflModeOf r.sub).map fun x => (.shflImm (r.hd (r.b >>> 2 != 0)) x r.m r.d r.a r.c (immOf r)) := by rw [hr]; rfl
  rw [e, hr]
  simp [Raw.hd, Raw.zero]
theorem sqMatch h op ty d a b : Statement (.sqMatch h op ty d a b) := by
  intro r hw he
  obtain ⟨pg, pn, la, rfl⟩ := wellFormed_hd hw rfl
  have hr := (Option.some.inj he).symm
  have e : decodeRaw r = (matchOpOf r.sub).map fun x => (.sqMatch (r.hd (r.c != 0)) x r.m r.d r.a r.b) := by rw [hr]; rfl
  rw [e, hr]
  simp [Raw.hd, Raw.zero]
theorem sqMatchImm h op ty d a imm : Statement (.sqMatchImm h op ty d a imm) := by
  intro r hw he
  obtain ⟨pg, pn, la, rfl⟩ := wellFormed_hd hw rfl
  have hr := (Option.some.inj he).symm
  have e : decodeRaw r = (matchOpOf r.sub).map fun x => (.sqMatchImm (r.hd (r.c != 0 || r.b >>> 2 != 0)) x r.m r.d r.a (immOf r)) := by rw [hr]; rfl
  rw [e, hr]
  simp [Raw.hd, Raw.zero]
theorem redux h op mode ty d a b : Statement (.redux h op mode ty d a b) := by
  intro r hw he
  obtain ⟨pg, pn, la, rfl⟩ := wellFormed_hd hw rfl
  have hr := (Option.some.inj he).symm
  have e : decodeRaw r = (reduxOf r.sub).map fun x => (.redux (r.hd (r.c != 0)) x.1 x.2 r.m r.d r.a r.b) := by rw [hr]; rfl
  rw [e, hr]
  simp [Raw.hd, Raw.zero]
theorem reduxImm h op mode ty d a imm : Statement (.reduxImm h op mode ty d a imm) := by
  intro r hw he
  obtain ⟨pg, pn, la, rfl⟩ := wellFormed_hd hw rfl
  have hr := (Option.some.inj he).symm
  have e : decodeRaw r = (reduxOf r.sub).map fun x => (.reduxImm (r.hd (r.c != 0 || r.b >>> 2 != 0)) x.1 x.2 r.m r.d r.a (immOf r)) := by rw [hr]; rfl
  rw [e, hr]
  simp [Raw.hd, Raw.zero]
theorem convoy h d b : Statement (.convoy h d b) := by
  intro r hw he
  obtain ⟨pg, pn, la, rfl⟩ := wellFormed_hd hw rfl
  have hr := (Option.some.inj he).symm
  have e : decodeRaw r = if r.sub == 0 then some (.convoy (r.hd (r.m != 0 || r.a != 0 || r.c != 0)) r.d r.b) else none := by rw [hr]; rfl
  rw [e, hr]
  simp [Raw.hd, Raw.zero]
theorem convoyImm h d imm : Statement (.convoyImm h d imm) := by
  intro r hw he
  obtain ⟨pg, pn, la, rfl⟩ := wellFormed_hd hw rfl
  have hr := (Option.some.inj he).symm
  have e : decodeRaw r = if r.sub == 0 then some (.convoyImm (r.hd (r.m != 0 || r.a != 0 || r.c != 0 || r.b >>> 2 != 0)) r.d (immOf r)) else none := by rw [hr]; rfl
  rw [e, hr]
  simp [Raw.hd, Raw.zero]
theorem fadd h ft rm d a b : Statement (.fadd h ft rm d a b) := by
  intro r hw he
  obtain ⟨pg, pn, la, rfl⟩ := wellFormed_hd hw rfl
  have hr := (Option.some.inj he).symm
  have e : decodeRaw r = if r.sub == 0 then some (.fadd (r.hd (r.c != 0)) (r.m.setWidth 3) ((r.m >>> 3).setWidth 3) r.d r.a r.b) else none := by rw [hr]; rfl
  rw [e, hr]
  simp [Raw.hd, Raw.zero]
theorem fsub h ft rm d a b : Statement (.fsub h ft rm d a b) := by
  intro r hw he
  obtain ⟨pg, pn, la, rfl⟩ := wellFormed_hd hw rfl
  have hr := (Option.some.inj he).symm
  have e : decodeRaw r = if r.sub == 0 then some (.fsub (r.hd (r.c != 0)) (r.m.setWidth 3) ((r.m >>> 3).setWidth 3) r.d r.a r.b) else none := by rw [hr]; rfl
  rw [e, hr]
  simp [Raw.hd, Raw.zero]
theorem fmul h ft rm d a b : Statement (.fmul h ft rm d a b) := by
  intro r hw he
  obtain ⟨pg, pn, la, rfl⟩ := wellFormed_hd hw rfl
  have hr := (Option.some.inj he).symm
  have e : decodeRaw r = if r.sub == 0 then some (.fmul (r.hd (r.c != 0)) (r.m.setWidth 3) ((r.m >>> 3).setWidth 3) r.d r.a r.b) else none := by rw [hr]; rfl
  rw [e, hr]
  simp [Raw.hd, Raw.zero]
theorem ffma h ft rm d a b c : Statement (.ffma h ft rm d a b c) := by
  intro r hw he
  obtain ⟨pg, pn, la, rfl⟩ := wellFormed_hd hw rfl
  have hr := (Option.some.inj he).symm
  have e : decodeRaw r = if r.sub == 0 then some (.ffma (r.hd (false)) (r.m.setWidth 3) ((r.m >>> 3).setWidth 3) r.d r.a r.b r.c) else none := by rw [hr]; rfl
  rw [e, hr]
  simp [Raw.hd, Raw.zero]
theorem fmin h ft rm d a b : Statement (.fmin h ft rm d a b) := by
  intro r hw he
  obtain ⟨pg, pn, la, rfl⟩ := wellFormed_hd hw rfl
  have hr := (Option.some.inj he).symm
  have e : decodeRaw r = if r.sub == 0 then some (.fmin (r.hd (r.c != 0)) (r.m.setWidth 3) ((r.m >>> 3).setWidth 3) r.d r.a r.b) else none := by rw [hr]; rfl
  rw [e, hr]
  simp [Raw.hd, Raw.zero]
theorem fmax h ft rm d a b : Statement (.fmax h ft rm d a b) := by
  intro r hw he
  obtain ⟨pg, pn, la, rfl⟩ := wellFormed_hd hw rfl
  have hr := (Option.some.inj he).symm
  have e : decodeRaw r = if r.sub == 0 then some (.fmax (r.hd (r.c != 0)) (r.m.setWidth 3) ((r.m >>> 3).setWidth 3) r.d r.a r.b) else none := by rw [hr]; rfl
  rw [e, hr]
  simp [Raw.hd, Raw.zero]
theorem fcmp h cmp ft rm d a b : Statement (.fcmp h cmp ft rm d a b) := by
  intro r hw he
  obtain ⟨pg, pn, la, rfl⟩ := wellFormed_hd hw rfl
  have hr := (Option.some.inj he).symm
  have e : decodeRaw r = (fCmpOf r.sub).map fun x => (.fcmp (r.hd (r.d >>> 3 != 0 || r.c != 0)) x (r.m.setWidth 3) ((r.m >>> 3).setWidth 3) (r.d.setWidth 3) r.a r.b) := by rw [hr]; rfl
  rw [e, hr]
  simp [Raw.hd, Raw.zero]
theorem frcp h ft rm d a : Statement (.frcp h ft rm d a) := by
  intro r hw he
  obtain ⟨pg, pn, la, rfl⟩ := wellFormed_hd hw rfl
  have hr := (Option.some.inj he).symm
  have e : decodeRaw r = if r.sub == 0 then some (.frcp (r.hd (r.b != 0 || r.c != 0)) (r.m.setWidth 3) ((r.m >>> 3).setWidth 3) r.d r.a) else none := by rw [hr]; rfl
  rw [e, hr]
  simp [Raw.hd, Raw.zero]
theorem frsq h ft rm d a : Statement (.frsq h ft rm d a) := by
  intro r hw he
  obtain ⟨pg, pn, la, rfl⟩ := wellFormed_hd hw rfl
  have hr := (Option.some.inj he).symm
  have e : decodeRaw r = if r.sub == 0 then some (.frsq (r.hd (r.b != 0 || r.c != 0)) (r.m.setWidth 3) ((r.m >>> 3).setWidth 3) r.d r.a) else none := by rw [hr]; rfl
  rw [e, hr]
  simp [Raw.hd, Raw.zero]
theorem fsqrt h ft rm d a : Statement (.fsqrt h ft rm d a) := by
  intro r hw he
  obtain ⟨pg, pn, la, rfl⟩ := wellFormed_hd hw rfl
  have hr := (Option.some.inj he).symm
  have e : decodeRaw r = if r.sub == 0 then some (.fsqrt (r.hd (r.b != 0 || r.c != 0)) (r.m.setWidth 3) ((r.m >>> 3).setWidth 3) r.d r.a) else none := by rw [hr]; rfl
  rw [e, hr]
  simp [Raw.hd, Raw.zero]
theorem fdiv h ft rm d a b : Statement (.fdiv h ft rm d a b) := by
  intro r hw he
  obtain ⟨pg, pn, la, rfl⟩ := wellFormed_hd hw rfl
  have hr := (Option.some.inj he).symm
  have e : decodeRaw r = if r.sub == 0 then some (.fdiv (r.hd (r.c != 0)) (r.m.setWidth 3) ((r.m >>> 3).setWidth 3) r.d r.a r.b) else none := by rw [hr]; rfl
  rw [e, hr]
  simp [Raw.hd, Raw.zero]
theorem fexp2 h ft rm d a : Statement (.fexp2 h ft rm d a) := by
  intro r hw he
  obtain ⟨pg, pn, la, rfl⟩ := wellFormed_hd hw rfl
  have hr := (Option.some.inj he).symm
  have e : decodeRaw r = if r.sub == 0 then some (.fexp2 (r.hd (r.b != 0 || r.c != 0)) (r.m.setWidth 3) ((r.m >>> 3).setWidth 3) r.d r.a) else none := by rw [hr]; rfl
  rw [e, hr]
  simp [Raw.hd, Raw.zero]
theorem flog2 h ft rm d a : Statement (.flog2 h ft rm d a) := by
  intro r hw he
  obtain ⟨pg, pn, la, rfl⟩ := wellFormed_hd hw rfl
  have hr := (Option.some.inj he).symm
  have e : decodeRaw r = if r.sub == 0 then some (.flog2 (r.hd (r.b != 0 || r.c != 0)) (r.m.setWidth 3) ((r.m >>> 3).setWidth 3) r.d r.a) else none := by rw [hr]; rfl
  rw [e, hr]
  simp [Raw.hd, Raw.zero]
theorem fsin h ft rm d a : Statement (.fsin h ft rm d a) := by
  intro r hw he
  obtain ⟨pg, pn, la, rfl⟩ := wellFormed_hd hw rfl
  have hr := (Option.some.inj he).symm
  have e : decodeRaw r = if r.sub == 0 then some (.fsin (r.hd (r.b != 0 || r.c != 0)) (r.m.setWidth 3) ((r.m >>> 3).setWidth 3) r.d r.a) else none := by rw [hr]; rfl
  rw [e, hr]
  simp [Raw.hd, Raw.zero]
theorem fcos h ft rm d a : Statement (.fcos h ft rm d a) := by
  intro r hw he
  obtain ⟨pg, pn, la, rfl⟩ := wellFormed_hd hw rfl
  have hr := (Option.some.inj he).symm
  have e : decodeRaw r = if r.sub == 0 then some (.fcos (r.hd (r.b != 0 || r.c != 0)) (r.m.setWidth 3) ((r.m >>> 3).setWidth 3) r.d r.a) else none := by rw [hr]; rfl
  rw [e, hr]
  simp [Raw.hd, Raw.zero]
theorem fclass h ft rm d a : Statement (.fclass h ft rm d a) := by
  intro r hw he
  obtain ⟨pg, pn, la, rfl⟩ := wellFormed_hd hw rfl
  have hr := (Option.some.inj he).symm
  have e : decodeRaw r = if r.sub == 0 then some (.fclass (r.hd (r.b != 0 || r.c != 0)) (r.m.setWidth 3) ((r.m >>> 3).setWidth 3) r.d r.a) else none := by rw [hr]; rfl
  rw [e, hr]
  simp [Raw.hd, Raw.zero]
theorem fround h ft rm d a : Statement (.fround h ft rm d a) := by
  intro r hw he
  obtain ⟨pg, pn, la, rfl⟩ := wellFormed_hd hw rfl
  have hr := (Option.some.inj he).symm
  have e : decodeRaw r = if r.sub == 0 then some (.fround (r.hd (r.b != 0 || r.c != 0)) (r.m.setWidth 3) ((r.m >>> 3).setWidth 3) r.d r.a) else none := by rw [hr]; rfl
  rw [e, hr]
  simp [Raw.hd, Raw.zero]
theorem fldexp h ft rm d a b : Statement (.fldexp h ft rm d a b) := by
  intro r hw he
  obtain ⟨pg, pn, la, rfl⟩ := wellFormed_hd hw rfl
  have hr := (Option.some.inj he).symm
  have e : decodeRaw r = if r.sub == 0 then some (.fldexp (r.hd (r.c != 0)) (r.m.setWidth 3) ((r.m >>> 3).setWidth 3) r.d r.a r.b) else none := by rw [hr]; rfl
  rw [e, hr]
  simp [Raw.hd, Raw.zero]
theorem fcvt h d a c dty sty rm sat : Statement (.fcvt h d a c dty sty rm sat) := by
  intro r hw he
  obtain ⟨pg, pn, la, rfl⟩ := wellFormed_hd hw rfl
  have hr := (Option.some.inj he).symm
  have e : decodeRaw r = if r.sub == 0 then some (.fcvt (r.hd (r.m != 0 || r.b != 0 || r.x >>> 16 != 0)) r.d r.a r.c (r.x.setWidth 6) ((r.x >>> 6).setWidth 6) ((r.x >>> 12).setWidth 3) (r.x.getLsbD 15)) else none := by rw [hr]; rfl
  rw [e, hr]
  simp [Raw.hd, Raw.zero]
theorem icvt h d a c dty sty rm sat : Statement (.icvt h d a c dty sty rm sat) := by
  intro r hw he
  obtain ⟨pg, pn, la, rfl⟩ := wellFormed_hd hw rfl
  have hr := (Option.some.inj he).symm
  have e : decodeRaw r = if r.sub == 0 then some (.icvt (r.hd (r.m != 0 || r.b != 0 || r.x >>> 16 != 0)) r.d r.a r.c (r.x.setWidth 6) ((r.x >>> 6).setWidth 6) ((r.x >>> 12).setWidth 3) (r.x.getLsbD 15)) else none := by rw [hr]; rfl
  rw [e, hr]
  simp [Raw.hd, Raw.zero]
theorem i2f h d a c dty sty rm sat : Statement (.i2f h d a c dty sty rm sat) := by
  intro r hw he
  obtain ⟨pg, pn, la, rfl⟩ := wellFormed_hd hw rfl
  have hr := (Option.some.inj he).symm
  have e : decodeRaw r = if r.sub == 0 then some (.i2f (r.hd (r.m != 0 || r.b != 0 || r.x >>> 16 != 0)) r.d r.a r.c (r.x.setWidth 6) ((r.x >>> 6).setWidth 6) ((r.x >>> 12).setWidth 3) (r.x.getLsbD 15)) else none := by rw [hr]; rfl
  rw [e, hr]
  simp [Raw.hd, Raw.zero]
theorem f2i h d a c dty sty rm sat : Statement (.f2i h d a c dty sty rm sat) := by
  intro r hw he
  obtain ⟨pg, pn, la, rfl⟩ := wellFormed_hd hw rfl
  have hr := (Option.some.inj he).symm
  have e : decodeRaw r = if r.sub == 0 then some (.f2i (r.hd (r.m != 0 || r.b != 0 || r.x >>> 16 != 0)) r.d r.a r.c (r.x.setWidth 6) ((r.x >>> 6).setWidth 6) ((r.x >>> 12).setWidth 3) (r.x.getLsbD 15)) else none := by rw [hr]; rfl
  rw [e, hr]
  simp [Raw.hd, Raw.zero]
theorem dot2 h bf ft rm d a b c : Statement (.dot2 h bf ft rm d a b c) := by
  intro r hw he
  obtain ⟨pg, pn, la, rfl⟩ := wellFormed_hd hw rfl
  have hr := (Option.some.inj he).symm
  have e : decodeRaw r = if r.sub == 8 || r.sub == 9 then some (.dot2 (r.hd (false)) (r.sub == 9) (r.m.setWidth 3) ((r.m >>> 3).setWidth 3) r.d r.a r.b r.c) else none := by rw [hr]; rfl
  rw [e, hr]
  simp [Raw.hd, Raw.zero]
theorem dot4 h ef ft rm d a b c : Statement (.dot4 h ef ft rm d a b c) := by
  intro r hw he
  obtain ⟨pg, pn, la, rfl⟩ := wellFormed_hd hw rfl
  have hr := (Option.some.inj he).symm
  have e : decodeRaw r = (dot4FmtOf r.sub).map fun x => (.dot4 (r.hd (false)) x (r.m.setWidth 3) ((r.m >>> 3).setWidth 3) r.d r.a r.b r.c) := by rw [hr]; rfl
  rw [e, hr]
  simp [Raw.hd, Raw.zero]
theorem fmtset h d a : Statement (.fmtset h d a) := by
  intro r hw he
  obtain ⟨pg, pn, la, rfl⟩ := wellFormed_hd hw rfl
  have hr := (Option.some.inj he).symm
  have e : decodeRaw r = if r.sub == 0 then some (.fmtset (r.hd (r.m != 0 || r.d >>> 3 != 0 || r.b != 0 || r.c != 0)) (r.d.setWidth 3) r.a) else none := by rw [hr]; rfl
  rw [e, hr]
  simp [Raw.hd, Raw.zero]
theorem fmtsetImm h d imm : Statement (.fmtsetImm h d imm) := by
  intro r hw he
  obtain ⟨pg, pn, la, rfl⟩ := wellFormed_hd hw rfl
  have hr := (Option.some.inj he).symm
  have e : decodeRaw r = if r.sub == 0 then some (.fmtsetImm (r.hd (r.m != 0 || r.d >>> 3 != 0 || r.a != 0 || r.c != 0 || r.b >>> 2 != 0)) (r.d.setWidth 3) (immOf r)) else none := by rw [hr]; rfl
  rw [e, hr]
  simp [Raw.hd, Raw.zero]
theorem fmtget h d a : Statement (.fmtget h d a) := by
  intro r hw he
  obtain ⟨pg, pn, la, rfl⟩ := wellFormed_hd hw rfl
  have hr := (Option.some.inj he).symm
  have e : decodeRaw r = if r.sub == 0 then some (.fmtget (r.hd (r.m != 0 || r.a >>> 3 != 0 || r.b != 0 || r.c != 0)) r.d (r.a.setWidth 3)) else none := by rw [hr]; rfl
  rw [e, hr]
  simp [Raw.hd, Raw.zero]
theorem tag h d a b : Statement (.tag h d a b) := by
  intro r hw he
  obtain ⟨pg, pn, la, rfl⟩ := wellFormed_hd hw rfl
  have hr := (Option.some.inj he).symm
  have e : decodeRaw r = if r.sub == 0 then some (.tag (r.hd (r.m != 0 || r.c != 0)) r.d r.a r.b) else none := by rw [hr]; rfl
  rw [e, hr]
  simp [Raw.hd, Raw.zero]
theorem tagImm h d a imm : Statement (.tagImm h d a imm) := by
  intro r hw he
  obtain ⟨pg, pn, la, rfl⟩ := wellFormed_hd hw rfl
  have hr := (Option.some.inj he).symm
  have e : decodeRaw r = if r.sub == 0 then some (.tagImm (r.hd (r.m != 0 || r.c != 0 || r.b >>> 2 != 0)) r.d r.a (immOf r)) else none := by rw [hr]; rfl
  rw [e, hr]
  simp [Raw.hd, Raw.zero]
theorem tagget h d a : Statement (.tagget h d a) := by
  intro r hw he
  obtain ⟨pg, pn, la, rfl⟩ := wellFormed_hd hw rfl
  have hr := (Option.some.inj he).symm
  have e : decodeRaw r = if r.sub == 0 then some (.tagget (r.hd (r.m != 0 || r.b != 0 || r.c != 0)) r.d r.a) else none := by rw [hr]; rfl
  rw [e, hr]
  simp [Raw.hd, Raw.zero]
theorem bscale h ef ty d a : Statement (.bscale h ef ty d a) := by
  intro r hw he
  obtain ⟨pg, pn, la, rfl⟩ := wellFormed_hd hw rfl
  have hr := (Option.some.inj he).symm
  have e : decodeRaw r = if scaleFmtOk r.sub then some (.bscale (r.hd (r.b != 0 || r.c != 0)) (r.sub.setWidth 5) r.m r.d r.a) else none := by rw [hr]; rfl
  rw [e, hr]
  have hf := wellFormed_enc hw
  simp [Instr.encodable] at hf
  simp [Raw.hd, Raw.zero, hf]
theorem packn h d a c dty sty rm sat : Statement (.packn h d a c dty sty rm sat) := by
  intro r hw he
  obtain ⟨pg, pn, la, rfl⟩ := wellFormed_hd hw rfl
  have hr := (Option.some.inj he).symm
  have e : decodeRaw r = if r.sub == 0 then some (.packn (r.hd (r.m != 0 || r.b != 0 || r.x >>> 16 != 0)) r.d r.a r.c (r.x.setWidth 6) ((r.x >>> 6).setWidth 6) ((r.x >>> 12).setWidth 3) (r.x.getLsbD 15)) else none := by rw [hr]; rfl
  rw [e, hr]
  simp [Raw.hd, Raw.zero]
theorem unpackn h d a c dty sty rm sat : Statement (.unpackn h d a c dty sty rm sat) := by
  intro r hw he
  obtain ⟨pg, pn, la, rfl⟩ := wellFormed_hd hw rfl
  have hr := (Option.some.inj he).symm
  have e : decodeRaw r = if r.sub == 0 then some (.unpackn (r.hd (r.m != 0 || r.b != 0 || r.x >>> 16 != 0)) r.d r.a r.c (r.x.setWidth 6) ((r.x >>> 6).setWidth 6) ((r.x >>> 12).setWidth 3) (r.x.getLsbD 15)) else none := by rw [hr]; rfl
  rw [e, hr]
  simp [Raw.hd, Raw.zero]
theorem ld h ty d ad ord scp : Statement (.ld h ty d ad ord scp) := by
  intro r hw he
  obtain ⟨pg, pn, la, rfl⟩ := wellFormed_hd hw rfl
  have hr := (Option.some.inj he).symm
  have e : decodeRaw r = if r.sub == 0 then some (.ld (r.hd (r.a >>> 4 != 0 || r.c != 0)) r.m r.d ⟨r.a.setWidth 4, r.b, r.x.setWidth 24⟩ ((r.x >>> 24).setWidth 3) ((r.x >>> 27).setWidth 3)) else none := by rw [hr]; rfl
  rw [e, hr]
  simp [Raw.hd, Raw.zero]
theorem st h ty ad c ord scp : Statement (.st h ty ad c ord scp) := by
  intro r hw he
  obtain ⟨pg, pn, la, rfl⟩ := wellFormed_hd hw rfl
  have hr := (Option.some.inj he).symm
  have e : decodeRaw r = if r.sub == 0 then some (.st (r.hd (r.d != 0 || r.a >>> 4 != 0)) r.m ⟨r.a.setWidth 4, r.b, r.x.setWidth 24⟩ r.c ((r.x >>> 24).setWidth 3) ((r.x >>> 27).setWidth 3)) else none := by rw [hr]; rfl
  rw [e, hr]
  simp [Raw.hd, Raw.zero]
theorem atom h op ty d ad c ord scp : Statement (.atom h op ty d ad c ord scp) := by
  intro r hw he
  obtain ⟨pg, pn, la, rfl⟩ := wellFormed_hd hw rfl
  have hr := (Option.some.inj he).symm
  have e : decodeRaw r = (atomOpOf r.sub).map fun x => (.atom (r.hd (r.a >>> 4 != 0)) x r.m r.d ⟨r.a.setWidth 4, r.b, r.x.setWidth 24⟩ r.c ((r.x >>> 24).setWidth 3) ((r.x >>> 27).setWidth 3)) := by rw [hr]; rfl
  rw [e, hr]
  simp [Raw.hd, Raw.zero]
theorem cas h ty d ad c ord scp y : Statement (.cas h ty d ad c ord scp y) := by
  intro r hw he
  obtain ⟨pg, pn, la, rfl⟩ := wellFormed_hd hw rfl
  have hr := (Option.some.inj he).symm
  have e : decodeRaw r = if r.sub == 0 then some (.cas (r.hd (r.a >>> 4 != 0 || r.y >>> 8 != 0)) r.m r.d ⟨r.a.setWidth 4, r.b, r.x.setWidth 24⟩ r.c ((r.x >>> 24).setWidth 3) ((r.x >>> 27).setWidth 3) (r.y.setWidth 8)) else none := by rw [hr]; rfl
  rw [e, hr]
  simp [Raw.hd, Raw.zero]
theorem red h op ty ad c ord scp : Statement (.red h op ty ad c ord scp) := by
  intro r hw he
  obtain ⟨pg, pn, la, rfl⟩ := wellFormed_hd hw rfl
  have hr := (Option.some.inj he).symm
  have e : decodeRaw r = (redOpOfSub r.sub).map fun x => (.red (r.hd (r.d != 0 || r.a >>> 4 != 0)) x r.m ⟨r.a.setWidth 4, r.b, r.x.setWidth 24⟩ r.c ((r.x >>> 24).setWidth 3) ((r.x >>> 27).setWidth 3)) := by rw [hr]; rfl
  rw [e, hr]
  have hf := wellFormed_enc hw
  simp [Instr.encodable] at hf
  simp [Raw.hd, Raw.zero, redOpOfSub]
  revert hf; cases op <;> simp [atomOpSub]
theorem fence h ord scp : Statement (.fence h ord scp) := by
  intro r hw he
  obtain ⟨pg, pn, la, rfl⟩ := wellFormed_hd hw rfl
  have hr := (Option.some.inj he).symm
  have e : decodeRaw r = if r.sub == 0 then some (.fence (r.hd (r.m != 0 || r.d != 0 || r.a != 0 || r.b != 0 || r.c != 0 || r.x.setWidth 24 != 0)) ((r.x >>> 24).setWidth 3) ((r.x >>> 27).setWidth 3)) else none := by rw [hr]; rfl
  rw [e, hr]
  simp [Raw.hd, Raw.zero]
theorem brload h d ad ord scp : Statement (.brload h d ad ord scp) := by
  intro r hw he
  obtain ⟨pg, pn, la, rfl⟩ := wellFormed_hd hw rfl
  have hr := (Option.some.inj he).symm
  have e : decodeRaw r = if r.sub == 0 then some (.brload (r.hd (r.m != 0 || r.d >>> 4 != 0 || r.a >>> 4 != 0 || r.c != 0)) (r.d.setWidth 4) ⟨r.a.setWidth 4, r.b, r.x.setWidth 24⟩ ((r.x >>> 24).setWidth 3) ((r.x >>> 27).setWidth 3)) else none := by rw [hr]; rfl
  rw [e, hr]
  simp [Raw.hd, Raw.zero]
theorem brset h d a : Statement (.brset h d a) := by
  intro r hw he
  obtain ⟨pg, pn, la, rfl⟩ := wellFormed_hd hw rfl
  have hr := (Option.some.inj he).symm
  have e : decodeRaw r = if r.sub == 0 then some (.brset (r.hd (r.m != 0 || r.d >>> 4 != 0 || r.b != 0 || r.c != 0)) (r.d.setWidth 4) r.a) else if r.sub == 1 then some (.brsetToRegisters (r.hd (r.m != 0 || r.a >>> 4 != 0 || r.b != 0 || r.c != 0)) r.d (r.a.setWidth 4)) else none := by rw [hr]; rfl
  rw [e, hr]
  simp [Raw.hd, Raw.zero]
theorem brsetToRegisters h d a : Statement (.brsetToRegisters h d a) := by
  intro r hw he
  obtain ⟨pg, pn, la, rfl⟩ := wellFormed_hd hw rfl
  have hr := (Option.some.inj he).symm
  have e : decodeRaw r = if r.sub == 0 then some (.brset (r.hd (r.m != 0 || r.d >>> 4 != 0 || r.b != 0 || r.c != 0)) (r.d.setWidth 4) r.a) else if r.sub == 1 then some (.brsetToRegisters (r.hd (r.m != 0 || r.a >>> 4 != 0 || r.b != 0 || r.c != 0)) r.d (r.a.setWidth 4)) else none := by rw [hr]; rfl
  rw [e, hr]
  simp [Raw.hd, Raw.zero]
theorem prefetch h ad ord scp : Statement (.prefetch h ad ord scp) := by
  intro r hw he
  obtain ⟨pg, pn, la, rfl⟩ := wellFormed_hd hw rfl
  have hr := (Option.some.inj he).symm
  have e : decodeRaw r = if r.sub == 0 then some (.prefetch (r.hd (r.m != 0 || r.d != 0 || r.a >>> 4 != 0 || r.c != 0)) ⟨r.a.setWidth 4, r.b, r.x.setWidth 24⟩ ((r.x >>> 24).setWidth 3) ((r.x >>> 27).setWidth 3)) else none := by rw [hr]; rfl
  rw [e, hr]
  simp [Raw.hd, Raw.zero]
theorem cctl h ad ord scp : Statement (.cctl h ad ord scp) := by
  intro r hw he
  obtain ⟨pg, pn, la, rfl⟩ := wellFormed_hd hw rfl
  have hr := (Option.some.inj he).symm
  have e : decodeRaw r = if r.sub == 0 then some (.cctl (r.hd (r.m != 0 || r.d != 0 || r.a >>> 4 != 0 || r.c != 0)) ⟨r.a.setWidth 4, r.b, r.x.setWidth 24⟩ ((r.x >>> 24).setWidth 3) ((r.x >>> 27).setWidth 3)) else none := by rw [hr]; rfl
  rw [e, hr]
  simp [Raw.hd, Raw.zero]
theorem publish h ad c ord scp : Statement (.publish h ad c ord scp) := by
  intro r hw he
  obtain ⟨pg, pn, la, rfl⟩ := wellFormed_hd hw rfl
  have hr := (Option.some.inj he).symm
  have e : decodeRaw r = if r.sub == 0 then (if r.m.getLsbD 0 then some (.publishM (r.hd (r.m >>> 1 != 0 || r.a >>> 4 != 0)) r.d ⟨r.a.setWidth 4, r.b, r.x.setWidth 24⟩ r.c ((r.x >>> 24).setWidth 3) ((r.x >>> 27).setWidth 3)) else some (.publish (r.hd (r.m != 0 || r.d != 0 || r.a >>> 4 != 0)) ⟨r.a.setWidth 4, r.b, r.x.setWidth 24⟩ r.c ((r.x >>> 24).setWidth 3) ((r.x >>> 27).setWidth 3))) else none := by rw [hr]; rfl
  rw [e, hr]
  simp [Raw.hd, Raw.zero]
theorem publishM h d ad c ord scp : Statement (.publishM h d ad c ord scp) := by
  intro r hw he
  obtain ⟨pg, pn, la, rfl⟩ := wellFormed_hd hw rfl
  have hr := (Option.some.inj he).symm
  have e : decodeRaw r = if r.sub == 0 then (if r.m.getLsbD 0 then some (.publishM (r.hd (r.m >>> 1 != 0 || r.a >>> 4 != 0)) r.d ⟨r.a.setWidth 4, r.b, r.x.setWidth 24⟩ r.c ((r.x >>> 24).setWidth 3) ((r.x >>> 27).setWidth 3)) else some (.publish (r.hd (r.m != 0 || r.d != 0 || r.a >>> 4 != 0)) ⟨r.a.setWidth 4, r.b, r.x.setWidth 24⟩ r.c ((r.x >>> 24).setWidth 3) ((r.x >>> 27).setWidth 3))) else none := by rw [hr]; rfl
  rw [e, hr]
  simp [Raw.hd, Raw.zero]
theorem adopt h ad c ord scp : Statement (.adopt h ad c ord scp) := by
  intro r hw he
  obtain ⟨pg, pn, la, rfl⟩ := wellFormed_hd hw rfl
  have hr := (Option.some.inj he).symm
  have e : decodeRaw r = if r.sub == 0 then some (.adopt (r.hd (r.m != 0 || r.d != 0 || r.a >>> 4 != 0)) ⟨r.a.setWidth 4, r.b, r.x.setWidth 24⟩ r.c ((r.x >>> 24).setWidth 3) ((r.x >>> 27).setWidth 3)) else none := by rw [hr]; rfl
  rw [e, hr]
  simp [Raw.hd, Raw.zero]
theorem retract h ad c ord scp : Statement (.retract h ad c ord scp) := by
  intro r hw he
  obtain ⟨pg, pn, la, rfl⟩ := wellFormed_hd hw rfl
  have hr := (Option.some.inj he).symm
  have e : decodeRaw r = if r.sub == 0 then some (.retract (r.hd (r.m != 0 || r.d != 0 || r.a >>> 4 != 0)) ⟨r.a.setWidth 4, r.b, r.x.setWidth 24⟩ r.c ((r.x >>> 24).setWidth 3) ((r.x >>> 27).setWidth 3)) else none := by rw [hr]; rfl
  rw [e, hr]
  simp [Raw.hd, Raw.zero]
theorem barinit h d b : Statement (.barinit h d b) := by
  intro r hw he
  obtain ⟨pg, pn, la, rfl⟩ := wellFormed_hd hw rfl
  have hr := (Option.some.inj he).symm
  have e : decodeRaw r = if r.sub == 0 then some (.barinit (r.hd (r.m != 0 || r.d >>> 4 != 0 || r.a != 0 || r.c != 0)) (r.d.setWidth 4) r.b) else none := by rw [hr]; rfl
  rw [e, hr]
  simp [Raw.hd, Raw.zero]
theorem barinitImm h d imm : Statement (.barinitImm h d imm) := by
  intro r hw he
  obtain ⟨pg, pn, la, rfl⟩ := wellFormed_hd hw rfl
  have hr := (Option.some.inj he).symm
  have e : decodeRaw r = if r.sub == 0 then some (.barinitImm (r.hd (r.m != 0 || r.d >>> 4 != 0 || r.a != 0 || r.c != 0 || r.b >>> 2 != 0)) (r.d.setWidth 4) (immOf r)) else none := by rw [hr]; rfl
  rw [e, hr]
  simp [Raw.hd, Raw.zero]
theorem bararrive h d a : Statement (.bararrive h d a) := by
  intro r hw he
  obtain ⟨pg, pn, la, rfl⟩ := wellFormed_hd hw rfl
  have hr := (Option.some.inj he).symm
  have e : decodeRaw r = if r.sub == 0 then some (.bararrive (r.hd (r.m != 0 || r.a >>> 4 != 0 || r.b != 0 || r.c != 0)) r.d (r.a.setWidth 4)) else none := by rw [hr]; rfl
  rw [e, hr]
  simp [Raw.hd, Raw.zero]
theorem barwait h a b : Statement (.barwait h a b) := by
  intro r hw he
  obtain ⟨pg, pn, la, rfl⟩ := wellFormed_hd hw rfl
  have hr := (Option.some.inj he).symm
  have e : decodeRaw r = if r.sub == 0 then some (.barwait (r.hd (r.m != 0 || r.d != 0 || r.a >>> 4 != 0 || r.c != 0)) (r.a.setWidth 4) r.b) else none := by rw [hr]; rfl
  rw [e, hr]
  simp [Raw.hd, Raw.zero]
theorem barsync h a : Statement (.barsync h a) := by
  intro r hw he
  obtain ⟨pg, pn, la, rfl⟩ := wellFormed_hd hw rfl
  have hr := (Option.some.inj he).symm
  have e : decodeRaw r = if r.sub == 0 then some (.barsync (r.hd (r.m != 0 || r.d != 0 || r.a >>> 4 != 0 || r.b != 0 || r.c != 0)) (r.a.setWidth 4)) else none := by rw [hr]; rfl
  rw [e, hr]
  simp [Raw.hd, Raw.zero]
theorem barinval h a : Statement (.barinval h a) := by
  intro r hw he
  obtain ⟨pg, pn, la, rfl⟩ := wellFormed_hd hw rfl
  have hr := (Option.some.inj he).symm
  have e : decodeRaw r = if r.sub == 0 then some (.barinval (r.hd (r.m != 0 || r.d != 0 || r.a >>> 4 != 0 || r.b != 0 || r.c != 0)) (r.a.setWidth 4)) else none := by rw [hr]; rfl
  rw [e, hr]
  simp [Raw.hd, Raw.zero]
theorem barquery h d a : Statement (.barquery h d a) := by
  intro r hw he
  obtain ⟨pg, pn, la, rfl⟩ := wellFormed_hd hw rfl
  have hr := (Option.some.inj he).symm
  have e : decodeRaw r = if r.sub == 0 then some (.barquery (r.hd (r.m != 0 || r.a >>> 4 != 0 || r.b != 0 || r.c != 0)) r.d (r.a.setWidth 4)) else none := by rw [hr]; rfl
  rw [e, hr]
  simp [Raw.hd, Raw.zero]
theorem teamsync h : Statement (.teamsync h) := by
  intro r hw he
  obtain ⟨pg, pn, la, rfl⟩ := wellFormed_hd hw rfl
  have hr := (Option.some.inj he).symm
  have e : decodeRaw r = if r.sub == 0 then some (.teamsync (r.hd (r.m != 0 || r.d != 0 || r.a != 0 || r.b != 0 || r.c != 0))) else none := by rw [hr]; rfl
  rw [e, hr]
  simp [Raw.hd, Raw.zero]
theorem copy h k bar : Statement (.copy h k bar) := by
  intro r hw he
  obtain ⟨pg, pn, la, rfl⟩ := wellFormed_hd hw rfl
  have hr := (Option.some.inj he).symm
  have e : decodeRaw r = some (.copy (r.hd (r.m != 0 || r.y >>> 26 != 0)) (copyArgs r) ⟨r.sub.getLsbD 4, r.sub.setWidth 4⟩) := by rw [hr]; rfl
  rw [e, hr]
  simp [Raw.hd, Raw.zero, copyArgs_bar]
theorem copy2d h k bar : Statement (.copy2d h k bar) := by
  intro r hw he
  obtain ⟨pg, pn, la, rfl⟩ := wellFormed_hd hw rfl
  have hr := (Option.some.inj he).symm
  have e : decodeRaw r = some (.copy2d (r.hd (r.m != 0 || r.y >>> 26 != 0)) (copyArgs r) ⟨r.sub.getLsbD 4, r.sub.setWidth 4⟩) := by rw [hr]; rfl
  rw [e, hr]
  simp [Raw.hd, Raw.zero, copyArgs_bar]
theorem copyg h k bar : Statement (.copyg h k bar) := by
  intro r hw he
  obtain ⟨pg, pn, la, rfl⟩ := wellFormed_hd hw rfl
  have hr := (Option.some.inj he).symm
  have e : decodeRaw r = some (.copyg (r.hd (r.m != 0 || r.y >>> 26 != 0)) (copyArgs r) ⟨r.sub.getLsbD 4, r.sub.setWidth 4⟩) := by rw [hr]; rfl
  rw [e, hr]
  simp [Raw.hd, Raw.zero, copyArgs_bar]
theorem copyrem h k scp cRec cOff : Statement (.copyrem h k scp cRec cOff) := by
  intro r hw he
  obtain ⟨pg, pn, la, rfl⟩ := wellFormed_hd hw rfl
  have hr := (Option.some.inj he).symm
  have e : decodeRaw r = some (.copyrem (r.hd ((r.sub >>> 3).setWidth 2 != 0#2)) (copyArgs r) (r.sub.setWidth 3) ((r.y >>> 26).setWidth 4) r.m) := by rw [hr]; rfl
  rw [e, hr]
  simp [Raw.hd, Raw.zero, copyArgs_scp]
theorem tld h ty d ad ord scp : Statement (.tld h ty d ad ord scp) := by
  intro r hw he
  obtain ⟨pg, pn, la, rfl⟩ := wellFormed_hd hw rfl
  have hr := (Option.some.inj he).symm
  have e : decodeRaw r = if r.sub == 0 then some (.tld (r.hd (r.d >>> 6 != 0 || r.a >>> 4 != 0 || r.c != 0)) r.m (r.d.setWidth 6) ⟨r.a.setWidth 4, r.b, r.x.setWidth 24⟩ ((r.x >>> 24).setWidth 3) ((r.x >>> 27).setWidth 3)) else none := by rw [hr]; rfl
  rw [e, hr]
  simp [Raw.hd, Raw.zero]
theorem tst h ty ad c ord scp : Statement (.tst h ty ad c ord scp) := by
  intro r hw he
  obtain ⟨pg, pn, la, rfl⟩ := wellFormed_hd hw rfl
  have hr := (Option.some.inj he).symm
  have e : decodeRaw r = if r.sub == 0 then some (.tst (r.hd (r.d != 0 || r.a >>> 4 != 0 || r.c >>> 6 != 0)) r.m ⟨r.a.setWidth 4, r.b, r.x.setWidth 24⟩ (r.c.setWidth 6) ((r.x >>> 24).setWidth 3) ((r.x >>> 27).setWidth 3)) else none := by rw [hr]; rfl
  rw [e, hr]
  simp [Raw.hd, Raw.zero]
theorem tzero h ty d : Statement (.tzero h ty d) := by
  intro r hw he
  obtain ⟨pg, pn, la, rfl⟩ := wellFormed_hd hw rfl
  have hr := (Option.some.inj he).symm
  have e : decodeRaw r = if r.sub == 0 then some (.tzero (r.hd (r.d >>> 6 != 0 || r.a != 0 || r.b != 0 || r.c != 0)) r.m (r.d.setWidth 6)) else none := by rw [hr]; rfl
  rw [e, hr]
  simp [Raw.hd, Raw.zero]
theorem tmov h d a : Statement (.tmov h d a) := by
  intro r hw he
  obtain ⟨pg, pn, la, rfl⟩ := wellFormed_hd hw rfl
  have hr := (Option.some.inj he).symm
  have e : decodeRaw r = if r.sub == 0 then some (.tmov (r.hd (r.m != 0 || r.d >>> 6 != 0 || r.a >>> 6 != 0 || r.b != 0 || r.c != 0)) (r.d.setWidth 6) (r.a.setWidth 6)) else none := by rw [hr]; rfl
  rw [e, hr]
  simp [Raw.hd, Raw.zero]
theorem tcvt h rm df d a sf seg c : Statement (.tcvt h rm df d a sf seg c) := by
  intro r hw he
  obtain ⟨pg, pn, la, rfl⟩ := wellFormed_hd hw rfl
  have hr := (Option.some.inj he).symm
  have e : decodeRaw r = if r.sub.toNat ≤ 5 then some (.tcvt (r.hd (r.m >>> 5 != 0 || r.d >>> 6 != 0 || r.a >>> 6 != 0 || r.b.getLsbD 7)) (r.sub.setWidth 3) (r.m.setWidth 5) (r.d.setWidth 6) (r.a.setWidth 6) (r.b.setWidth 5) ((r.b >>> 5).setWidth 2) r.c) else none := by rw [hr]; rfl
  rw [e, hr]
  have hf := wellFormed_enc hw
  simp [Instr.encodable] at hf
  simp [Raw.hd, Raw.zero]
  omega
theorem ttrans h d a : Statement (.ttrans h d a) := by
  intro r hw he
  obtain ⟨pg, pn, la, rfl⟩ := wellFormed_hd hw rfl
  have hr := (Option.some.inj he).symm
  have e : decodeRaw r = if r.sub == 0 then some (.ttrans (r.hd (r.m != 0 || r.d >>> 6 != 0 || r.a >>> 6 != 0 || r.b != 0 || r.c != 0)) (r.d.setWidth 6) (r.a.setWidth 6)) else none := by rw [hr]; rfl
  rw [e, hr]
  simp [Raw.hd, Raw.zero]
theorem tadd h ty d a b : Statement (.tadd h ty d a b) := by
  intro r hw he
  obtain ⟨pg, pn, la, rfl⟩ := wellFormed_hd hw rfl
  have hr := (Option.some.inj he).symm
  have e : decodeRaw r = if r.sub == 0 then some (.tadd (r.hd (r.d >>> 6 != 0 || r.a >>> 6 != 0 || r.b >>> 6 != 0 || r.c != 0)) r.m (r.d.setWidth 6) (r.a.setWidth 6) (r.b.setWidth 6)) else none := by rw [hr]; rfl
  rw [e, hr]
  simp [Raw.hd, Raw.zero]
theorem tscale h d a : Statement (.tscale h d a) := by
  intro r hw he
  obtain ⟨pg, pn, la, rfl⟩ := wellFormed_hd hw rfl
  have hr := (Option.some.inj he).symm
  have e : decodeRaw r = if r.sub == 0 then some (.tscale (r.hd (r.m != 0 || r.d >>> 6 != 0 || r.b != 0 || r.c != 0)) (r.d.setWidth 6) r.a) else none := by rw [hr]; rfl
  rw [e, hr]
  simp [Raw.hd, Raw.zero]
theorem tgetv h ty d a b : Statement (.tgetv h ty d a b) := by
  intro r hw he
  obtain ⟨pg, pn, la, rfl⟩ := wellFormed_hd hw rfl
  have hr := (Option.some.inj he).symm
  have e : decodeRaw r = if r.sub == 0 then some (.tgetv (r.hd (r.a >>> 6 != 0 || r.c != 0)) r.m r.d (r.a.setWidth 6) r.b) else none := by rw [hr]; rfl
  rw [e, hr]
  simp [Raw.hd, Raw.zero]
theorem tsetv h ty d a b : Statement (.tsetv h ty d a b) := by
  intro r hw he
  obtain ⟨pg, pn, la, rfl⟩ := wellFormed_hd hw rfl
  have hr := (Option.some.inj he).symm
  have e : decodeRaw r = if r.sub == 0 then some (.tsetv (r.hd (r.d >>> 6 != 0 || r.c != 0)) r.m (r.d.setWidth 6) r.a r.b) else none := by rw [hr]; rfl
  rw [e, hr]
  simp [Raw.hd, Raw.zero]
theorem mloadw h ad slot ing wf : Statement (.mloadw h ad slot ing wf) := by
  intro r hw he
  obtain ⟨pg, pn, la, rfl⟩ := wellFormed_hd hw rfl
  have hr := (Option.some.inj he).symm
  have e : decodeRaw r = if r.sub == 0 then some (.mloadw (r.hd (r.d != 0 || r.a >>> 4 != 0 || r.c.getLsbD 7 || r.m >>> 5 != 0 || r.x >>> 24 != 0)) ⟨r.a.setWidth 4, r.b, r.x.setWidth 24⟩ (r.c.setWidth 6) (r.c.getLsbD 6) (r.m.setWidth 5)) else none := by rw [hr]; rfl
  rw [e, hr]
  simp [Raw.hd, Raw.zero]
theorem mswap h : Statement (.mswap h) := by
  intro r hw he
  obtain ⟨pg, pn, la, rfl⟩ := wellFormed_hd hw rfl
  have hr := (Option.some.inj he).symm
  have e : decodeRaw r = if r.sub == 0 then some (.mswap (r.hd (r.m != 0 || r.d != 0 || r.a != 0 || r.b != 0 || r.c != 0))) else none := by rw [hr]; rfl
  rw [e, hr]
  simp [Raw.hd, Raw.zero]
theorem mma h wf d a c af acc p : Statement (.mma h wf d a c af acc p) := by
  intro r hw he
  obtain ⟨pg, pn, la, rfl⟩ := wellFormed_hd hw rfl
  have hr := (Option.some.inj he).symm
  have e : decodeRaw r = if r.sub == 0 then some (.mma (r.hd (r.m >>> 5 != 0 || r.d >>> 6 != 0 || r.a >>> 6 != 0 || r.b >>> 6 != 0)) (r.m.setWidth 5) (r.d.setWidth 6) (r.a.setWidth 6) (r.b.setWidth 6) (r.c.setWidth 5) ((r.c >>> 5).setWidth 2) (r.c.getLsbD 7)) else none := by rw [hr]; rfl
  rw [e, hr]
  simp [Raw.hd, Raw.zero]
theorem mlocate h d : Statement (.mlocate h d) := by
  intro r hw he
  obtain ⟨pg, pn, la, rfl⟩ := wellFormed_hd hw rfl
  have hr := (Option.some.inj he).symm
  have e : decodeRaw r = if r.sub == 0 then some (.mlocate (r.hd (r.m != 0 || r.a != 0 || r.b != 0 || r.c != 0)) r.d) else none := by rw [hr]; rfl
  rw [e, hr]
  simp [Raw.hd, Raw.zero]
theorem mcorrect h d : Statement (.mcorrect h d) := by
  intro r hw he
  obtain ⟨pg, pn, la, rfl⟩ := wellFormed_hd hw rfl
  have hr := (Option.some.inj he).symm
  have e : decodeRaw r = if r.sub == 0 then some (.mcorrect (r.hd (r.m != 0 || r.a != 0 || r.b != 0 || r.c != 0)) r.d) else none := by rw [hr]; rfl
  rw [e, hr]
  simp [Raw.hd, Raw.zero]
theorem mretry h d : Statement (.mretry h d) := by
  intro r hw he
  obtain ⟨pg, pn, la, rfl⟩ := wellFormed_hd hw rfl
  have hr := (Option.some.inj he).symm
  have e : decodeRaw r = if r.sub == 0 then some (.mretry (r.hd (r.m != 0 || r.a != 0 || r.b != 0 || r.c != 0)) r.d) else none := by rw [hr]; rfl
  rw [e, hr]
  simp [Raw.hd, Raw.zero]
theorem mdiscard h : Statement (.mdiscard h) := by
  intro r hw he
  obtain ⟨pg, pn, la, rfl⟩ := wellFormed_hd hw rfl
  have hr := (Option.some.inj he).symm
  have e : decodeRaw r = if r.sub == 0 then some (.mdiscard (r.hd (r.m != 0 || r.d != 0 || r.a != 0 || r.b != 0 || r.c != 0))) else none := by rw [hr]; rfl
  rw [e, hr]
  simp [Raw.hd, Raw.zero]
theorem mstat h d : Statement (.mstat h d) := by
  intro r hw he
  obtain ⟨pg, pn, la, rfl⟩ := wellFormed_hd hw rfl
  have hr := (Option.some.inj he).symm
  have e : decodeRaw r = if r.sub == 0 then some (.mstat (r.hd (r.m != 0 || r.a != 0 || r.b != 0 || r.c != 0)) r.d) else none := by rw [hr]; rfl
  rw [e, hr]
  simp [Raw.hd, Raw.zero]
theorem spawn h d a : Statement (.spawn h d a) := by
  intro r hw he
  obtain ⟨pg, pn, la, rfl⟩ := wellFormed_hd hw rfl
  have hr := (Option.some.inj he).symm
  have e : decodeRaw r = if r.sub == 0 then some (.spawn (r.hd (r.m != 0 || r.d >>> 4 != 0 || r.b != 0 || r.c != 0)) (r.d.setWidth 4) r.a) else none := by rw [hr]; rfl
  rw [e, hr]
  simp [Raw.hd, Raw.zero]
theorem notify h a b : Statement (.notify h a b) := by
  intro r hw he
  obtain ⟨pg, pn, la, rfl⟩ := wellFormed_hd hw rfl
  have hr := (Option.some.inj he).symm
  have e : decodeRaw r = if r.sub == 0 then some (.notify (r.hd (r.m != 0 || r.d != 0 || r.c != 0)) r.a r.b) else none := by rw [hr]; rfl
  rw [e, hr]
  simp [Raw.hd, Raw.zero]
theorem trap h code : Statement (.trap h code) := by
  intro r hw he
  obtain ⟨pg, pn, la, rfl⟩ := wellFormed_hd hw rfl
  have hr := (Option.some.inj he).symm
  have e : decodeRaw r = if r.sub == 0 then some (.trap (r.hd (r.m != 0 || r.d != 0 || r.c != 0)) (r.b ++ r.a)) else none := by rw [hr]; rfl
  rw [e, hr]
  simp [Raw.hd, Raw.zero]
theorem brk h code : Statement (.brk h code) := by
  intro r hw he
  obtain ⟨pg, pn, la, rfl⟩ := wellFormed_hd hw rfl
  have hr := (Option.some.inj he).symm
  have e : decodeRaw r = if r.sub == 0 then some (.brk (r.hd (r.m != 0 || r.d != 0 || r.c != 0)) (r.b ++ r.a)) else none := by rw [hr]; rfl
  rw [e, hr]
  simp [Raw.hd, Raw.zero]
theorem trapinfo h d a b : Statement (.trapinfo h d a b) := by
  intro r hw he
  obtain ⟨pg, pn, la, rfl⟩ := wellFormed_hd hw rfl
  have hr := (Option.some.inj he).symm
  have e : decodeRaw r = if r.sub == 0 then some (.trapinfo (r.hd (r.m != 0 || r.c != 0)) r.d r.a r.b) else none := by rw [hr]; rfl
  rw [e, hr]
  simp [Raw.hd, Raw.zero]
theorem trapinfoImm h d a imm : Statement (.trapinfoImm h d a imm) := by
  intro r hw he
  obtain ⟨pg, pn, la, rfl⟩ := wellFormed_hd hw rfl
  have hr := (Option.some.inj he).symm
  have e : decodeRaw r = if r.sub == 0 then some (.trapinfoImm (r.hd (r.m != 0 || r.c != 0 || r.b >>> 2 != 0)) r.d r.a (immOf r)) else none := by rw [hr]; rfl
  rw [e, hr]
  simp [Raw.hd, Raw.zero]
theorem trapclr h a : Statement (.trapclr h a) := by
  intro r hw he
  obtain ⟨pg, pn, la, rfl⟩ := wellFormed_hd hw rfl
  have hr := (Option.some.inj he).symm
  have e : decodeRaw r = if r.sub == 0 then some (.trapclr (r.hd (r.m != 0 || r.d != 0 || r.b != 0 || r.c != 0)) r.a) else none := by rw [hr]; rfl
  rw [e, hr]
  simp [Raw.hd, Raw.zero]
theorem trapretResume h : Statement (.trapretResume h) := by
  intro r hw he
  obtain ⟨pg, pn, la, rfl⟩ := wellFormed_hd hw rfl
  have hr := (Option.some.inj he).symm
  have e : decodeRaw r = if r.sub == 0 then some (.trapretResume (r.hd (r.m != 0 || r.d != 0 || r.a != 0 || r.b != 0 || r.c != 0))) else if r.sub == 1 then some (.trapretKill (r.hd (r.m != 0 || r.d != 0 || r.a != 0 || r.b != 0 || r.c != 0))) else if r.sub == 2 then some (.trapretKillsig (r.hd (r.m != 0 || r.d != 0 || r.a != 0 || r.b != 0 || r.c != 0))) else none := by rw [hr]; rfl
  rw [e, hr]
  simp [Raw.hd, Raw.zero]
theorem trapretKill h : Statement (.trapretKill h) := by
  intro r hw he
  obtain ⟨pg, pn, la, rfl⟩ := wellFormed_hd hw rfl
  have hr := (Option.some.inj he).symm
  have e : decodeRaw r = if r.sub == 0 then some (.trapretResume (r.hd (r.m != 0 || r.d != 0 || r.a != 0 || r.b != 0 || r.c != 0))) else if r.sub == 1 then some (.trapretKill (r.hd (r.m != 0 || r.d != 0 || r.a != 0 || r.b != 0 || r.c != 0))) else if r.sub == 2 then some (.trapretKillsig (r.hd (r.m != 0 || r.d != 0 || r.a != 0 || r.b != 0 || r.c != 0))) else none := by rw [hr]; rfl
  rw [e, hr]
  simp [Raw.hd, Raw.zero]
theorem trapretKillsig h : Statement (.trapretKillsig h) := by
  intro r hw he
  obtain ⟨pg, pn, la, rfl⟩ := wellFormed_hd hw rfl
  have hr := (Option.some.inj he).symm
  have e : decodeRaw r = if r.sub == 0 then some (.trapretResume (r.hd (r.m != 0 || r.d != 0 || r.a != 0 || r.b != 0 || r.c != 0))) else if r.sub == 1 then some (.trapretKill (r.hd (r.m != 0 || r.d != 0 || r.a != 0 || r.b != 0 || r.c != 0))) else if r.sub == 2 then some (.trapretKillsig (r.hd (r.m != 0 || r.d != 0 || r.a != 0 || r.b != 0 || r.c != 0))) else none := by rw [hr]; rfl
  rw [e, hr]
  simp [Raw.hd, Raw.zero]
theorem sread h d num : Statement (.sread h d num) := by
  intro r hw he
  obtain ⟨pg, pn, la, rfl⟩ := wellFormed_hd hw rfl
  have hr := (Option.some.inj he).symm
  have e : decodeRaw r = if r.sub == 0 then some (.sread (r.hd (r.m != 0 || r.b != 0 || r.c != 0)) r.d r.a) else none := by rw [hr]; rfl
  rw [e, hr]
  simp [Raw.hd, Raw.zero]
theorem swrite h num b : Statement (.swrite h num b) := by
  intro r hw he
  obtain ⟨pg, pn, la, rfl⟩ := wellFormed_hd hw rfl
  have hr := (Option.some.inj he).symm
  have e : decodeRaw r = if r.sub == 0 then some (.swrite (r.hd (r.m != 0 || r.d != 0 || r.c != 0)) r.a r.b) else none := by rw [hr]; rfl
  rw [e, hr]
  simp [Raw.hd, Raw.zero]
theorem clock h d : Statement (.clock h d) := by
  intro r hw he
  obtain ⟨pg, pn, la, rfl⟩ := wellFormed_hd hw rfl
  have hr := (Option.some.inj he).symm
  have e : decodeRaw r = if r.sub == 0 then some (.clock (r.hd (r.m != 0 || r.a != 0 || r.b != 0 || r.c != 0)) r.d) else none := by rw [hr]; rfl
  rw [e, hr]
  simp [Raw.hd, Raw.zero]
theorem sleep h b : Statement (.sleep h b) := by
  intro r hw he
  obtain ⟨pg, pn, la, rfl⟩ := wellFormed_hd hw rfl
  have hr := (Option.some.inj he).symm
  have e : decodeRaw r = if r.sub == 0 then some (.sleep (r.hd (r.m != 0 || r.d != 0 || r.a != 0 || r.c != 0)) r.b) else none := by rw [hr]; rfl
  rw [e, hr]
  simp [Raw.hd, Raw.zero]
theorem sleepImm h imm : Statement (.sleepImm h imm) := by
  intro r hw he
  obtain ⟨pg, pn, la, rfl⟩ := wellFormed_hd hw rfl
  have hr := (Option.some.inj he).symm
  have e : decodeRaw r = if r.sub == 0 then some (.sleepImm (r.hd (r.m != 0 || r.d != 0 || r.a != 0 || r.c != 0 || r.b >>> 2 != 0)) (immOf r)) else none := by rw [hr]; rfl
  rw [e, hr]
  simp [Raw.hd, Raw.zero]
theorem clockThrottleStep up : Statement (.clockThrottleStep up) := fun _ _ h => nomatch h
theorem fabidWrite w v : Statement (.fabidWrite w v) := fun _ _ h => nomatch h
theorem pwrcapWrite w v : Statement (.pwrcapWrite w v) := fun _ _ h => nomatch h
theorem portctlWrite w v : Statement (.portctlWrite w v) := fun _ _ h => nomatch h
theorem retrain w : Statement (.retrain w) := fun _ _ h => nomatch h
theorem draindlWrite w v : Statement (.draindlWrite w v) := fun _ _ h => nomatch h
theorem asytolWrite w col v : Statement (.asytolWrite w col v) := fun _ _ h => nomatch h
theorem asyinjWrite w n v : Statement (.asyinjWrite w n v) := fun _ _ h => nomatch h
theorem fltcfgWrite w v : Statement (.fltcfgWrite w v) := fun _ _ h => nomatch h
theorem registerWrite w off v : Statement (.registerWrite w off v) := fun _ _ h => nomatch h
theorem flitReceive f repaired : Statement (.flitReceive f repaired) := fun _ _ h => nomatch h
theorem replayRequest seq : Statement (.replayRequest seq) := fun _ _ h => nomatch h
theorem retrainComplete lanes : Statement (.retrainComplete lanes) := fun _ _ h => nomatch h
theorem ethernetPacketReceive m cz : Statement (.ethernetPacketReceive m cz) := fun _ _ h => nomatch h
theorem flushMarkerReceive epoch path used : Statement (.flushMarkerReceive epoch path used) := fun _ _ h => nomatch h
theorem epochAckReceive epoch : Statement (.epochAckReceive epoch) := fun _ _ h => nomatch h
theorem fabricRequest m : Statement (.fabricRequest m) := fun _ _ h => nomatch h
theorem hostLinkRead addr len : Statement (.hostLinkRead addr len) := fun _ _ h => nomatch h
theorem hostLinkWrite addr data ide : Statement (.hostLinkWrite addr data ide) := fun _ _ h => nomatch h
theorem homeSliceWrite ln res : Statement (.homeSliceWrite ln res) := fun _ _ h => nomatch h
theorem assign w : Statement (.assign w) := fun _ _ h => nomatch h
theorem hostMeasurementExtend digest : Statement (.hostMeasurementExtend digest) := fun _ _ h => nomatch h
theorem negotiateAlgorithms offered : Statement (.negotiateAlgorithms offered) := fun _ _ h => nomatch h
theorem getMeasurements index : Statement (.getMeasurements index) := fun _ _ h => nomatch h
theorem finish ok : Statement (.finish ok) := fun _ _ h => nomatch h
theorem ingotInstall req : Statement (.ingotInstall req) := fun _ _ h => nomatch h
theorem ingotSeal req : Statement (.ingotSeal req) := fun _ _ h => nomatch h
theorem ingotRelease req : Statement (.ingotRelease req) := fun _ _ h => nomatch h
theorem queueKey req : Statement (.queueKey req) := fun _ _ h => nomatch h
theorem podPreempt req : Statement (.podPreempt req) := fun _ _ h => nomatch h
theorem podCommandReceive deadline space keep : Statement (.podCommandReceive deadline space keep) := fun _ _ h => nomatch h
theorem podReport dev ok : Statement (.podReport dev ok) := fun _ _ h => nomatch h
theorem prepare peer : Statement (.prepare peer) := fun _ _ h => nomatch h
theorem commit ok : Statement (.commit ok) := fun _ _ h => nomatch h
theorem aborted ok : Statement (.aborted ok) := fun _ _ h => nomatch h
theorem destinationRebootDetected bootId : Statement (.destinationRebootDetected bootId) := fun _ _ h => nomatch h
theorem restoreChunk chunk : Statement (.restoreChunk chunk) := fun _ _ h => nomatch h
theorem notifyRecord off data : Statement (.notifyRecord off data) := fun _ _ h => nomatch h
theorem binTeamLaunch stage : Statement (.binTeamLaunch stage) := fun _ _ h => nomatch h
theorem binAgeExpiry stage : Statement (.binAgeExpiry stage) := fun _ _ h => nomatch h
theorem pageRequestReply ok : Statement (.pageRequestReply ok) := fun _ _ h => nomatch h
theorem memoryReply lanes hit res : Statement (.memoryReply lanes hit res) := fun _ _ h => nomatch h
theorem copyTransfer n res : Statement (.copyTransfer n res) := fun _ _ h => nomatch h
theorem mloadwFill res : Statement (.mloadwFill res) := fun _ _ h => nomatch h
theorem squadStopped sq : Statement (.squadStopped sq) := fun _ _ h => nomatch h
theorem sleepExpire tid : Statement (.sleepExpire tid) := fun _ _ h => nomatch h
theorem spawnSlotReserve tid : Statement (.spawnSlotReserve tid) := fun _ _ h => nomatch h
theorem portTrainingComplete lanes : Statement (.portTrainingComplete lanes) := fun _ _ h => nomatch h
theorem tdispInterfaceLock w : Statement (.tdispInterfaceLock w) := fun _ _ h => nomatch h
theorem vendorDefinedRequest req : Statement (.vendorDefinedRequest req) := fun _ _ h => nomatch h
theorem prepareSend peer bootId : Statement (.prepareSend peer bootId) := fun _ _ h => nomatch h
theorem unassignedOpcode k : Statement (.unassignedOpcode k) := fun _ _ h => nomatch h
theorem coldReset : Statement .coldReset := fun _ _ h => nomatch h
theorem warmReset : Statement .warmReset := fun _ _ h => nomatch h
theorem functionLevelReset : Statement .functionLevelReset := fun _ _ h => nomatch h
theorem powerLoss : Statement .powerLoss := fun _ _ h => nomatch h
theorem thermalTrip : Statement .thermalTrip := fun _ _ h => nomatch h
theorem coreFence : Statement .coreFence := fun _ _ h => nomatch h
theorem d3hotEntry : Statement .d3hotEntry := fun _ _ h => nomatch h
theorem d0Return : Statement .d0Return := fun _ _ h => nomatch h
theorem d3coldEntry : Statement .d3coldEntry := fun _ _ h => nomatch h
theorem replayRequestRepeat : Statement .replayRequestRepeat := fun _ _ h => nomatch h
theorem ackTimeoutResend : Statement .ackTimeoutResend := fun _ _ h => nomatch h
theorem retrainAfterReplays : Statement .retrainAfterReplays := fun _ _ h => nomatch h
theorem retrainDeadline : Statement .retrainDeadline := fun _ _ h => nomatch h
theorem fenceComplete : Statement .fenceComplete := fun _ _ h => nomatch h
theorem connectionTimeout : Statement .connectionTimeout := fun _ _ h => nomatch h
theorem hbmUncorrectableError : Statement .hbmUncorrectableError := fun _ _ h => nomatch h
theorem linkRekey : Statement .linkRekey := fun _ _ h => nomatch h
theorem assignComplete : Statement .assignComplete := fun _ _ h => nomatch h
theorem worldCreate : Statement .worldCreate := fun _ _ h => nomatch h
theorem worldDestroy : Statement .worldDestroy := fun _ _ h => nomatch h
theorem portWorldReturn : Statement .portWorldReturn := fun _ _ h => nomatch h
theorem getVersion : Statement .getVersion := fun _ _ h => nomatch h
theorem getCapabilities : Statement .getCapabilities := fun _ _ h => nomatch h
theorem getDigests : Statement .getDigests := fun _ _ h => nomatch h
theorem getCertificate : Statement .getCertificate := fun _ _ h => nomatch h
theorem challenge : Statement .challenge := fun _ _ h => nomatch h
theorem keyExchange : Statement .keyExchange := fun _ _ h => nomatch h
theorem keyUpdate : Statement .keyUpdate := fun _ _ h => nomatch h
theorem heartbeat : Statement .heartbeat := fun _ _ h => nomatch h
theorem endSession : Statement .endSession := fun _ _ h => nomatch h
theorem podResponseDeadline : Statement .podResponseDeadline := fun _ _ h => nomatch h
theorem queueCreate : Statement .queueCreate := fun _ _ h => nomatch h
theorem queueDestroy : Statement .queueDestroy := fun _ _ h => nomatch h
theorem queueDestroyComplete : Statement .queueDestroyComplete := fun _ _ h => nomatch h
theorem queueRestart : Statement .queueRestart := fun _ _ h => nomatch h
theorem statusRecordWrite : Statement .statusRecordWrite := fun _ _ h => nomatch h
theorem queueMap : Statement .queueMap := fun _ _ h => nomatch h
theorem packetAccept : Statement .packetAccept := fun _ _ h => nomatch h
theorem nopPacket : Statement .nopPacket := fun _ _ h => nomatch h
theorem launch : Statement .launch := fun _ _ h => nomatch h
theorem wait : Statement .wait := fun _ _ h => nomatch h
theorem waitEvaluate : Statement .waitEvaluate := fun _ _ h => nomatch h
theorem signal : Statement .signal := fun _ _ h => nomatch h
theorem launchComplete : Statement .launchComplete := fun _ _ h => nomatch h
theorem placementPass : Statement .placementPass := fun _ _ h => nomatch h
theorem blockedItemTimeout : Statement .blockedItemTimeout := fun _ _ h => nomatch h
theorem stageRoomClaim : Statement .stageRoomClaim := fun _ _ h => nomatch h
theorem teamRetire : Statement .teamRetire := fun _ _ h => nomatch h
theorem convoyFormation : Statement .convoyFormation := fun _ _ h => nomatch h
theorem fetchBlock : Statement .fetchBlock := fun _ _ h => nomatch h
theorem ctxPreempt : Statement .ctxPreempt := fun _ _ h => nomatch h
theorem ctxFreezeNow : Statement .ctxFreezeNow := fun _ _ h => nomatch h
theorem ctxResume : Statement .ctxResume := fun _ _ h => nomatch h
theorem ctxDiscardImage : Statement .ctxDiscardImage := fun _ _ h => nomatch h
theorem drainDeadline : Statement .drainDeadline := fun _ _ h => nomatch h
theorem teamCapture : Statement .teamCapture := fun _ _ h => nomatch h
theorem imageChunkWrite : Statement .imageChunkWrite := fun _ _ h => nomatch h
theorem autoResume : Statement .autoResume := fun _ _ h => nomatch h
theorem contextReset : Statement .contextReset := fun _ _ h => nomatch h
theorem ptSetRoot : Statement .ptSetRoot := fun _ _ h => nomatch h
theorem ptInvalidateAsid : Statement .ptInvalidateAsid := fun _ _ h => nomatch h
theorem ptInvalidateRange : Statement .ptInvalidateRange := fun _ _ h => nomatch h
theorem ptInvalidateComplete : Statement .ptInvalidateComplete := fun _ _ h => nomatch h
theorem copyComplete : Statement .copyComplete := fun _ _ h => nomatch h
theorem mmaStart : Statement .mmaStart := fun _ _ h => nomatch h
theorem mmaDrain : Statement .mmaDrain := fun _ _ h => nomatch h
theorem mswapExecute : Statement .mswapExecute := fun _ _ h => nomatch h
theorem handlerEntry : Statement .handlerEntry := fun _ _ h => nomatch h
theorem dbgAttach : Statement .dbgAttach := fun _ _ h => nomatch h
theorem dbgDetach : Statement .dbgDetach := fun _ _ h => nomatch h
theorem dbgStop : Statement .dbgStop := fun _ _ h => nomatch h
theorem dbgResume : Statement .dbgResume := fun _ _ h => nomatch h
theorem dbgStep : Statement .dbgStep := fun _ _ h => nomatch h
theorem dbgRead : Statement .dbgRead := fun _ _ h => nomatch h
theorem dbgWrite : Statement .dbgWrite := fun _ _ h => nomatch h
theorem dbgWatch : Statement .dbgWatch := fun _ _ h => nomatch h
theorem dbgHaltRequest : Statement .dbgHaltRequest := fun _ _ h => nomatch h
theorem dbgStopMask : Statement .dbgStopMask := fun _ _ h => nomatch h
theorem longLatencyResult : Statement .longLatencyResult := fun _ _ h => nomatch h

end Sys2Proof.Laws.Decodes
end

