-- ==== Sys2Proof/Laws/Traps.lean ====
section
/-!
SUPPORT. Laws of taking an exception (R240 to R243): what `State.raise` and `State.trapAt` can do to a running team, and of the
instructions that act once.
-/
namespace Sys2Proof.Machine

/-- Ceasing to issue changes one team alone. -/
theorem State.cease_frame (s : State) (key q : Nat) : ∃ t, s.cease key q = s ∨ s.cease key q = s.setTm key t := by
  unfold State.cease
  dsimp only
  split
  · exact ⟨{}, .inl rfl⟩
  · exact ⟨_, .inr rfl⟩

/-- A running team that takes causes: its squad's record takes the event, the squad ceases, and the team halts; nothing else of the
state changes. -/
theorem State.raise_running {s : State} {key : Nat} {t : Team} (h : s.teams.find key = some t) (hp : t.phase = .running)
    {hs : List Hit} (hn : hs ≠ []) (q : Nat) (pc : Dword) (code : Word) (own : Bool) :
    s.raise key q pc hs code own =
      (State.cease (s.setTm key { t.setSquad q ((t.squad q).record pc hs code) with
        held := t.held || (s.stopMask t &&& bitmap hs) != 0 }) key q).onTm key Team.halt := by
  have hb : hs.isEmpty = false := by cases hs with | nil => exact absurd rfl hn | cons => rfl
  unfold State.raise
  rw [h]
  simp only [hb, hp, Bool.false_eq_true, if_false]

/-- A raise in a killed team does nothing (R253). -/
theorem State.raise_killed {s : State} {key : Nat} {t : Team} (h : s.teams.find key = some t) (hp : t.phase = .killed)
    (q : Nat) (pc : Dword) (hs : List Hit) (code : Word) (own : Bool) : s.raise key q pc hs code own = s := by
  unfold State.raise
  rw [h]
  simp only [hp]
  split <;> rfl

/-- A raise in a running team leaves memory. -/
theorem State.raise_mem {s : State} {key : Nat} {t : Team} (h : s.teams.find key = some t) (hp : t.phase = .running)
    (q : Nat) (pc : Dword) (hs : List Hit) (code : Word) (own : Bool) : (s.raise key q pc hs code own).mem = s.mem := by
  by_cases hn : hs = []
  · subst hn; rw [State.raise_nil]
  · rw [State.raise_running h hp hn]
    have := State.cease_frame (s.setTm key { t.setSquad q ((t.squad q).record pc hs code) with
        held := t.held || (s.stopMask t &&& bitmap hs) != 0 }) key q
    obtain ⟨t', h' | h'⟩ := this <;> rw [h'] <;> rfl

/-- Every cause bit of an event is set in the record, and none is lost (R241). -/
theorem Squad.record_causes (q : Squad) (pc : Dword) (hs : List Hit) (code : Word) (h : hs ≠ []) :
    (q.record pc hs code).causes = q.causes ||| bitmap hs := by
  have : leadHit hs ≠ none := by
    cases hs with
    | nil => exact absurd rfl h
    | cons a l => unfold leadHit; split <;> simp; split <;> simp
  unfold Squad.record
  split
  · contradiction
  · dsimp only; split <;> split <;> rfl

/-- An instruction that acts once, where it issues without a cause and a lane is active. -/
theorem State.once_ready {s : State} {i : Instr} {x : Convoy} {ln : Nat} {ls : List Nat} (hr : Ready s i x) (ha : x.act = ln :: ls)
    (causes : State → Convoy → Nat → List Hit) (body : State → Convoy → Nat → State) (hc : causes s x ln = []) :
    ∃ e, (∀ v ∈ e, v ∈ (body ((s.issued x x.lanes).advance x x.lanes i.len) x ln).ecc ∨ v ∈ s.ecc) ∧
      s.once i causes body = ({ body ((s.issued x x.lanes).advance x x.lanes i.len) x ln with ecc := e } : State).settle x := by
  have := State.issue_ready hr (fun s x => match x.act with | [] => [] | ln :: _ => causes s x ln)
    (fun s x => match x.act with
      | [] => (s.issued x x.lanes).advance x x.lanes i.len
      | ln :: _ => body ((s.issued x x.lanes).advance x x.lanes i.len) x ln) (by rw [ha]; exact hc)
  rw [ha] at this
  exact this

end Sys2Proof.Machine
end

