-- ==== Sys2Proof/Tests/Slice0.lean ====
section
/-!
SUPPORT. The model's own tests. The words of the decode tests are the sums of the fields of R262 with the codes of
R267 to R274 and of the encoding tables of chapters 16 to 19, written out here as numbers; every expected result
comes from the rule named beside it.
-/
namespace Sys2Proof.Tests
open Machine
set_option Elab.async false

/-! ### Decoding (R262 to R274) -/

/-- The parcels, least significant first, decode to the instruction. -/
def reads (parcels : List Nat) (i : Instr) : Bool :=
  decide (decodeTableWord (32 * parcels.length) (parcels.foldr (fun p n => p + 2 ^ 32 * n) 0) = some i)

theorem test_decode_flow_1 : ([reads [0x00028001, 0x00000000] (.nop ⟨2, true, 0, false⟩),
    reads [0x00028002, 0x00000000, 0x00000000] (.nop96 ⟨2, true, 0, false⟩),
    reads [0x00028003, 0x00000000, 0x00000000, 0x00000000] (.nop128 ⟨2, true, 0, false⟩),
    reads [0x00028001] (.nopOneParcel ⟨2, true, 0, false⟩),
    reads [0x00028006, 0x00000000, 0xFFFFFFD8] (.bra ⟨2, true, 0, false⟩ 0x3FFFFFF6),
    reads [0x00028009, 0x00000030] (.brx ⟨2, true, 0, false⟩ 12),
    reads [0x0052800E, 0x00000000, 0xFFFFFFD8] (.call ⟨2, true, 0, false⟩ 20 0x3FFFFFF6),
    reads [0x00528011, 0x00000030] (.callx ⟨2, true, 0, false⟩ 20 12),
    reads [0x00028015, 0x00000030] (.ret ⟨2, true, 0, false⟩ 12)] : List Bool).all id = true := by decide

theorem test_decode_flow_2 : ([reads [0x00028019, 0x00000000] (.exit ⟨2, true, 0, false⟩),
    reads [0x0002801D, 0x00000000] (.yield ⟨2, true, 0, false⟩)] : List Bool).all id = true := by decide

theorem test_decode_integer_1 : ([reads [0x04528041, 0x64002030] (.iadd ⟨2, true, 0, false⟩ true 25 20 12 8),
    reads [0x04528042, 0x64000830, 0x48D159E0] (.iaddImm ⟨2, true, 0, false⟩ true 25 20 12 0x92345678),
    reads [0x04528045, 0x64002030] (.isub ⟨2, true, 0, false⟩ true 25 20 12 8),
    reads [0x04528046, 0x64000830, 0x48D159E0] (.isubImm ⟨2, true, 0, false⟩ true 25 20 12 0x92345678),
    reads [0x00528049, 0x64002030] (.imul ⟨2, true, 0, false⟩ 25 20 12 8),
    reads [0x0052804A, 0x64000830, 0x48D159E0] (.imulImm ⟨2, true, 0, false⟩ 25 20 12 0x92345678),
    reads [0x0052804D, 0x64002030] (.imulh ⟨2, true, 0, false⟩ 25 20 12 8),
    reads [0x0052804E, 0x64000830, 0x48D159E0] (.imulhImm ⟨2, true, 0, false⟩ 25 20 12 0x92345678),
    reads [0x00528051, 0x64102030] (.imad ⟨2, true, 0, false⟩ 25 20 12 8 4)] : List Bool).all id = true := by decide

theorem test_decode_integer_2 : ([reads [0x00528052, 0x64100830, 0x48D159E0] (.imadImm ⟨2, true, 0, false⟩ 25 20 12 4 0x92345678),
    reads [0x00528055, 0x64002030] (.imin ⟨2, true, 0, false⟩ 25 20 12 8),
    reads [0x00528056, 0x64000830, 0x48D159E0] (.iminImm ⟨2, true, 0, false⟩ 25 20 12 0x92345678),
    reads [0x00528059, 0x64002030] (.imax ⟨2, true, 0, false⟩ 25 20 12 8),
    reads [0x0052805A, 0x64000830, 0x48D159E0] (.imaxImm ⟨2, true, 0, false⟩ 25 20 12 0x92345678),
    reads [0x0052805D, 0x64000030] (.iabs ⟨2, true, 0, false⟩ 25 20 12),
    reads [0x00528061, 0x64000030] (.ineg ⟨2, true, 0, false⟩ 25 20 12),
    reads [0x0052A465, 0x64002030] (.idiv ⟨2, true, 9, false⟩ 25 20 12 8),
    reads [0x0052A466, 0x64000830, 0x48D159E0] (.idivImm ⟨2, true, 9, false⟩ 25 20 12 0x92345678)] : List Bool).all id = true := by decide

theorem test_decode_integer_3 : ([reads [0x0052A469, 0x64002030] (.imod ⟨2, true, 9, false⟩ 25 20 12 8),
    reads [0x0052A46A, 0x64000830, 0x48D159E0] (.imodImm ⟨2, true, 9, false⟩ 25 20 12 0x92345678),
    reads [0x100E806D, 0x64002030] (.icmp ⟨2, true, 0, false⟩ .gt 25 3 12 8),
    reads [0x100E806E, 0x64000830, 0x48D159E0] (.icmpImm ⟨2, true, 0, false⟩ .gt 25 3 12 0x92345678)] : List Bool).all id = true := by decide

theorem test_decode_bits_1 : ([reads [0x00528081, 0x64002030] (.and ⟨2, true, 0, false⟩ 25 20 12 8),
    reads [0x00528082, 0x64000830, 0x48D159E0] (.andImm ⟨2, true, 0, false⟩ 25 20 12 0x92345678),
    reads [0x00528085, 0x64002030] (.or ⟨2, true, 0, false⟩ 25 20 12 8),
    reads [0x00528086, 0x64000830, 0x48D159E0] (.orImm ⟨2, true, 0, false⟩ 25 20 12 0x92345678),
    reads [0x00528089, 0x64002030] (.xor ⟨2, true, 0, false⟩ 25 20 12 8),
    reads [0x0052808A, 0x64000830, 0x48D159E0] (.xorImm ⟨2, true, 0, false⟩ 25 20 12 0x92345678),
    reads [0x0052808D, 0x64000030] (.not ⟨2, true, 0, false⟩ 25 20 12),
    reads [0x00528091, 0x64002030] (.andn ⟨2, true, 0, false⟩ 25 20 12 8),
    reads [0x00528092, 0x64000830, 0x48D159E0] (.andnImm ⟨2, true, 0, false⟩ 25 20 12 0x92345678)] : List Bool).all id = true := by decide

theorem test_decode_bits_2 : ([reads [0x00528095, 0x64002030] (.shl ⟨2, true, 0, false⟩ 25 20 12 8),
    reads [0x00528096, 0x64000830, 0x48D159E0] (.shlImm ⟨2, true, 0, false⟩ 25 20 12 0x92345678),
    reads [0x00528099, 0x64002030] (.shr ⟨2, true, 0, false⟩ 25 20 12 8),
    reads [0x0052809A, 0x64000830, 0x48D159E0] (.shrImm ⟨2, true, 0, false⟩ 25 20 12 0x92345678),
    reads [0x0052809D, 0x64002030] (.sar ⟨2, true, 0, false⟩ 25 20 12 8),
    reads [0x0052809E, 0x64000830, 0x48D159E0] (.sarImm ⟨2, true, 0, false⟩ 25 20 12 0x92345678),
    reads [0x005280A1, 0x64002030] (.rot ⟨2, true, 0, false⟩ 25 20 12 8),
    reads [0x005280A2, 0x64000830, 0x48D159E0] (.rotImm ⟨2, true, 0, false⟩ 25 20 12 0x92345678),
    reads [0x005280A5, 0x64000030] (.popc ⟨2, true, 0, false⟩ 25 20 12)] : List Bool).all id = true := by decide

theorem test_decode_bits_3 : ([reads [0x005280A9, 0x64000030] (.clz ⟨2, true, 0, false⟩ 25 20 12),
    reads [0x005280AD, 0x64000030] (.ctz ⟨2, true, 0, false⟩ 25 20 12),
    reads [0x005280B1, 0x64000030] (.brev ⟨2, true, 0, false⟩ 25 20 12),
    reads [0x005280B5, 0x64002030] (.bfx ⟨2, true, 0, false⟩ 25 20 12 8),
    reads [0x005280B6, 0x64000830, 0x48D159E0] (.bfxImm ⟨2, true, 0, false⟩ 25 20 12 0x92345678),
    reads [0x005280B9, 0x64102030] (.bfi ⟨2, true, 0, false⟩ 25 20 12 8 4),
    reads [0x005280BA, 0x64100830, 0x48D159E0] (.bfiImm ⟨2, true, 0, false⟩ 25 20 12 4 0x92345678),
    reads [0x005280BD, 0x64102030] (.bperm ⟨2, true, 0, false⟩ 25 20 12 8 4),
    reads [0x005280BE, 0x64100830, 0x48D159E0] (.bpermImm ⟨2, true, 0, false⟩ 25 20 12 4 0x92345678)] : List Bool).all id = true := by decide

theorem test_decode_moves : ([reads [0x005280C1, 0x64000030] (.mov ⟨2, true, 0, false⟩ 25 20 12),
    reads [0x005280C6, 0x64000800, 0x48D159E0] (.movi ⟨2, true, 0, false⟩ 25 20 0x92345678),
    reads [0x005280C9, 0x641C2030] (.sel ⟨2, true, 0, false⟩ 25 20 12 8 7),
    reads [0x005280CA, 0x641C0830, 0x48D159E0] (.selImm ⟨2, true, 0, false⟩ 25 20 12 7 0x92345678),
    reads [0x005280CD, 0x64142030] (.lea ⟨2, true, 0, false⟩ 25 20 12 8 5),
    reads [0x005280CE, 0x64140830, 0x48D159E0] (.leaImm ⟨2, true, 0, false⟩ 25 20 12 5 0x92345678),
    reads [0x040E80D1, 0x08001814] (.plop ⟨2, true, 0, false⟩ .or false true 3 5 6),
    reads [0x005280D5, 0x00000000] (.pmovToRegister ⟨2, true, 0, false⟩ 20),
    reads [0x040280D5, 0x00000030] (.pmovToPredicates ⟨2, true, 0, false⟩ 12)] : List Bool).all id = true := by decide

theorem test_decode_squad_1 : ([reads [0x00028101, 0x00002000] (.sqsync ⟨2, true, 0, false⟩ 8),
    reads [0x00028102, 0x00000800, 0x48D159E0] (.sqsyncImm ⟨2, true, 0, false⟩ 0x92345678),
    reads [0x04528105, 0x04002014] (.vote ⟨2, true, 0, false⟩ .any true 20 5 8),
    reads [0x04528106, 0x04000814, 0x48D159E0] (.voteImm ⟨2, true, 0, false⟩ .any true 20 5 0x92345678),
    reads [0x08528109, 0x64102030] (.shfl ⟨2, true, 0, false⟩ .rev 25 20 12 8 4),
    reads [0x0852810A, 0x64100830, 0x48D159E0] (.shflImm ⟨2, true, 0, false⟩ .rev 25 20 12 4 0x92345678),
    reads [0x0452810D, 0x64002030] (.sqMatch ⟨2, true, 0, false⟩ .all 25 20 12 8),
    reads [0x0452810E, 0x64000830, 0x48D159E0] (.sqMatchImm ⟨2, true, 0, false⟩ .all 25 20 12 0x92345678),
    reads [0x28528111, 0x64002030] (.redux ⟨2, true, 0, false⟩ .high .inc 25 20 12 8)] : List Bool).all id = true := by decide

theorem test_decode_squad_2 : ([reads [0x28528112, 0x64000830, 0x48D159E0] (.reduxImm ⟨2, true, 0, false⟩ .high .inc 25 20 12 0x92345678),
    reads [0x00528115, 0x00002000] (.convoy ⟨2, true, 0, false⟩ 20 8),
    reads [0x00528116, 0x00000800, 0x48D159E0] (.convoyImm ⟨2, true, 0, false⟩ 20 0x92345678)] : List Bool).all id = true := by decide

theorem test_decode_float_1 : ([reads [0x00528141, 0x68002030] (.fadd ⟨2, true, 0, false⟩ 2 3 20 12 8),
    reads [0x00528145, 0x68002030] (.fsub ⟨2, true, 0, false⟩ 2 3 20 12 8),
    reads [0x00528149, 0x68002030] (.fmul ⟨2, true, 0, false⟩ 2 3 20 12 8),
    reads [0x0052814D, 0x68102030] (.ffma ⟨2, true, 0, false⟩ 2 3 20 12 8 4),
    reads [0x00528151, 0x68002030] (.fmin ⟨2, true, 0, false⟩ 2 3 20 12 8),
    reads [0x00528155, 0x68002030] (.fmax ⟨2, true, 0, false⟩ 2 3 20 12 8),
    reads [0x140E8159, 0x68002030] (.fcmp ⟨2, true, 0, false⟩ .ge 2 3 3 12 8),
    reads [0x0052A55D, 0x68000030] (.frcp ⟨2, true, 9, false⟩ 2 3 20 12),
    reads [0x0052A561, 0x68000030] (.frsq ⟨2, true, 9, false⟩ 2 3 20 12)] : List Bool).all id = true := by decide

theorem test_decode_float_2 : ([reads [0x0052A565, 0x68000030] (.fsqrt ⟨2, true, 9, false⟩ 2 3 20 12),
    reads [0x0052A569, 0x68002030] (.fdiv ⟨2, true, 9, false⟩ 2 3 20 12 8),
    reads [0x0052A56D, 0x68000030] (.fexp2 ⟨2, true, 9, false⟩ 2 3 20 12),
    reads [0x0052A571, 0x68000030] (.flog2 ⟨2, true, 9, false⟩ 2 3 20 12),
    reads [0x0052A575, 0x68000030] (.fsin ⟨2, true, 9, false⟩ 2 3 20 12),
    reads [0x0052A579, 0x68000030] (.fcos ⟨2, true, 9, false⟩ 2 3 20 12),
    reads [0x0052817D, 0x68000030] (.fclass ⟨2, true, 0, false⟩ 2 3 20 12),
    reads [0x00528181, 0x68000030] (.fround ⟨2, true, 0, false⟩ 2 3 20 12),
    reads [0x00528185, 0x68002030] (.fldexp ⟨2, true, 0, false⟩ 2 3 20 12 8)] : List Bool).all id = true := by decide

theorem test_decode_conversions : ([reads [0x005281A2, 0x00100030, 0x0002D124] (.fcvt ⟨2, true, 0, false⟩ 20 12 4 9 17 3 true),
    reads [0x005281A6, 0x00100030, 0x0002D124] (.icvt ⟨2, true, 0, false⟩ 20 12 4 9 17 3 true),
    reads [0x005281AA, 0x00100030, 0x0002D124] (.i2f ⟨2, true, 0, false⟩ 20 12 4 9 17 3 true),
    reads [0x005281AE, 0x00100030, 0x0002D124] (.f2i ⟨2, true, 0, false⟩ 20 12 4 9 17 3 true),
    reads [0x245281B1, 0x68102030] (.dot2 ⟨2, true, 0, false⟩ true 2 3 20 12 8 4),
    reads [0x145281B5, 0x68102030] (.dot4 ⟨2, true, 0, false⟩ .i8 2 3 20 12 8 4)] : List Bool).all id = true := by decide

theorem test_decode_formats : ([reads [0x001681C1, 0x00000030] (.fmtset ⟨2, true, 0, false⟩ 5 12),
    reads [0x001681C2, 0x00000800, 0x48D159E0] (.fmtsetImm ⟨2, true, 0, false⟩ 5 0x92345678),
    reads [0x005281C5, 0x00000018] (.fmtget ⟨2, true, 0, false⟩ 20 6),
    reads [0x005281C9, 0x00002030] (.tag ⟨2, true, 0, false⟩ 20 12 8),
    reads [0x005281CA, 0x00000830, 0x48D159E0] (.tagImm ⟨2, true, 0, false⟩ 20 12 0x92345678),
    reads [0x005281CD, 0x00000030] (.tagget ⟨2, true, 0, false⟩ 20 12),
    reads [0x0C5281D1, 0x64000030] (.bscale ⟨2, true, 0, false⟩ 3 25 20 12),
    reads [0x005281D6, 0x00100030, 0x0002D124] (.packn ⟨2, true, 0, false⟩ 20 12 4 9 17 3 true),
    reads [0x005281DA, 0x00100030, 0x0002D124] (.unpackn ⟨2, true, 0, false⟩ 20 12 4 9 17 3 true)] : List Bool).all id = true := by decide

theorem test_decode_memory_1 : ([reads [0x0052A602, 0x6400202C, 0xB048D158] (.ld ⟨2, true, 9, false⟩ 25 20 ⟨11, 8, 0x123456⟩ 4 5),
    reads [0x0002A606, 0x6410202C, 0xB048D158] (.st ⟨2, true, 9, false⟩ 25 ⟨11, 8, 0x123456⟩ 4 4 5),
    reads [0x1C52A60A, 0x6410202C, 0xB048D158] (.atom ⟨2, true, 9, false⟩ .incw 25 20 ⟨11, 8, 0x123456⟩ 4 4 5),
    reads [0x0052A60F, 0x6410202C, 0xB048D158, 0x00000060] (.cas ⟨2, true, 9, false⟩ 25 20 ⟨11, 8, 0x123456⟩ 4 4 5 24),
    reads [0x1C02A612, 0x6410202C, 0xB048D158] (.red ⟨2, true, 9, false⟩ .incw 25 ⟨11, 8, 0x123456⟩ 4 4 5),
    reads [0x00028216, 0x00000000, 0xB0000000] (.fence ⟨2, true, 0, false⟩ 4 5),
    reads [0x002AA61A, 0x0000202C, 0xB048D158] (.brload ⟨2, true, 9, false⟩ 10 ⟨11, 8, 0x123456⟩ 4 5),
    reads [0x002A821D, 0x00000030] (.brset ⟨2, true, 0, false⟩ 10 12),
    reads [0x0452821D, 0x00000018] (.brsetToRegisters ⟨2, true, 0, false⟩ 20 6)] : List Bool).all id = true := by decide

theorem test_decode_memory_2 : ([reads [0x00028222, 0x0000202C, 0xB048D158] (.prefetch ⟨2, true, 0, false⟩ ⟨11, 8, 0x123456⟩ 4 5),
    reads [0x00028226, 0x0000202C, 0xB048D158] (.cctl ⟨2, true, 0, false⟩ ⟨11, 8, 0x123456⟩ 4 5)] : List Bool).all id = true := by decide

theorem test_decode_publication : ([reads [0x00028232, 0x0010202C, 0xB048D158] (.publish ⟨2, true, 0, false⟩ ⟨11, 8, 0x123456⟩ 4 4 5),
    reads [0x00528232, 0x0410202C, 0xB048D158] (.publishM ⟨2, true, 0, false⟩ 20 ⟨11, 8, 0x123456⟩ 4 4 5),
    reads [0x00028236, 0x0010202C, 0xB048D158] (.adopt ⟨2, true, 0, false⟩ ⟨11, 8, 0x123456⟩ 4 4 5),
    reads [0x0002823A, 0x0010202C, 0xB048D158] (.retract ⟨2, true, 0, false⟩ ⟨11, 8, 0x123456⟩ 4 4 5)] : List Bool).all id = true := by decide

theorem test_decode_barriers : ([reads [0x00268241, 0x00002000] (.barinit ⟨2, true, 0, false⟩ 9 8),
    reads [0x00268242, 0x00000800, 0x48D159E0] (.barinitImm ⟨2, true, 0, false⟩ 9 0x92345678),
    reads [0x00528245, 0x00000034] (.bararrive ⟨2, true, 0, false⟩ 20 13),
    reads [0x00028249, 0x00002034] (.barwait ⟨2, true, 0, false⟩ 13 8),
    reads [0x0002824D, 0x00000034] (.barsync ⟨2, true, 0, false⟩ 13),
    reads [0x00028251, 0x00000034] (.barinval ⟨2, true, 0, false⟩ 13),
    reads [0x00528255, 0x00000034] (.barquery ⟨2, true, 0, false⟩ 20 13),
    reads [0x00028259, 0x00000000] (.teamsync ⟨2, true, 0, false⟩)] : List Bool).all id = true := by decide

theorem test_decode_copies : ([reads [0xE452A663, 0x0010230C, 0x9448D158, 0x09950C84] (.copy ⟨2, true, 9, false⟩ ⟨20, 3, 12, 8, 4, 0x123456, 0x654321, 0xA5, true⟩ ⟨true, 9⟩),
    reads [0xE452A667, 0x0010230C, 0x9448D158, 0x09950C84] (.copy2d ⟨2, true, 9, false⟩ ⟨20, 3, 12, 8, 4, 0x123456, 0x654321, 0xA5, true⟩ ⟨true, 9⟩),
    reads [0xE452A66B, 0x0010230C, 0x9448D158, 0x09950C84] (.copyg ⟨2, true, 9, false⟩ ⟨20, 3, 12, 8, 4, 0x123456, 0x654321, 0xA5, true⟩ ⟨true, 9⟩),
    reads [0x9452A66F, 0x6C10230C, 0x9448D158, 0xE9950C84] (.copyrem ⟨2, true, 9, false⟩ ⟨20, 3, 12, 8, 4, 0x123456, 0x654321, 0xA5, true⟩ 5 14 27)] : List Bool).all id = true := by decide

theorem test_decode_tiles_1 : ([reads [0x0086A682, 0x6400202C, 0xB048D158] (.tld ⟨2, true, 9, false⟩ 25 33 ⟨11, 8, 0x123456⟩ 4 5),
    reads [0x0002A686, 0x64A0202C, 0xB048D158] (.tst ⟨2, true, 9, false⟩ 25 ⟨11, 8, 0x123456⟩ 40 4 5),
    reads [0x00868289, 0x64000000] (.tzero ⟨2, true, 0, false⟩ 25 33),
    reads [0x0086828D, 0x00000048] (.tmov ⟨2, true, 0, false⟩ 33 18),
    reads [0x0C868291, 0x14111048] (.tcvt ⟨2, true, 0, false⟩ 3 5 33 18 4 2 4),
    reads [0x00868295, 0x00000048] (.ttrans ⟨2, true, 0, false⟩ 33 18),
    reads [0x00868299, 0x64002448] (.tadd ⟨2, true, 0, false⟩ 25 33 18 9),
    reads [0x0086829D, 0x00000030] (.tscale ⟨2, true, 0, false⟩ 33 12),
    reads [0x005282A1, 0x64002048] (.tgetv ⟨2, true, 0, false⟩ 25 20 18 8)] : List Bool).all id = true := by decide

theorem test_decode_tiles_2 : ([reads [0x008682A5, 0x64002030] (.tsetv ⟨2, true, 0, false⟩ 25 33 12 8)] : List Bool).all id = true := by decide

theorem test_decode_engine : ([reads [0x0002A702, 0x4D94202C, 0x0048D158] (.mloadw ⟨2, true, 9, false⟩ ⟨11, 8, 0x123456⟩ 37 true 19),
    reads [0x00028305, 0x00000000] (.mswap ⟨2, true, 0, false⟩),
    reads [0x0086A709, 0x4F0CA048] (.mma ⟨2, true, 9, false⟩ 19 33 18 40 3 2 true),
    reads [0x0052830D, 0x00000000] (.mlocate ⟨2, true, 0, false⟩ 20),
    reads [0x00528311, 0x00000000] (.mcorrect ⟨2, true, 0, false⟩ 20),
    reads [0x00528315, 0x00000000] (.mretry ⟨2, true, 0, false⟩ 20),
    reads [0x00028319, 0x00000000] (.mdiscard ⟨2, true, 0, false⟩),
    reads [0x0052831D, 0x00000000] (.mstat ⟨2, true, 0, false⟩ 20)] : List Bool).all id = true := by decide

theorem test_decode_spawning : ([reads [0x001E8341, 0x00000030] (.spawn ⟨2, true, 0, false⟩ 7 12),
    reads [0x00028345, 0x00002030] (.notify ⟨2, true, 0, false⟩ 12 8)] : List Bool).all id = true := by decide

theorem test_decode_system_1 : ([reads [0x00028381, 0x000048D0] (.trap ⟨2, true, 0, false⟩ 0x1234),
    reads [0x00028385, 0x000048D0] (.brk ⟨2, true, 0, false⟩ 0x1234),
    reads [0x00528389, 0x00002030] (.trapinfo ⟨2, true, 0, false⟩ 20 12 8),
    reads [0x0052838A, 0x00000830, 0x48D159E0] (.trapinfoImm ⟨2, true, 0, false⟩ 20 12 0x92345678),
    reads [0x0002838D, 0x00000030] (.trapclr ⟨2, true, 0, false⟩ 12),
    reads [0x00028391, 0x00000000] (.trapretResume ⟨2, true, 0, false⟩),
    reads [0x04028391, 0x00000000] (.trapretKill ⟨2, true, 0, false⟩),
    reads [0x08028391, 0x00000000] (.trapretKillsig ⟨2, true, 0, false⟩),
    reads [0x00528395, 0x000000A8] (.sread ⟨2, true, 0, false⟩ 20 42)] : List Bool).all id = true := by decide

theorem test_decode_system_2 : ([reads [0x00028399, 0x000020A8] (.swrite ⟨2, true, 0, false⟩ 42 8),
    reads [0x0052839D, 0x00000000] (.clock ⟨2, true, 0, false⟩ 20),
    reads [0x000283A1, 0x00002000] (.sleep ⟨2, true, 0, false⟩ 8),
    reads [0x000283A2, 0x00000800, 0x48D159E0] (.sleepImm ⟨2, true, 0, false⟩ 0x92345678)] : List Bool).all id = true := by decide

/-! ### Well-formedness (R264, R265 and the type tables of the instruction chapters) -/

/-- An unguarded head without lookahead. -/
def hd0 : Hd := ⟨0, false, 0, false⟩

/-- Each instruction of the list is refused. -/
def refused (l : List Instr) : Bool := l.all fun i => !i.wellFormed

theorem test_wf_accepts : ([.iadd hd0 false 1 6 4 5, .idiv ⟨2, true, 15, false⟩ 25 6 4 8, .ld hd0 24 4 ⟨1, 255, 0⟩ 5 5,
    .publish hd0 ⟨1, 255, 0⟩ 6 0 3, .mma hd0 23 8 4 0 9 0 true, .tcvt hd0 5 4 3 2 8 0 9] : List Instr).all (·.wellFormed) = true := by
  decide
-- R264, R265: an unused field set; PN with p0; LA outside the long-latency class; an odd pair; a group not at 4
theorem test_wf_head : refused [.nop ⟨0, false, 0, true⟩, .exit ⟨0, true, 0, false⟩, .iadd ⟨0, false, 1, false⟩ false 1 6 4 5,
    .iadd hd0 false 25 7 4 6, .clock hd0 254, .ld hd0 33 6 ⟨1, 255, 0⟩ 0 1, .tadd hd0 3 3 4 6] = true := by decide
-- chapter 16: types of the integer, bit, move and squad forms
theorem test_wf_integer_types : refused [.iadd hd0 false 3 6 4 5, .iabs hd0 0 6 4, .and hd0 1 6 4 5, .popc hd0 25 6 4,
    .bfx hd0 2 6 4 5, .bperm hd0 1 6 4 5 8, .movi hd0 10 6 0, .lea hd0 0 6 4 5 1, .vote hd0 .all false 8 1 9,
    .redux hd0 .sum .tot 0 6 4 5, .redux hd0 .band .exc 1 6 4 5, .sqMatch hd0 .any 1 6 4 5] = true := by decide
-- chapter 17: types, roundings and the fields of conversions
theorem test_wf_float_types : refused [.fadd hd0 6 0 6 4 8, .fadd hd0 0 5 6 4 5, .fmin hd0 0 1 6 4 5, .fcmp hd0 .un 4 0 3 4 5,
    .frcp hd0 2 0 6 4, .fsqrt hd0 4 0 6 4, .dot4 hd0 .i8 3 0 6 4 5 8] = true := by decide
theorem test_wf_conversions : refused [.fcvt hd0 5 4 0 4 3 6 false, .fcvt hd0 5 4 9 4 3 0 false, .fcvt hd0 5 4 9 3 4 5 false,
    .fcvt hd0 5 4 0 1 3 0 true, .f2i hd0 5 4 0 1 3 0 true, .i2f hd0 5 4 0 3 3 0 false, .icvt hd0 5 4 0 1 2 1 false,
    .packn hd0 30 10 0 12 1 0 false, .unpackn hd0 30 10 0 3 12 5 false, .tagImm hd0 5 4 24, .bscale hd0 0 1 6 4,
    .bscale hd0 31 3 6 4] = true := by decide
-- chapter 18: types, orders and scopes (R166, R167, R332)
theorem test_wf_memory : refused [.ld hd0 38 4 ⟨1, 255, 0⟩ 0 1, .ld hd0 0 4 ⟨1, 255, 0⟩ 3 1, .ld hd0 0 4 ⟨1, 255, 0⟩ 0 6,
    .st hd0 27 ⟨1, 255, 0⟩ 4 3 3, .atom hd0 .incw 1 4 ⟨1, 255, 0⟩ 5 1 1, .atom hd0 .min 3 4 ⟨1, 255, 0⟩ 5 1 1,
    .cas hd0 1 4 ⟨1, 255, 0⟩ 5 1 1 6, .cas hd0 0 4 ⟨1, 255, 0⟩ 5 0 1 6, .red hd0 .exch 0 ⟨1, 255, 0⟩ 5 1 1,
    .red hd0 .add 1 ⟨1, 255, 0⟩ 5 4 1, .fence hd0 1 3, .brload hd0 1 ⟨0, 255, 0⟩ 2 1] = true := by decide
theorem test_wf_publication : refused [.publish hd0 ⟨1, 255, 0⟩ 6 0 4, .adopt hd0 ⟨1, 255, 0⟩ 6 1 1, .copy hd0 ⟨5, 1, 2, 255, 255, 0, 0, 6, false⟩ ⟨false, 1⟩,
    .copyg hd0 ⟨5, 1, 2, 255, 7, 0, 0, 6, false⟩ ⟨true, 1⟩, .copyrem hd0 ⟨5, 1, 2, 255, 255, 0, 0, 6, false⟩ 2 3 0] = true := by decide
-- chapter 19: tiles, engine, special registers (R345 to R359)
theorem test_wf_tiles : refused [.tld hd0 6 1 ⟨1, 255, 0⟩ 1 1, .tzero hd0 24 1, .tadd hd0 6 2 4 6, .tcvt hd0 0 10 3 2 3 0 0,
    .tcvt hd0 0 1 4 2 1 0 0, .tcvt hd0 6 4 3 2 3 0 0, .tgetv hd0 24 6 1 4, .mloadw hd0 ⟨1, 255, 0⟩ 1 false 4,
    .mloadw hd0 ⟨1, 255, 0⟩ 0 false 10, .mma hd0 4 8 1 0 4 3 false, .sread hd0 6 0x12, .swrite hd0 0x38 6] = true := by decide


/-! ### Small states -/

/-- Lane 0 of the one squad of a resident team, with these registers, all raw. -/
def holding (regs : List (BitVec 8 × Word)) (th : Thread) : Thread := regs.foldl (fun th r => th.setReg r.1 r.2 0) th

/-- A resident team of one live thread that stands at 0x10000, with its thread and the team changed. -/
def at1 (f : Thread → Thread) (g : Team → Team := id) : State :=
  let s := State.reset.withFetchWord 64 1
  { s with teams := s.teams.update 0 fun t => g (t.setThread 0 (f (t.thread 0))) }

/-- The convoy of the small states. -/
def solo : Convoy := { key := 0, q := 0, lanes := [0], pc := 0x10000, act := [0] }

/-- The instruction is ready for a convoy of lane 0 alone, active there. -/
def readySolo (s : State) (i : Instr) : Bool :=
  decide (s.slot i = some solo) && decide (((s.tm 0).squad 0).amid? = none) && !s.stalled i solo && decide (s.decodeHits i solo = [])

theorem ready_of_solo {s : State} {i : Instr} (h : readySolo s i = true) : Ready s i solo := by
  simp only [readySolo, Bool.and_eq_true, decide_eq_true_eq, Bool.not_eq_true'] at h
  exact ⟨h.1.1.1, h.1.1.2, h.1.2, h.2⟩

/-- The thread after the instruction. -/
def after (i : Instr) (s : State) : Option Thread :=
  match exec i s with | .next t => some ((t.tm 0).lane 0 0) | _ => none

/-- A register after the instruction, where the PC goes past it. -/
def writes (i : Instr) (regs : List (BitVec 8 × Word)) (d : BitVec 8) : Option Word :=
  match after i (at1 (holding regs)) with
  | some th => if th.pc = 0x10000 + BitVec.ofNat 64 i.len then some (th.reg d).1 else none
  | none => none


/-- The result waiting for lane 0 of a long-latency instruction (R124), and its flags. -/
def pending (i : Instr) (regs : List (BitVec 8 × Word)) : Option (Dword × Dword) :=
  match exec i (at1 (holding regs)) with
  | .next t => match t.flights with
    | (_, f) :: _ => f.lanes.head?.map fun a => (a.old, a.opb)
    | [] => none
  | _ => none

/-- Registers and flags after an instruction. -/
def shows (i : Instr) (regs : List (BitVec 8 × Word)) (d : BitVec 8) : Option (VReg × BitVec 5) :=
  (after i (at1 (holding regs))).map fun th => (th.reg d, th.flags)

/-- All of a list hold. -/
def every (l : List Bool) : Bool := l.all id

/-! ### Integer, bit, move and squad instructions (chapter 16) -/

-- R287: wrap and clamp, the high half, signed and unsigned order, the most negative value
theorem test_integer_arithmetic : every [
    writes (.iadd hd0 false 1 6 4 5) [(4, 0xFFFFFFFF), (5, 2)] 6 == some 1, writes (.iadd hd0 true 1 6 4 5) [(4, 0x7FFFFFFF), (5, 1)] 6 == some 0x7FFFFFFF,
    writes (.iaddImm hd0 false 25 6 4 0xFFFFFFFF) [(4, 0), (5, 1)] 6 == some 0xFFFFFFFF, writes (.iaddImm hd0 false 25 6 4 0xFFFFFFFF) [(4, 0), (5, 1)] 7 == some 0,
    writes (.isub hd0 false 2 6 4 5) [(4, 0), (5, 1)] 6 == some 0xFFFFFFFF, writes (.isubImm hd0 true 2 6 4 1) [(4, 0)] 6 == some 0,
    writes (.imul hd0 1 6 4 5) [(4, 0x10001), (5, 0x10001)] 6 == some 0x20001, writes (.imulImm hd0 1 4 4 3) [(4, 7)] 4 == some 21,
    writes (.imulh hd0 1 6 4 5) [(4, 0xFFFFFFFF), (5, 2)] 6 == some 0xFFFFFFFF, writes (.imulhImm hd0 2 6 4 2) [(4, 0xFFFFFFFF)] 6 == some 1,
    writes (.imad hd0 1 6 4 5 8) [(4, 3), (5, 5), (8, 100)] 6 == some 115, writes (.imadImm hd0 1 6 4 8 10) [(4, 3), (8, 0xFFFFFFFF)] 6 == some 29,
    writes (.imin hd0 1 6 4 5) [(4, 0xFFFFFFFF), (5, 2)] 6 == some 0xFFFFFFFF, writes (.iminImm hd0 2 6 4 2) [(4, 0xFFFFFFFF)] 6 == some 2,
    writes (.imax hd0 1 6 4 5) [(4, 0xFFFFFFFF), (5, 2)] 6 == some 2, writes (.imaxImm hd0 2 6 4 2) [(4, 0xFFFFFFFF)] 6 == some 0xFFFFFFFF,
    writes (.iabs hd0 1 6 4) [(4, 0x80000000)] 6 == some 0x80000000, writes (.ineg hd0 1 6 4) [(4, 5)] 6 == some 0xFFFFFFFB] = true := by decide +kernel
-- R288: truncation, the sign of the dividend, a zero divisor, the overflowing quotient
theorem test_division : every [
    pending (.idiv hd0 1 6 4 5) [(4, 0xFFFFFFF9), (5, 2)] == some (0xFFFFFFFD, 0), pending (.idivImm hd0 2 6 4 0) [(4, 9)] == some (0xFFFFFFFF, 0),
    pending (.imod hd0 1 6 4 5) [(4, 0xFFFFFFF9), (5, 2)] == some (0xFFFFFFFF, 0), pending (.imodImm hd0 2 6 4 0) [(4, 9)] == some (9, 0),
    pending (.idiv hd0 1 6 4 5) [(4, 0x80000000), (5, 0xFFFFFFFF)] == some (0x80000000, 0)] = true := by decide +kernel
-- R289: a predicate, signed or unsigned
theorem test_comparison : every [
    (after (.icmp hd0 .gt 1 3 4 5) (at1 (holding [(4, 0xFFFFFFFF), (5, 1)]))).map (·.pred 3) == some false,
    (after (.icmpImm hd0 .gt 2 3 4 1) (at1 (holding [(4, 0xFFFFFFFF)]))).map (·.pred 3) == some true] = true := by decide +kernel
-- R290 to R292
theorem test_bits : every [
    writes (.and hd0 0 6 4 5) [(4, 0xFF00FF00), (5, 0x0FF00FF0)] 6 == some 0x0F000F00, writes (.andImm hd0 0 6 4 0xF) [(4, 0x1234)] 6 == some 4,
    writes (.or hd0 0 6 4 5) [(4, 0xF0), (5, 0x0F)] 6 == some 0xFF, writes (.orImm hd0 0 6 4 0x80000000) [(4, 1)] 6 == some 0x80000001,
    writes (.xor hd0 0 6 4 5) [(4, 0xFF), (5, 0x0F)] 6 == some 0xF0, writes (.xorImm hd0 0 6 4 0xFFFFFFFF) [(4, 1)] 6 == some 0xFFFFFFFE,
    writes (.not hd0 0 6 4) [(4, 1)] 6 == some 0xFFFFFFFE, writes (.andn hd0 0 6 4 5) [(4, 0xFF), (5, 0x0F)] 6 == some 0xF0,
    writes (.andnImm hd0 0 6 4 1) [(4, 3)] 6 == some 2, writes (.popc hd0 0 6 4) [(4, 0xF0F0)] 6 == some 8, writes (.clz hd0 0 6 4) [(4, 0)] 6 == some 32,
    writes (.ctz hd0 0 6 4) [(4, 8)] 6 == some 3, writes (.brev hd0 0 6 4) [(4, 1)] 6 == some 0x80000000] = true := by decide +kernel
theorem test_shifts : every [
    writes (.shl hd0 0 6 4 5) [(4, 1), (5, 31)] 6 == some 0x80000000, writes (.shlImm hd0 24 6 4 36) [(4, 1), (5, 0)] 7 == some 16,
    writes (.shr hd0 0 6 4 5) [(4, 0x80000000), (5, 31)] 6 == some 1, writes (.shrImm hd0 0 6 4 4) [(4, 0xF0)] 6 == some 0xF,
    writes (.sar hd0 0 6 4 5) [(4, 0x80000000), (5, 31)] 6 == some 0xFFFFFFFF, writes (.sarImm hd0 0 6 4 4) [(4, 0xF0)] 6 == some 0xF,
    writes (.rot hd0 0 6 4 5) [(4, 0x80000001), (5, 1)] 6 == some 3, writes (.rotImm hd0 0 6 4 4) [(4, 0xF0000000)] 6 == some 0xF] = true := by decide +kernel
-- R293 to R297
theorem test_moves : every [
    writes (.mov hd0 0 6 4) [(4, 9)] 6 == some 9, writes (.movi hd0 25 4 0xFFFFFFFF) [] 5 == some 0xFFFFFFFF,
    shows (.movi hd0 3 3 0x3F800000) [] 3 == some ((0x3F800000, 3), 0),
    writes (.sel hd0 0 6 4 5 0) [(4, 1), (5, 2)] 6 == some 1, writes (.selImm hd0 0 6 4 3 77) [(4, 1)] 6 == some 77,
    writes (.lea hd0 1 10 10 7 3) [(10, 0x100), (11, 0), (7, 0xFFFFFFFF)] 10 == some 0xF8, writes (.leaImm hd0 2 10 10 3 0x20000000) [(10, 0), (11, 7)] 11 == some 8,
    (after (.plop hd0 .or true true 3 0 0) (at1 fun th => { th with preds := 0xFF })).map (·.preds) == some 0xF7,
    (after (.pmovToRegister hd0 6) (at1 fun th => { th with preds := 0x81 })).map (fun th => th.reg 6) == some (0x81, 0),
    (after (.pmovToPredicates hd0 4) (at1 (holding [(4, 0xFFFFFFA4)]))).map (·.preds) == some 0xA5] = true := by decide +kernel

/-! ### Floating point (chapter 17) -/

-- R306 to R315, R131 to R143
theorem test_float_arithmetic : every [
    shows (.fadd hd0 0 0 6 4 5) [(4, 0x3F800000), (5, 0x33800000)] 6 == some ((0x3F800000, 3), 16), shows (.fadd hd0 0 3 6 4 5) [(4, 0x3F800000), (5, 0x33800000)] 6 == some ((0x3F800001, 3), 16),
    shows (.fsub hd0 1 0 6 4 5) [(4, 0x3C00), (5, 0x4000)] 6 == some ((0xBC00, 4), 0), shows (.fmul hd0 0 0 6 4 5) [(4, 0x3FC00000), (5, 0x40000000)] 6 == some ((0x40400000, 3), 0),
    shows (.fmul hd0 0 0 6 4 5) [(4, 0x7F000000), (5, 0x40000000)] 6 == some ((0x7F800000, 3), 20),
    shows (.ffma hd0 0 0 6 4 5 8) [(4, 0x40000000), (5, 0x40400000), (8, 0x3F800000)] 6 == some ((0x40E00000, 3), 0),
    shows (.fmin hd0 0 0 6 4 5) [(4, 0xBF800000), (5, 0x3F800000)] 6 == some ((0xBF800000, 3), 0), shows (.fmax hd0 2 0 6 4 5) [(4, 0xBF80), (5, 0x3F80)] 6 == some ((0x3F80, 5), 0),
    (after (.fcmp hd0 .un 0 0 3 4 5) (at1 (holding [(4, 0x7FC00000), (5, 0)]))).map (·.pred 3) == some true,
    shows (.fclass hd0 0 0 6 4) [(4, 0x80000001)] 6 == some ((4, 0), 0), shows (.fround hd0 0 1 6 4) [(4, 0xC0200000)] 6 == some ((0xC0400000, 3), 0),
    shows (.fldexp hd0 0 0 6 4 5) [(4, 0xBE99999A), (5, 0xFFFFFFFF)] 6 == some ((0xBE19999A, 3), 0)] = true := by decide +kernel
-- R310, R312: exact quotients and roots; x / 0 gives infinity and DVZ
theorem test_float_long : every [
    pending (.fdiv hd0 0 0 6 4 5) [(4, 0x3F800000), (5, 0x40400000)] == some (0x3EAAAAAB, 16), pending (.fdiv hd0 0 0 6 4 5) [(4, 0x3F800000), (5, 0)] == some (0x7F800000, 2),
    pending (.fsqrt hd0 0 0 6 4) [(4, 0x40000000)] == some (0x3FB504F3, 16), pending (.frcp hd0 0 0 6 4) [(4, 0)] == some (0x7F800000, 2),
    pending (.frsq hd0 0 0 6 4) [(4, 0)] == some (0x7F800000, 2), pending (.fexp2 hd0 0 0 6 4) [(4, 0xFF800000)] == some (0, 0),
    pending (.flog2 hd0 0 0 6 4) [(4, 0)] == some (0xFF800000, 2), pending (.fsin hd0 0 0 6 4) [(4, 0)] == some (0, 0),
    pending (.fcos hd0 0 0 6 4) [(4, 0x7F800000)] == some (0x7FC00000, 1)] = true := by decide +kernel
-- R317 to R322
theorem test_conversions : every [
    shows (.fcvt hd0 6 4 0 4 3 0 false) [(4, 0x47800000)] 6 == some ((0x7C00, 4), 20), shows (.fcvt hd0 6 4 0 4 3 0 true) [(4, 0x47800000)] 6 == some ((0x7BFF, 4), 20),
    shows (.icvt hd0 6 4 0 28 1 0 true) [(4, 300)] 6 == some ((127, 0), 0), shows (.i2f hd0 6 4 0 3 1 0 false) [(4, 0xFFFFFFFF)] 6 == some ((0xBF800000, 3), 0),
    shows (.f2i hd0 6 4 0 1 3 2 false) [(4, 0x407F5C29)] 6 == some ((3, 1), 16),
    shows (.packn hd0 30 10 0 12 3 0 false) [(10, 0x3FC00000), (11, 0xBE19999A), (12, 0x43FA0000), (13, 0)] 30 == some ((0x007EA23C, 12), 20),
    shows (.unpackn hd0 8 4 0 3 12 0 false) [(4, 0x007EA23C)] 9 == some ((0xBE200000, 3), 0),
    shows (.dot4 hd0 .i8 0 0 6 4 5 8) [(4, 0x0102FF04), (5, 0x01010101), (8, 0x3F800000)] 6 == some ((0x40E00000, 3), 0),
    shows (.dot2 hd0 false 0 0 6 4 5 8) [(4, 0x3C004000), (5, 0x3C003C00), (8, 0)] 6 == some ((0x40400000, 3), 0),
    shows (.bscale hd0 0 3 24 20) [(20, 0x447A0000)] 24 == some ((0x80, 0), 0)] = true := by decide +kernel
-- R323, R324
theorem test_tags : every [
    shows (.tag hd0 6 4 5) [(4, 9), (5, 3)] 6 == some ((9, 3), 0), shows (.tagImm hd0 6 4 23) [(4, 9)] 6 == some ((9, 23), 0),
    (after (.tagget hd0 6 4) (at1 fun th => th.setReg 4 1 12)).map (fun th => th.reg 6) == some (12, 0),
    (after (.fmtget hd0 6 5) (at1 id)).isSome] = true := by decide +kernel


/-! ### States that meet the hypotheses of the statements: computing instructions

Each `witness_…` names a state and operands that meet the hypotheses of the statement it is named after; a list stands for
the clauses of the statement. -/

/-- Every instruction of the list is ready in the small state. -/
def ready (l : List Instr) : Bool := l.all (readySolo (at1 id))
/-- The registers of lane 0 have tags that a type accepts. -/
def tagsOk (ty : BitVec 6) (l : List (BitVec 8)) : Bool := l.all fun r => (((at1 id).tm 0).lane 0 0).tagged ty r

theorem witness_ready : Ready (at1 id) (.iadd hd0 false 1 6 4 8) solo := ready_of_solo (by decide +kernel)
theorem witness_IntegerArithmeticCompletes : (ready [.iadd hd0 true 1 6 4 8, .iaddImm hd0 false 1 6 4 1, .isub hd0 false 1 6 4 8, .isubImm hd0 true 1 6 4 1,
    .imul hd0 1 6 4 8, .imulImm hd0 1 6 4 1, .imulh hd0 1 6 4 8, .imulhImm hd0 1 6 4 1, .imad hd0 1 6 4 8 12, .imadImm hd0 1 6 4 12 1, .imin hd0 1 6 4 8,
    .iminImm hd0 1 6 4 1, .imax hd0 1 6 4 8, .imaxImm hd0 1 6 4 1, .iabs hd0 1 6 4, .ineg hd0 25 6 4] && tagsOk 1 [4, 8, 12]) = true := by decide +kernel
theorem witness_DivisionIssues : (ready [.idiv hd0 1 6 4 8, .idivImm hd0 1 6 4 1, .imod hd0 1 6 4 8, .imodImm hd0 1 6 4 1] && tagsOk 1 [4, 8]) = true := by
  decide +kernel
theorem witness_IntegerComparisonCompletes : (ready [.icmp hd0 .eq 1 3 4 8, .icmpImm hd0 .ge 1 0 4 1] && tagsOk 1 [4, 8]) = true := by decide +kernel
theorem witness_LogicAndShiftsComplete : ready [.and hd0 0 6 4 8, .andImm hd0 0 6 4 1, .or hd0 0 6 4 8, .orImm hd0 0 6 4 1, .xor hd0 24 6 4 8, .xorImm hd0 0 6 4 1,
    .andn hd0 0 6 4 8, .andnImm hd0 0 6 4 1, .not hd0 0 6 4, .brev hd0 0 6 4, .shl hd0 0 6 4 8, .shlImm hd0 0 6 4 1, .shr hd0 0 6 4 8, .shrImm hd0 0 6 4 1,
    .sar hd0 0 6 4 8, .sarImm hd0 0 6 4 1, .rot hd0 0 6 4 8, .rotImm hd0 0 6 4 1, .popc hd0 0 6 4, .clz hd0 0 6 4, .ctz hd0 24 6 4] = true := by decide +kernel
theorem witness_BitFieldsComplete : ready [.bfx hd0 1 6 4 8, .bfxImm hd0 0 6 4 1, .bfi hd0 0 6 4 8 12, .bfiImm hd0 24 6 4 12 1, .bperm hd0 0 6 4 8 12,
    .bpermImm hd0 0 6 4 12 1] = true := by decide +kernel
theorem witness_MovesComplete : (ready [.mov hd0 24 6 4, .movi hd0 3 6 1, .sel hd0 0 6 4 8 3, .selImm hd0 0 6 4 3 1, .lea hd0 1 6 4 8 7, .leaImm hd0 2 6 4 0 1]
    && tagsOk 1 [8]) = true := by decide +kernel
theorem witness_PredicatesComplete : ready [.plop hd0 .xor true false 0 1 2, .plop hd0 .and true false 3 1 3, .pmovToRegister hd0 6, .pmovToPredicates hd0 4] = true := by
  decide +kernel
-- a jump to an aligned and to a misaligned address
theorem witness_ControlCompletes : (ready [.nop hd0, .nop96 hd0, .nop128 hd0, .nopOneParcel hd0, .yield hd0, .bra hd0 5, .call hd0 6 5, .brx hd0 4, .ret hd0 4, .callx hd0 6 4]
    && decide ((((at1 id).tm 0).lane 0 0).r64 4 = 0)
    && readySolo (at1 (holding [(4, 2)])) (.brx hd0 4) && decide ((((at1 (holding [(4, 2)])).tm 0).lane 0 0).r64 4 = 2)) = true := by decide +kernel
-- no active lane; in a handler; the last lane with nothing in flight; another lane of the squad still live
theorem witness_ExitEndsThreads :
    let off := at1 id
    let two := at1 id fun t => t.setThread 1 {}
    let handler := at1 id fun t => { t with phase := .handler 0 0 0 }
    (readySolo off (.exit hd0) && off.quiet 0 0 && off.engineIdle 0 0 && !off.inHandler 0
      && decide (off.slot (.exit ⟨0, true, 0, false⟩) = some { solo with act := [] }) && handler.inHandler 0 && readySolo handler (.exit hd0) && readySolo two (.exit hd0) && decide ((two.tm 0).live 0 = [0, 1])
      && decide (off.slot (.exit ⟨3, false, 0, false⟩) = some { solo with act := [] })) = true := by decide +kernel

/-! ### Floating point -/

/-- Sources with accepted tags, and no flag that traps. -/
def floatOk (ft : BitVec 3) (l : List (BitVec 8)) : Bool :=
  (l.all fun r => (((at1 id).tm 0).lane 0 0).ftTagged ft r) && (List.range 32).all fun fl => (fpCauses ((at1 id).tm 0).fpctl (BitVec.ofNat 5 fl)).isEmpty

theorem witness_FloatArithmeticCompletes : (ready [.fadd hd0 0 0 6 4 8, .fsub hd0 3 4 6 4 8, .fmul hd0 4 0 6 4 8, .ffma hd0 0 0 6 4 8 12, .fmin hd0 0 0 6 4 8,
    .fmax hd0 0 0 6 4 8, .fround hd0 0 0 6 4, .fcmp hd0 .un 0 0 3 4 8, .fldexp hd0 0 0 6 4 8] && floatOk 0 [4, 8, 12] && floatOk 3 [4, 8] && floatOk 4 [4, 8]) = true := by
  decide +kernel
theorem witness_MinimumAndMaximumNumber : (ready [.fmin hd0 5 0 6 4 8, .fmax hd0 0 0 6 4 8] && floatOk 5 [4, 8] && floatOk 0 [4, 8]) = true := by decide +kernel
theorem witness_ClassMaskIsWritten : (ready [.fclass hd0 3 0 6 4] && floatOk 3 [4]) = true := by decide +kernel
theorem witness_LongLatencyFloatIssues : (ready [.fdiv hd0 0 0 6 4 8, .fsqrt hd0 3 0 6 4, .frcp hd0 0 0 6 4, .frsq hd0 0 0 6 4, .fexp2 hd0 1 0 6 4, .flog2 hd0 0 0 6 4,
    .fsin hd0 0 0 6 4, .fcos hd0 0 0 6 4] && floatOk 0 [4, 8] && floatOk 1 [4] && floatOk 3 [4]) = true := by decide +kernel
/-- A result in flight for lane 0. -/
def resultFlight : Flight := { team := 0, sq := 0, core := 0, pc := 0x10000, op := .result 6 1 1, lanes := [{ ln := 0, va := 0, place := .oob, old := 7 }] }
def landing : State := { at1 id with flights := [(0, resultFlight)] }
theorem witness_LongLatencyResultLands : (decide (landing.flights.find landing.who = some resultFlight) && (landing.teams.find 0).isSome
    && decide (tidOf 0 0 < (landing.tm 0).threads.length) && (fpCauses 0 0).isEmpty) = true := by decide +kernel
theorem test_result_lands : (match exec .longLatencyResult landing with
    | .next t => some (((t.tm 0).lane 0 0).reg 6, t.flights.length) | _ => none) = some ((7, 1), 0) := by decide +kernel
theorem witness_ConversionsComplete : (ready [.fcvt hd0 6 4 0 4 3 0 false, .fcvt hd0 6 4 0 10 11 0 true, .fcvt hd0 6 4 0 1 3 2 false, .f2i hd0 6 4 0 1 3 2 false,
    .i2f hd0 6 4 0 3 1 0 false, .icvt hd0 6 4 0 28 1 0 true] && [3, 11, 1].all fun ty => (((at1 id).tm 0).lane 0 0).cvTagged ty 4) = true := by decide +kernel
theorem witness_PackingAndDotsComplete :
    let pk : Instr := .packn hd0 30 12 0 12 3 0 false
    let up : Instr := .unpackn hd0 8 4 0 3 12 0 false
    let s := at1 id
    (ready [pk, up, .dot2 hd0 true 0 0 6 4 8 12, .dot4 hd0 .n8 0 0 6 4 8 12, .bscale hd0 0 3 6 4] && floatOk 0 [12]
      && (packHits pk 12 (fun u => decide ((tyFmt u 12).mb < (tyFmt u 3).mb)) (s.launchOf (s.tm s.team)).hdr (s.tm 0) 0).isEmpty
      && (packHits up 12 (fun _ => true) (s.launchOf (s.tm s.team)).hdr (s.tm 0) 0).isEmpty && !codeInvalid (s.tm 0) 0
      && ((groupRegs 12 3 (elemCount (s.tm 0) 12)).all (((s.tm 0).lane 0 0).cvTagged 3)) && (emaxOf (codeFmt (s.tm 0) 0)).isSome) = true := by decide +kernel
-- a valid and an invalid descriptor; a tag code out of range
theorem witness_DescriptorsAndTags : (ready [.fmtset hd0 5 4, .fmtsetImm hd0 5 0x43, .fmtget hd0 6 5, .tag hd0 6 4 8, .tagImm hd0 6 4 23, .tagget hd0 6 4]
    && !Float.descValid 0 && Float.descValid 0x43 && readySolo (at1 (holding [(8, 24)])) (.tag hd0 6 4 8)
    && decide ((((at1 (holding [(8, 24)])).tm 0).lane 0 0).r32 8 = 24)) = true := by decide +kernel
-- R324
theorem test_tag_code : (match exec (.tag hd0 6 4 8) (at1 (holding [(8, 24)])) with | .next t => some ((t.tm 0).squad 0).causes | _ => none)
    = some Cause.reservedField.mask := by decide +kernel


/-! ### Squad instructions (chapter 16) -/

/-- Two live lanes at one instruction, with registers. -/
def at2 (r0 r1 : List (BitVec 8 × Word)) : State :=
  at1 (holding r0) fun t =>
    let t := t.setThread 1 (holding r1 { pc := 0x10000 })
    t.setSquad 0 { t.squad 0 with convoy := [0, 1] }
/-- Their convoy. -/
def duo : Convoy := { key := 0, q := 0, lanes := [0, 1], pc := 0x10000, act := [0, 1] }
/-- The registers of both lanes after the instruction. -/
def both (i : Instr) (r0 r1 : List (BitVec 8 × Word)) (d : BitVec 8) : Option (Word × Word) :=
  match exec i (at2 r0 r1) with
  | .next t => some (((t.tm 0).lane 0 0).r32 d, ((t.tm 0).lane 0 1).r32 d)
  | _ => none

-- R302 to R304, with both lanes as participants
theorem test_squad_results : every [
    both (.voteImm hd0 .ballot false 6 0 3) [] [] 6 == some (3, 3), both (.shflImm hd0 .rot 0 6 4 5 3) [(4, 7), (5, 1)] [(4, 9), (5, 1)] 6 == some (9, 7),
    both (.shfl hd0 .rev 0 6 4 8 5) [(4, 7), (8, 3)] [(4, 9), (8, 3)] 6 == some (9, 7), both (.sqMatchImm hd0 .any 0 6 4 3) [(4, 7)] [(4, 9)] 6 == some (1, 2),
    both (.sqMatch hd0 .all 0 6 4 8) [(4, 7), (8, 3)] [(4, 7), (8, 3)] 6 == some (3, 3), both (.reduxImm hd0 .sum .inc 1 6 4 3) [(4, 7)] [(4, 9)] 6 == some (7, 16),
    both (.reduxImm hd0 .low .exc 1 6 4 3) [(4, 7)] [(4, 9)] 6 == some (0x7FFFFFFF, 7), both (.redux hd0 .high .tot 1 6 4 8) [(4, 7), (8, 3)] [(4, 0xFFFFFFFF), (8, 3)] 6 == some (7, 7),
    both (.convoyImm hd0 6 3) [] [] 6 == some (0x200, 0x201), both (.convoy hd0 6 8) [(8, 3)] [(8, 3)] 6 == some (0x200, 0x201),
    (match exec (.voteImm hd0 .all true 3 0 3) (at2 [] []) with | .next t => some (((t.tm 0).lane 0 1).pred 3) | _ => none) == some false] = true := by decide +kernel
theorem witness_SquadInstructionsComplete :
    let r : List (BitVec 8 × Word) := [(8, 3)]
    let s := at2 r r
    let l : List Instr := [.sqsync hd0 8, .sqsyncImm hd0 3, .vote hd0 .any false 3 0 8, .voteImm hd0 .all false 3 0 3, .shfl hd0 .rank 0 6 4 8 5,
      .shflImm hd0 .seg 0 6 4 5 3, .sqMatch hd0 .any 0 6 4 8, .sqMatchImm hd0 .all 0 6 4 3, .redux hd0 .sum .tot 1 6 4 8, .reduxImm hd0 .band .tot 0 6 4 3,
      .convoy hd0 6 8, .convoyImm hd0 6 3]
    ((l.all fun i => decide (s.slot i = some duo) && decide (((s.tm 0).squad 0).amid? = none) && !s.stalled i duo && (s.decodeHits i duo).isEmpty)
      && ([0, 1].all fun ln => let th := (s.tm 0).lane 0 ln
        decide (th.pc = duo.pc) && decide (th.wait = .none) && !th.exited && decide (th.r32 8 = lanesWord duo.act) && th.tagged 1 4 && !s.loadsOut 0 0 ln)
      && ((List.range 32).all fun ln => ln < 2 || ((s.tm 0).lane 0 ln).atSquad.isNone) && !s.inHandler 0) = true := by decide +kernel
-- the first and the last of two participants
theorem witness_SquadResultsByRank :
    let ps : List Part := [0, 1].map fun ln => { ln, i := .sqsync hd0 8, a := 0, tags := (0, 0), c := 0, pa := false }
    (ps[0]?.isSome && ps[1]?.isSome && ps.all fun p => decide (p.ln < 32)) = true := by decide
/-- Lane 1 waits in a squad instruction at another address. -/
def waiter : State := at1 (holding [(8, 3)]) fun t => t.setThread 1 { pc := 0x20000, wait := .squad (.sqsyncImm hd0 1) 1 0 (0, 0) 0 false }
/-- Every squad instruction, with the masks 2 and 3. -/
def squadInstrs : List Instr := [2, 3].flatMap fun m => [.sqsync hd0 8, .sqsyncImm hd0 m, .vote hd0 .any false 3 0 8, .voteImm hd0 .all false 3 0 m,
  .shfl hd0 .rank 0 6 4 8 5, .shflImm hd0 .seg 0 6 4 5 m, .sqMatch hd0 .any 0 6 4 8, .sqMatchImm hd0 .all 0 6 4 m, .redux hd0 .sum .tot 1 6 4 8,
  .reduxImm hd0 .band .tot 0 6 4 m, .convoy hd0 6 8, .convoyImm hd0 6 m]
-- a mask without the lane itself, a mask with a lane that has ended, and a second waiter at another address
theorem witness_SquadMisuseIsRaised :
    (squadInstrs.all (fun i => readySolo (at1 id) i && readySolo waiter i) && (((at1 id).tm 0).lane 0 1).exited && !(at1 id).loadsOut 0 0 0
      && !waiter.loadsOut 0 0 0 && !waiter.inHandler 0 && ((waiter.tm 0).lane 0 0).tagged 1 4
      && decide (((waiter.tm 0).lane 0 1).atSquad = some (0x20000, 1)) && decide (((waiter.tm 0).lane 0 0).r32 8 = 3)) = true := by decide +kernel
theorem test_squad_second_waiter : (match exec (.sqsync hd0 8) waiter with
    | .next t => some (((t.tm 0).squad 0).causes, ((t.tm 0).lane 0 1).wait, ((t.tm 0).lane 0 0).pc) | _ => none) = some (0x01000000#32, .none, 0x10000) := by
  decide +kernel
theorem test_squad_misuse : (match exec (.sqsyncImm hd0 3) (at1 id) with | .next t => some ((t.tm 0).squad 0).causes | _ => none) = some (0x01000000#32) := by decide +kernel

/-! ### Memory instructions (chapters 8 and 18) -/

/-- A record over 64 KiB of the team's own slice with all rights (R148). -/
def sliceRec : BitVec 256 := BitVec.ofNat 256 (0x10000 * 2 ^ 64 + 4 * 2 ^ 128 + 1 * 2 ^ 160 + 7 * 2 ^ 168)
/-- A record over its first 320 bytes that drops what lies beyond (OOBZ, R151). -/
def shortRec : BitVec 256 := BitVec.ofNat 256 (320 * 2 ^ 64 + 1 * 2 ^ 160 + 7 * 2 ^ 168 + 1 * 2 ^ 184)
/-- The small state with a slice and a record over it. -/
def atSlice (f : Thread → Thread) (g : Team → Team := id) : State :=
  let s := at1 f fun t => g { t with recs := [(1, sliceRec), (2, shortRec)], nrec := 16 }
  { s with launches := s.launches.update 0 fun l => { l with hdr := { l.hdr with scratch := 16 } } }
/-- The hypotheses of `AccessIssues` for the one lane, given its checks and the access. -/
def issues (s : State) (i : Instr) (ad : MemAddr) (right : Right) (size unit : Nat) (P : Access) (split : Bool := false) : Bool :=
  let l := (recordOf ((s.tm 0).brec ad.brec)).lane right size unit ad.idx ad.imm.toInt 0 ((s.tm 0).lane 0 0)
  let la := { l with oob := l.oob && !split }
  let f := s.located 0 P [la]
  readySolo s i && la.hits.isEmpty && !f.1.accs.isEmpty && f.1.pages.isEmpty && f.1.fails.isEmpty && !f.2.ownOverlap 0 0 P.op.size f.1.accs
    && (!isRel P.ord || !f.2.loadsOut 0 0 0) && (isRel P.ord || decide ((f.2.sendAll (s.launchOf (s.tm 0)) f.2.fresh P.op P.scp f.1.accs).1 = []))
/-- An access at offset 256 of the slice. -/
def atSlot : MemAddr := ⟨1, 255, 256⟩
/-- The same place through the short record. -/
def atShort : MemAddr := ⟨2, 255, 256⟩

-- plain and ordered accesses; the tile accesses take units of 128 bytes
def goes (i : Instr) (right : Right) (size unit : Nat) (use : Use4) (op : FlightOp) (ord : BitVec 3) (offs : List Nat) : Bool :=
  issues (atSlice id) i atSlot right size unit { i, h := hd0, r := recordOf sliceRec, use, op, ord, scp := 1, offs }
def goesTile (i : Instr) (right : Right) (use : Use4) (op : FlightOp) : Bool :=
  issues (atSlice id) i atShort right (tileSize 34) 128
    { i, h := hd0, r := recordOf shortRec, use, op, ord := 0, scp := 1, offs := tileUnits 34, oob := unitOob (recordOf shortRec) } true
theorem witness_MemoryInstructionsIssue : every [
    goes (.ld hd0 0 6 atSlot 0 1) .read 4 4 .load (.load 0 6) 0 [0],
      goes (.ld hd0 24 6 atSlot 2 1) .read 8 8 .load (.load 24 6) 2 [0],
      goes (.st hd0 0 atSlot 4 3 1) .write 4 4 .store (.store 0) 3 [0],
      goes (.atom hd0 .add 1 6 atSlot 4 1 1) .atomic 4 4 .atomic (.atomic .add 1 (some 6)) 1 [0],
      goes (.red hd0 .add 1 atSlot 4 1 1) .atomic 4 4 .atomic (.atomic .add 1 none) 1 [0],
      goes (.cas hd0 0 6 atSlot 4 1 1 8) .atomic 4 4 .atomic (.cas 0 6) 1 [0],
      goes (.brload hd0 2 atSlot 0 1) .read 32 8 .load (.brload 2) 0 [0, 8, 16, 24],
      goesTile (.tld hd0 34 3 atShort 0 1) .read .load (.tld 34 3),
      goesTile (.tst hd0 34 atShort 3 0 1) .write .store (.tst 34 3),
      ((atSlice id).lockHits 0 0 (tileTy 3 34)).isEmpty, tstTagOk 34 (((atSlice id).tm 0).tile 3).tag] = true := by decide +kernel
-- in bounds at the last word, out of bounds past it, misaligned, and a right that is missing
theorem witness_RecordChecksAtIssue :
    let r := recordOf sliceRec
    let hits (r : Record) (imm : Int) : List Cause := (r.lane .read 4 4 255 imm 0 {}).hits.map (·.c)
    (r.pairOk 255 && decide (hits r 0xFFFC = []) && decide (hits r 0x10000 = [.bounds]) && decide (hits r (-4) = [.bounds]) && decide (hits r 2 = [.align])
      && decide (hits { r with perm := 6 } 0 = [.permission]) && (({ r with flags := 1 } : Record).lane .read 4 4 255 0x10000 0 {}).oob
      && readySolo (atSlice id) (.ld hd0 0 6 ⟨1, 255, 2⟩ 0 1)) = true := by decide +kernel

/-- An address of device memory that world 0 holds (log 6). -/
def base : Nat := 0x200000000
/-- A load of a word in flight from a place. -/
def loadFlight (p : Place) : Flight := { team := 0, sq := 0, core := 0, pc := 0x10000, op := .load 0 6, lanes := [{ ln := 0, va := 256, place := p }] }
/-- A write in flight to global memory. -/
def writeFlight (op : FlightOp) (key : Nat) : Flight :=
  { team := 0, sq := 0, core := 0, pc := 0x10000, op, lanes := [{ ln := 0, va := 0, place := .glob key, data := [1, 2, 3, 4], opb := 5 }] }
/-- A state with one operation in flight. -/
def flying (f : Flight) : State := { atSlice id with flights := [(0, f)] }
/-- Register 6 of lane 0 after a reply. -/
def replied (s : State) : Option VReg :=
  match exec (.memoryReply 0xFFFFFFFF false .ok) s with | .next t => some (((t.tm 0).lane 0 0).reg 6) | _ => none

-- a lane out of bounds, one of the slice, one of global memory
theorem witness_LoadReplyLands :
    let okay (p : Place) : Bool := let s := flying (loadFlight p)
      decide (s.flights.find s.who = some (loadFlight p)) && !(loadFlight p).writes && !s.earlierWrite s.who 0 p 4 && decide (tidOf 0 0 < (s.tm 0).threads.length)
        && decide (s.areqs.find s.who = none) && (s.linkFail (loadFlight p).hostKeys).isNone
    let two : Flight := { loadFlight (.glob base) with
      op := .load 33 8, lanes := [{ ln := 0, va := 256, place := .glob base }, { ln := 0, va := 264, place := .glob (base + 8) }] }
    let d := flying two
    let read (s : State) (k : Nat) := s.loadGlob 0 0 0 1 false k 8 false .ok
    let bad := { flying (loadFlight (.glob (hostKey 0x1000))) with ideBad := [hostKey 0x1000] }
    (okay .oob && okay (.slice 0 256 0) && okay (.glob base)
      && (match (flying (loadFlight (.slice 0 256 0))).sliceLoad 0 256 0 4 with | .ok bs => decide (bs = [0, 0, 0, 0]) | _ => false)
      && (match ((flying (loadFlight (.glob base))).loadGlob 0 0 0 1 false base 4 false .ok).1 with | .ok bs => decide (bs = [0, 0, 0, 0]) | _ => false)
      && decide (tyBytes 33 = 16) && decide (two.op.size = 8) && !d.earlierWrite 0 0 (.glob (base + 8)) 8
      && (match (read d base).1, (read (read d base).2 (base + 8)).1 with | .ok bs, .ok cs => decide (bs.length + cs.length = 16) | _, _ => false)
      && (bad.linkFail (loadFlight (.glob (hostKey 0x1000))).hostKeys).isSome) = true := by
  decide +kernel
/-- A flight of these lanes, all of the slice. -/
def unitsFlight (op : FlightOp) (n : Nat) : Flight :=
  { team := 0, sq := 0, core := 0, pc := 0x10000, op, lanes := (List.range n).map fun j => { ln := 0, va := 256, place := .slice 0 (256 + 8 * j) 0 } }
/-- An atomic that has performed at its home. -/
def doneFlight (op : FlightOp) : Flight :=
  { team := 0, sq := 0, core := 0, pc := 0x10000, op, lanes := [{ ln := 0, va := 256, place := .glob base, performed := true, old := 9 }] }
-- atomics that have performed; the units of a record and of a tile, all read
theorem witness_ReplyOfAtomicsRecordsAndTilesLands :
    let landed (f : Flight) : Bool := let s := flying f
      decide (s.flights.find s.who = some f) && decide (s.areqs.find s.who = none) && (s.linkFail f.hostKeys).isNone && (s.teams.find f.team).isSome
    let read (f : Flight) : Bool := let us := ((flying f).performUnits 0 f 0xFFFFFFFF false .ok).1
      landed f && !f.writes && us.all fun y => y.performed && !y.failed
    let rec_ := unitsFlight (.brload 3) 4
    let tile := unitsFlight (.tld 34 3) 2
    ([FlightOp.atomic .add 1 (some 6), .atomic .add 1 none, .cas 0 6].all (fun op => landed (doneFlight op)) && read rec_ && read tile
      && (((flying rec_).recordFails ((flying rec_).tm 0) 0 3).isEmpty) && ((flying tile).lockHits 0 0 (tileTy 3 34)).isEmpty) = true := by decide +kernel
theorem test_atomic_lands : [FlightOp.atomic .add 1 (some 6), .atomic .add 1 none, .cas 0 6].map (fun op => replied (flying (doneFlight op)))
    = [some (9, 1), some (0, 0), some (9, 0)] := by decide +kernel
-- R2: the byte at the lowest address is the least significant
theorem test_load : replied ((flying (loadFlight (.glob base))).poke [(base, 0x78), (base + 1, 0x56), (base + 3, 0x12)] |>.makeCheck base) = some (0x12005678, 0) := by decide +kernel
theorem witness_StoreWritesItsBytes :
    let f := writeFlight (.store 0) base
    let s := flying f
    (decide (s.flights.find s.who = some f) && f.writes && !s.earlierWrite s.who 0 (.glob base) 4
      && (match s.store (s.worldOf 0) (cellsAt base [1, 2, 3, 4]) .ok with | .ok t => decide (t.byte (base + 3) = 4) | _ => false)) = true := by decide +kernel
/-- A write in flight to the slice. -/
def sliceFlight (op : FlightOp) : Flight := { writeFlight op 0 with lanes := [{ ln := 0, va := 0, place := .slice 0 256 0, data := [1, 2, 3, 4], opb := 5 }] }
-- stores and atomics to a slice
theorem witness_SliceWrites :
    ([FlightOp.store 0, .atomic .add 1 (some 6), .atomic .add 1 none, .cas 0 6].all fun op => let s := flying (sliceFlight op)
      decide (s.flights.find s.who = some (sliceFlight op)) && !s.earlierWrite s.who 0 (.slice 0 256 0) op.size && decide (s.areqs.find s.who = none)
        && (s.teams.find 0).isSome && !s.sliceEcc 0 256 0 op.size && decide (tidOf 0 0 < (s.tm 0).threads.length)) = true := by decide +kernel
theorem test_slice_write : [FlightOp.store 0, .atomic .add 1 (some 6)].map (fun op => match exec (.memoryReply 0xFFFFFFFF false .ok) (flying (sliceFlight op)) with
    | .next t => ((t.tm 0).slice, ((t.tm 0).lane 0 0).reg 6) | _ => ([], (0, 0)))
    = [([(256, 1), (257, 2), (258, 3), (259, 4)], (0, 0)), ([(256, 5)], (0, 1))] := by decide +kernel
theorem witness_AtomicReadsAndWritesOnce :
    let okay (op : FlightOp) : Bool := let s := flying (writeFlight op base)
      (writeFlight op base).writes && isLocal base && !s.earlierWrite s.who 0 (.glob base) op.size
        && (match s.load (s.worldOf 0) base op.size .ok with | .ok bs => decide (bs.length = 4) | _ => false)
    (okay (.atomic .add 1 (some 6)) && okay (.cas 0 6)) = true := by decide +kernel
-- R332: the sum at the home, the old value kept for the reply
theorem test_atomic : (match exec (.homeSliceWrite 0 .ok) ((flying (writeFlight (.atomic .add 1 (some 6)) base)).poke [(base, 7)] |>.makeCheck base) with
    | .next t => some (t.byte base, t.flights.map fun f => f.2.lanes.map (·.old)) | _ => none) = some (12, [[7]]) := by decide +kernel
theorem test_atomic_operations : every [atomNew .min 1 0xFFFFFFFF 3 == 0xFFFFFFFF, atomNew .min 2 0xFFFFFFFF 3 == 3, atomNew .max 1 0xFFFFFFFF 3 == 3,
    atomNew .incw 2 5 5 == 0, atomNew .incw 2 4 5 == 5, atomNew .decw 2 0 5 == 5, atomNew .decw 2 3 5 == 2, atomNew .exch 0 1 2 == 2] = true := by decide +kernel


/-! ### Ordering, code, barriers and copies -/

/-- Eight bytes in memory with their check value. -/
def hold8 (s : State) (key v : Nat) : State := (s.poke (cellsAt key (toBytes 8 v))).makeCheck key
/-- Reset with page tables of ASID 0 that map the lowest GiB of virtual addresses to `base` (R155, R156). -/
def mapped : State :=
  let t := base + 0x100000
  let s := hold8 (hold8 (hold8 State.reset t (t + 0x1001)) (t + 0x1000) (t + 0x2001)) (t + 0x2000) (base + 0xF1)
  { s with roots := [(0, BitVec.ofNat 64 t)] }

/-- A record over 1 MiB of global memory at 0x200000 with all rights. -/
def globRec : BitVec 256 := BitVec.ofNat 256 (0x200000 + 0x100000 * 2 ^ 64 + 7 * 2 ^ 168)
/-- The small state with slice and global records, and with its page in the core's translation buffer. -/
def atGlobal (regs : List (BitVec 8 × Word)) (g : Team → Team := id) : State :=
  let s := atSlice (holding regs) fun t => g { t with recs := [(1, sliceRec), (2, shortRec), (3, globRec)] }
  let s := s.setCore 0 { tlb := [{ asid := 0, page := 1, log := 21, leaf := 0x200000071 }] }
  { s with launches := s.launches.update 0 fun l => { l with hdr := { l.hdr with producers := 1 } } }

-- an acquire, a release whose earlier writes are performed, a valid and an invalid record
theorem witness_FencesHintsAndRecords :
    let s := atGlobal []
    let bad := atGlobal [(8, 0xFFFFFFFF)]
    let f : Instr := .fence hd0 3 3
    let w := s.enterAmid solo f []
    let held := { s with flights := [(0, { team := 9, sq := 0, core := 0, pc := 0, op := .store 0, lanes := [{ ln := 0, va := 0, place := .glob 0x200000000 }] })] }
    (readySolo s (.fence hd0 2 3) && readySolo s f && readySolo s (.fence hd0 4 2) && !s.anyLoads solo && decide (s.inAmid solo = none) && (w.pumpLanes solo 3).1
      && (w.pumpLanes solo 3).2.1.isEmpty && readySolo held f && !held.anyLoads solo && decide (held.inAmid solo = none) && !((held.enterAmid solo f []).pumpLanes solo 3).1
      && decide (w.slot f = some solo) && ((w.tm 0).squad 0).amid?.isSome && decide (0 < (w.tm 0).threads.length)
      && readySolo s (.prefetch hd0 ⟨3, 255, 0⟩ 0 1) && readySolo s (.cctl hd0 ⟨3, 255, 0⟩ 0 3) && readySolo s (.brset hd0 2 4) && readySolo s (.brsetToRegisters hd0 4 3)
      && (s.recordFails (s.tm 0) (((s.tm 0).lane 0 0).record 4) 2).isEmpty && !(bad.recordFails (bad.tm 0) (((bad.tm 0).lane 0 0).record 4) 2).isEmpty) = true := by decide +kernel
theorem test_brset : (match exec (.brset hd0 2 4) (atGlobal [(8, 0xFFFFFFFF)]) with
    | .next t => some (((t.tm 0).squad 0).causes, (t.tm 0).brec 2) | _ => none) = some (0x2#32, shortRec) := by decide +kernel
-- a region of one line
theorem witness_CodeInstructionsComplete :
    let s := atGlobal [(6, 128)]
    let ad : MemAddr := ⟨3, 255, 0⟩
    let r (right : Right) (meas : Bool) : Span := regionOf (recordOf globRec) right meas ad 128 0 ((s.tm 0).lane 0 0)
    let okay (right : Right) (us : List Use4) (meas : Bool) : Bool :=
      let p := s.piecesOf 0 (r right meas) us meas
      (r right meas).hits.isEmpty && p.1.absent.isEmpty && p.1.fail.isNone && decide (p.1.keys = [(base, 128)])
        && let w := p.2.enterAmid solo (.publish hd0 ad 6 0 3) [{ ln := 0, start := (r right meas).start, len := (r right meas).len, keys := p.1.keys }]
          (w.pumpLanes solo 3).1 && (w.pumpLanes solo 3).2.1.isEmpty
    (decide (s.inAmid solo = none) && readySolo s (.publish hd0 ad 6 0 3) && readySolo s (.retract hd0 ad 6 0 3) && readySolo s (.adopt hd0 ad 6 0 3) && okay .read [.fetch] false && okay .write [.fetch, .store] false
      && (r .read false).hits.isEmpty) = true := by decide +kernel
/-- The small state with a page that may be fetched and not stored to. -/
def atCode : State := (atGlobal [(6, 128)]).setCore 0 { tlb := [{ asid := 0, page := 1, log := 21, leaf := 0x200000051 }] }
theorem witness_CodeInstructionsComplete_measured :
    let s := atCode
    let ad : MemAddr := ⟨3, 255, 0⟩
    let g : Span := regionOf (recordOf globRec) .read true ad 128 0 ((s.tm 0).lane 0 0)
    let p := s.piecesOf 0 g [.fetch] true
    let c : CodeSpan := { ln := 0, start := g.start, len := g.len, keys := p.1.keys }
    let s2 := ((p.2.enterAmid solo (.publishM hd0 8 ad 6 0 3) [c]).pumpLanes solo 3)
    let asked := s2.2.2.codeAsk solo [c]
    (decide (s.inAmid solo = none) && readySolo s (.publishM hd0 8 ad 6 0 3) && g.hits.isEmpty && p.1.absent.isEmpty && p.1.fail.isNone && s2.1 && s2.2.1.isEmpty && asked.1
      && (match (asked.2.leaveAmid solo).publishMeasured solo 8 c with
        | .ok t => decide ((t.launch 0).table.length = 1) | .error _ => false)) = true := by decide +kernel

/-- The small state with a barrier. -/
def withBar (b : Barrier) (n : Nat := 2) : State := at1 (holding [(4, 1)]) fun t => t.setBar n b
def oneBar : Barrier := { valid := true, phase := false, pending := 0, expected := 1, arrived := 0 }

-- an initialization, a first of two arrivals, the last arrival, a wait for a phase that has passed
theorem witness_BarrierInstructionsComplete :
    let s := withBar oneBar
    let two := withBar { oneBar with expected := 2 }
    let th := (s.tm 0).lane 0 0
    (readySolo s (.barinit hd0 3 4) && readySolo s (.barinitImm hd0 3 32) && !(s.tm 0).barBusy 3 && decide ((th.r32 4).toNat ≤ 32 * (s.tm 0).squads.length)
      && readySolo s (.barinval hd0 2) && ((s.tm 0).bar 2).valid && !(s.tm 0).barBusy 2 && readySolo s (.barquery hd0 6 2) && readySolo two (.bararrive hd0 6 2) && !two.anyLoads solo
      && readySolo s (.barsync hd0 2) && decide (2 < (s.tm 0).bars.length) && decide (th.pc = solo.pc) && !th.exited && decide (th.wait = .none) && !s.anyLoads solo
      && readySolo (withBar oneBar 0) (.teamsync hd0) && readySolo s (.barwait hd0 2 4) && (th.r32 4).getLsbD 0 && !s.inHandler 0) = true := by decide +kernel
-- R196 to R198: the phase turns; a first arrival waits at BARSYNC
theorem test_barriers : every [
    (match exec (.barsync hd0 2) (withBar oneBar) with | .next t => some ((t.tm 0).bar 2, ((t.tm 0).lane 0 0).pc) | _ => none) == some ({ oneBar with phase := true }, 0x10008),
    (match exec (.barsync hd0 2) (withBar { oneBar with expected := 2 }) with | .next t => some (((t.tm 0).bar 2).arrived, ((t.tm 0).lane 0 0).pc) | _ => none) == some (1, 0x10000),
    (after (.bararrive hd0 6 2) (withBar { oneBar with phase := true })).map (fun th => th.reg 6) == some (1, 0),
    (after (.barquery hd0 6 2) (withBar { oneBar with pending := 3, arrived := 5 })).map (fun th => th.reg 6) == some (BitVec.ofNat 32 (2 ^ 31 + 3 * 2 ^ 22 + 2 ^ 11 + 5), 0)] = true := by
  decide +kernel
theorem witness_PhaseCompletesWhenAllArrive :
    let t := (withBar oneBar).tm 0
    (decide (2 < t.bars.length) && decide (t.heldWait = .none) && decide ((t.bar 2).arrived + 1 = (t.bar 2).expected)) = true := by decide +kernel

/-- Operands of a copy from slice offset 0 to slice offset 1024. -/
def copyK (ord : Bool := false) : CopyArgs := ⟨5, 1, 1, 255, 255, 1024, 0, 8, ord⟩
theorem witness_CopiesEnterTheJournal :
    let s := atGlobal [(8, 32), (9, 2), (10, 32), (11, 64)] fun t => t.setBar 2 { oneBar with expected := 2 }
    let okay (i : Instr) (k : CopyArgs) (b : Option Nat) : Bool := readySolo s i && (s.copyHits solo i k b).isEmpty
    let g : CopyArgs := ⟨5, 1, 3, 255, 255, 1024, 0, 8, true⟩
    let p : CopyArgs := ⟨5, 3, 1, 255, 255, 0, 0, 8, false⟩
    (okay (.copy hd0 (copyK true) ⟨true, 2⟩) (copyK true) (some 2) && okay (.copy2d hd0 copyK ⟨false, 0⟩) copyK none && okay (.copyg hd0 g ⟨false, 0⟩) g none
      && okay (.copyrem hd0 p 3 3 1) p none && decide (((s.tm 0).bar 2).pending + 1 ≤ 128) && decide (2 < (s.tm 0).bars.length)) = true := by decide +kernel
/-- A copy of two units within the slice. -/
def slideCopy (started : Bool) : Copy :=
  { team := 0, tid := 0, core := 0, pc := 0x10000, vS := 5, kind := .linear, src := ⟨some 0, 0⟩, dst := ⟨some 0, 1024⟩, units := 2, bar := none, started }
def copying (c : Copy) : State := { atSlice id fun t => { t with slice := [(0, 7)] } with copies := [(0, c)] }
-- a copy that may start, a unit of a started one, and one whose units are all handled
theorem witness_CopiesMoveAndComplete :
    let s := copying (slideCopy true)
    let ended := { slideCopy true with handled := [1, 0], written := 2 }
    ((copying (slideCopy false)).copyReady 0 (slideCopy false) && !(slideCopy false).overlap && s.copyReady 0 (slideCopy true) && !s.copyHeld (slideCopy true) && decide ((slideCopy true).srcAt 0 = some 0)
      && (match s.sliceLoad 0 0 0 16 with | .ok bs => decide (bs.headD 0 = 7) | _ => false) && (s.teams.find 0).isSome && ended.over && decide (0 < (s.tm 0).threads.length)) = true := by
  decide +kernel
/-- The same with page tables. -/
def copyingFar (c : Copy) : State := { copying c with mem := mapped.mem, lines := mapped.lines, roots := mapped.roots }
/-- Copies to and from global memory, and one that puts with a counter. -/
def putCopy : Copy := { slideCopy true with dst := ⟨none, 0x40000⟩ }
def takeCopy : Copy := { slideCopy true with src := ⟨none, 0x40000⟩ }
def countCopy : Copy := { putCopy with kind := .put 3 0x50000, handled := [1, 0], written := 2 }
def gatherCopy (started : Bool) (indices : List Nat) : Copy := { slideCopy started with kind := .gather 16 1 512 16 0 64 0, units := 1, indices }
-- a gather to start, and one whose index lies out of its window
theorem witness_CopiesGather :
    let c := gatherCopy false []
    let s := copying c
    let bad := gatherCopy true [9]
    (s.copyReady 0 c && !s.copyHeld c && (match s.sliceLoad 0 512 0 4 with | .ok bs => !({ c with indices := [ofBytes bs] } : Copy).overlap | _ => false)
      && (copying bad).copyReady 0 bad && decide (bad.srcAt 0 = none)) = true := by decide +kernel
-- units to and from global memory, and from a poisoned line; a counter
theorem witness_CopiesGlobal :
    let s := copyingFar putCopy
    let t := copyingFar takeCopy
    let p := t.setLine (base + 0x40000) { t.line (base + 0x40000) with poison := true }
    let f := s.copyFetch 0 putCopy 0
    let c := copyingFar countCopy
    let r := c.startRelease none 0 3
    let r := r.2.pumpRelease r.1
    every [s.copyReady 0 putCopy, (match f.1 with | .bytes bs => decide (bs.length = 16) | _ => false),
      (match f.2.agentXlat (copyAgent 0) 0 0 0x40000 .store with | (.ok k, s2) => decide (k = base + 0x40000) && (match s2.store 0 (cellsAt k [7, 0, 0, 0]) with | .ok _ => true | _ => false) | _ => false),
      (match t.copyFetch 0 takeCopy 0 with | (.bytes bs, _) => decide (bs.length = 16) | _ => false),
      (match p.copyFetch 0 takeCopy 0 with | (.err e, s1) => decide (e = 3) && decide ((s1.rawUnit 0 takeCopy 0).length = 16) | _ => false),
      countCopy.over, !c.copyHeld countCopy, r.1.done, !r.1.lost,
      (match ({ r.2 with copies := r.2.copies.put 0 { countCopy with rel := some r.1 } } : State).agentAdd (copyAgent 0) 0 0 0x50000 1 true 3 with
        | (.ok (), s3) => decide (s3.teams = c.teams) | _ => false),
      (match c.agentXlat (copyAgent 0) 0 0 0x50000 .atomic with | (.ok k, s2) => isLocal k && (match s2.load 0 k 8 .ok with | .ok _ => true | _ => false) | _ => false)] = true := by decide +kernel
theorem test_copies : every [
    (match exec (.copyTransfer 0 .ok) (copying (slideCopy true)) with | .next t => some ((t.tm 0).slice, t.copies.map fun c => (c.2.written, c.2.part)) | _ => none)
      == some ([(0, 7), (1024, 7)], [(0, [(0, 1)])]),
    (match exec (.copyTransfer 0 .ok) (copyingFar { putCopy with part := [(0, 3)] }) with | .next t => some (t.byte (base + 0x4000C), t.copies.map fun c => (c.2.written, c.2.part)) | _ => none)
      == some (0, [(1, [])]),
    (match exec .copyComplete (copyingFar countCopy) with | .next t => some (t.byte (base + 0x50000), ((t.tm 0).lane 0 0).reg 5) | _ => none) == some (1, (0x80000002, 0)),
    (match exec .copyComplete (copying { slideCopy true with handled := [1, 0], written := 2 }) with
      | .next t => some (((t.tm 0).lane 0 0).reg 5, t.copies.length) | _ => none) == some ((0x80000002, 0), 0)] = true := by decide +kernel


/-! ### Tiles and the matrix engine (chapters 12 and 19) -/

/-- The small state with a tile of 16-bit ones in tile 2 (R345). -/
def atTile (regs : List (BitVec 8 × Word)) : State :=
  at1 (holding regs) fun t => t.setTile 2 { data := [(0, 1), (2, 2)], tag := 4 }

-- one-tile and two-tile forms; a wide and a narrow destination of TCVT; no lane active
theorem witness_TileInstructionsComplete :
    let s := atTile []
    let okay (i : Instr) (ok : Team → Bool) : Bool := readySolo s i && (s.tileHits i ok solo 0).isEmpty
    let acc (ty : BitVec 6) : Tag → Bool := fun g => g == 0 || g == tyTag ty
    (okay (.tzero hd0 0 3) (fun _ => true) && okay (.tzero hd0 3 4) (fun _ => true) && okay (.tmov hd0 3 2) (fun _ => true)
      && okay (.ttrans hd0 3 2) (fun t => decide ((t.tile 2).tag ∈ [(0 : Tag), 4, 5])) && okay (.tadd hd0 4 3 2 2) (fun t => t.tagsIn 2 1 (acc 4))
      && okay (.tadd hd0 3 4 6 8) (fun t => t.tagsIn 6 2 (acc 3) && t.tagsIn 8 2 (acc 3)) && okay (.tscale hd0 3 4) (fun _ => true)
      && okay (.tcvt hd0 0 10 4 3 4 0 0) (fun t => t.tagsIn 3 1 (codeTagOk 4)) && okay (.tcvt hd0 5 4 3 2 8 0 9) (fun t => t.tagsIn 2 1 (codeTagOk 8))
      && !codeInvalid (s.tm 0) 4 && !codeInvalid (s.tm 0) 10 && !codeInvalid (s.tm 0) 8) = true := by decide +kernel
-- R355: the first and the last word of a tile and its scales; an offset between words, one beyond the tile, and one that is both
theorem witness_TileBytesMove :
    let s := atTile []
    let e := atTile [(4, 0x21FC)]
    (readySolo s (.tgetv hd0 0 6 2 4) && readySolo e (.tgetv hd0 0 6 2 4) && readySolo e (.tsetv hd0 0 2 8 4) && readySolo s (.tsetv hd0 1 2 8 4) && (s.lockHits 0 0 [(2, 1)]).isEmpty
      && decide ((((e.tm 0).lane 0 0).r32 4).toNat ≤ 0x21FC) && ((s.tm 0).lane 0 0).tagged 1 8
      && [2, 0x2200, 0x2202].all fun (o : Word) =>
        let b := atTile [(4, o)]
        readySolo b (.tgetv hd0 0 6 2 4) && readySolo b (.tsetv hd0 1 2 8 4) && (b.lockHits 0 0 [(2, 1)]).isEmpty && ((b.tm 0).lane 0 0).tagged 1 8
          && decide (((b.tm 0).lane 0 0).r32 4 = o) && decide (offsetHits 0 o ≠ [])) = true := by decide +kernel
theorem test_tile_words : every [
    (after (.tgetv hd0 0 6 2 4) (atTile [])).map (fun th => th.reg 6) == some (0x00020001, 0),
    (after (.tgetv hd0 0 6 2 4) (atTile [(4, 0x21FC)])).map (fun th => th.reg 6) == some (0x7F7F7F7F, 0),
    (match exec (.tsetv hd0 0 2 8 4) (atTile [(4, 4), (8, 0x01020304)]) with | .next t => some ((t.tm 0).tile 2).data | _ => none)
      == some [(0, 1), (2, 2), (4, 4), (5, 3), (6, 2), (7, 1)],
    (match exec (.tsetv hd0 0 2 8 4) (atTile [(4, 0x2200)]) with | .next t => some ((t.tm 0).squad 0).causes | _ => none) == some 0x40,
    (match exec (.tmov hd0 3 2) (atTile []) with | .next t => some ((t.tm 0).tile 3) | _ => none) == some { data := [(0, 1), (2, 2)], tag := 4 },
    (match exec (.tscale hd0 2 4) (atTile [(4, 127)]) with | .next t => some ((t.tm 0).tile 2).scales | _ => none) == some []] = true := by decide +kernel

/-- The operation of an `MMA` of E4M3 weights and activations into f16. -/
def mmaOp : EngineOp := .mma 0 0x10000 8 1 0 0 0 1 false 0 false
/-- The engine of core 0 as it is given, owned by the small team. -/
def atEngine (e : Engine) : State :=
  let s := atGlobal []
  { s.setCore 0 { s.core 0 with engine := { e with owner := some 0 } } with who := 0 }
-- an engine of nobody, of the team, of another team; no lane active; room for one more
theorem witness_EngineAccepts :
    let s := atEngine {}
    let free := atGlobal []
    let other := (free.setCore 0 { free.core 0 with engine := { owner := some 7 } })
    let busy := atEngine { queue := List.replicate 7 (.mswap 0) }
    let ad : MemAddr := ⟨3, 255, 0⟩
    let mma : Instr := .mma hd0 0 8 1 0 0 1 false
    let load : Instr := .mloadw hd0 ad 0 false 0
    let va := ((recordOf globRec).lane .read imageSize 128 255 0 0 ((s.tm 0).lane 0 0)).addr
    let p := (free.setEngine 0 { owner := some 0 }).imagePages 0 0 0 va
    ([.mswap hd0, mma, load].all (fun i => readySolo s i && readySolo free i && readySolo other i)
      && decide ((free.core 0).engine = {}) && decide ((other.core 0).engine.owner = some 7) && decide ((busy.core 0).engine.queue.length < 8) && readySolo busy (.mswap hd0)
      && ((s.tm 0).mmaHits 0 0 1 0 1 0).isEmpty && (s.mloadwHits solo ad 0 false 0 0).isEmpty && decide (p.1 = [base, base + 0x10000]) && p.2.1.isEmpty && p.2.2.1.isNone
      && !p.2.2.2.storesOut 0 0 0
      && decide (free.slot (.mswap ⟨3, false, 0, false⟩) = some { solo with act := [] })) = true := by decide +kernel
-- one line of a fill, an exchange of planes, a start with and without matching formats, and a drain
theorem witness_EngineRuns :
    let f : Fill := { sq := 0, pc := 0x10000, ing := none, va := 0x20FF80, keys := [base], fmt := 0, desc := 0 }
    let fill := atEngine { fill := some f }
    let swap := atEngine { queue := [.mswap 0] }
    let same := atEngine { queue := [mmaOp], active := { fmt := 0, src := .memory } }
    let differ := atEngine { queue := [mmaOp] }
    let st : Started := { op := mmaOp, ta := {}, tc := {}, tc1 := {}, plane := {} }
    let run := atEngine { started := some st }
    (decide ((fill.core 0).engine.fill = some f) && (match ((fill.answerUnit (agentNum .fill 0) 0 .ok).fillImage (agentNum .fill 0) 0 (fill.launchOf (fill.tm 0)) f).1 with | some (.ok bss) => decide (bss.length = 1) | _ => false)
      && fill.fillReady f && decide ((run.core 0).engine.owner = some 0)
      && decide ((swap.core 0).engine.queue = [.mswap 0]) && decide ((swap.core 0).engine.started = none) && decide ((same.core 0).engine.active.fmt = 0) && !same.tileEcc 0 mmaOp && !same.ecc.contains (.plane 0 false)
      && decide ((differ.core 0).engine.active.fmt ≠ 0) && decide ((run.core 0).engine.started = some st) && st.view.isSome) = true := by decide +kernel
theorem test_engine : every [
    (match exec .mswapExecute (atEngine { queue := [.mswap 0], shadow := { fmt := 3 } }) with | .next t => some ((t.core 0).engine.active.fmt, (t.core 0).engine.queue.length) | _ => none)
      == some (3, 0),
    (match exec .mmaStart (atEngine { queue := [mmaOp] }) with | .next t => some ((t.tm 0).squad 0).causes | _ => none) == some 0x20] = true := by decide +kernel
-- no suspect result; one with a single element named; one with none; one whose plane is lost
theorem witness_SuspectResultResolves :
    let y : Suspect := { op := mmaOp, out := [], rows := 4, cols := 32 }
    let none_ := atEngine {}
    let one := atEngine { suspect := some y, active := { fmt := 0, src := .memory } }
    let many := atEngine { suspect := some { y with rows := 5 }, active := { fmt := 0, src := .memory } }
    let lost := atEngine { suspect := some { y with lost := true } }
    let l : List Instr := [.mlocate hd0 8, .mcorrect hd0 8, .mretry hd0 8, .mdiscard hd0, .mstat hd0 8]
    (l.all (fun i => readySolo none_ i && readySolo one i && readySolo many i && readySolo lost i) && (none_.suspectOf 0).isNone && decide (one.suspectOf 0 = some y)
      && decide (y.single = some (2, 5)) && ({ y with rows := 5 } : Suspect).single.isNone && !one.planeLost 0 y && (one.start 0 0 mmaOp).view.isSome
      && (match lost.suspectOf 0 with | some z => lost.planeLost 0 z | none => false) && [none_, one, many, lost].all (fun z => !z.suspectEcc 0 && !z.resolveEcc 0 (fun _ => true) && !z.resolveEcc 0 (fun y => y.single.isSome))
      && decide (one.slot (.mdiscard ⟨3, false, 0, false⟩) = some { solo with act := [] })) = true := by decide +kernel
-- R229, R230: what is named, and 3 where nothing is
theorem test_suspect : every [
    (after (.mlocate hd0 8) (atEngine { suspect := some { op := mmaOp, out := [], rows := 4, cols := 32 } })).map (fun th => ((th.reg 8).1, (th.reg 9).1)) == some (0x10004, 32),
    (after (.mretry hd0 8) (atEngine {})).map (fun th => (th.reg 8).1) == some 3] = true := by decide +kernel


/-! ### The assay of an operation on zeros (chapter 12, R225, R237) -/

/-- A positive zero, at some exponent. -/
def PosZero (x : XNum) : Prop := ∃ e, x = .fin false 0 e
/-- A view all of whose operands are positive zeros. -/
structure Zeros (v : MmaView) : Prop where
  a : ∀ k, PosZero (xat v.a k)
  w : ∀ k, PosZero (xat v.w k)
  c : ∀ k, PosZero (xat v.c k)

theorem posZero_mul {x y : XNum} (hx : PosZero x) (hy : PosZero y) : PosZero (Float.mul x y).1 := by
  obtain ⟨a, rfl⟩ := hx; obtain ⟨b, rfl⟩ := hy
  exact ⟨a + b, by simp [Float.mul]⟩
theorem posZero_prod (i : Bool) {x y : XNum} (hx : PosZero x) (hy : PosZero y) : PosZero (Float.prod i x y).1 := by
  obtain ⟨e, h⟩ := posZero_mul hx hy
  by_cases c : (i && Float.isZero (Float.mul x y).1) = true
  · exact ⟨0, by simp [Float.prod, c]⟩
  · exact ⟨e, by simpa [Float.prod, c] using h⟩
/-- The step of an exact sum that has a positive zero among its terms. -/
def addTerm (p : XNum × Float.Flags) (t : XNum) : XNum × Float.Flags :=
  (if Float.isZero (Float.add false p.1 t).1 then .fin false 0 0 else (Float.add false p.1 t).1, p.2 ||| (Float.add false p.1 t).2)
theorem sum_posZero {c : XNum} {ts : List XNum} (h : PosZero c) : Float.sum c ts = ts.foldl addTerm (.fin false 0 0, 0) := by
  obtain ⟨e, rfl⟩ := h
  simp [Float.sum, Float.isNeg, Float.isZero]
  rfl
theorem foldl_keep {β γ : Type} (f : β → γ → β) (s : β) {ts : List γ} (h : ∀ t ∈ ts, f s t = s) : ts.foldl f s = s := by
  induction ts with
  | nil => rfl
  | cons t ts ih => rw [List.foldl_cons, h t (by simp)]; exact ih fun u hu => h u (by simp [hu])
theorem sum_zeros {c : XNum} {ts : List XNum} (h : PosZero c) (ht : ∀ t ∈ ts, PosZero t) : (Float.sum c ts).1 = .fin false 0 0 := by
  rw [sum_posZero h, foldl_keep]
  intro t m
  obtain ⟨e, rfl⟩ := ht t m
  simp [addTerm, Float.add, Float.addFin, Float.scaled, Float.isZero]
theorem exactSum_zeros {ts : List XNum} (ht : ∀ t ∈ ts, PosZero t) : exactSum ts = .fin false 0 0 := sum_zeros ⟨0, rfl⟩ ht

theorem elem_zeros {v : MmaView} (z : Zeros v) (i j : Nat) : v.elem (accFloat 1) i j = 0 := by
  have h : (Float.sum (xat v.c (256 * i + j)) ((List.range v.k).map fun k =>
      (Float.prod v.ints (xat v.a (v.k * i + k)) (xat v.w (256 * k + j))).1)).1 = .fin false 0 0 :=
    sum_zeros (z.c _) (by simp only [List.mem_map]; rintro _ ⟨k, -, rfl⟩; exact posZero_prod _ (z.a _) (z.w _))
  simp only [MmaView.elem, h]
  decide
theorem out_zeros {v : MmaView} (z : Zeros v) : v.out (accFloat 1) = List.replicate 4096 0 :=
  List.eq_replicate_iff.2 ⟨by simp [MmaView.out], by simp only [MmaView.out, List.mem_map]; rintro _ ⟨x, -, rfl⟩; exact elem_zeros z _ _⟩
theorem rowRef_zeros {v : MmaView} (z : Zeros v) (i : Nat) : exactSum (((List.range 256).map fun j => xat v.c (256 * i + j))
    ++ (List.range v.k).map fun k => (Float.mul (xat v.a (v.k * i + k)) (xat v.sums.1 k)).1) = .fin false 0 0 := by
  have s : ∀ k, PosZero (xat v.sums.1 k) := fun k => by
    simp only [xat, MmaView.sums, Array.getD_eq_getD_getElem?, List.getElem?_toArray, List.getElem?_map]
    rcases (List.range v.k)[k]? with _ | m
    · exact ⟨0, rfl⟩
    · exact ⟨0, by
        rw [Option.map_some, Option.getD_some]
        exact exactSum_zeros fun t ht => by
          obtain ⟨j, -, rfl⟩ := List.mem_map.1 ht
          simpa [xat] using z.w _⟩
  apply exactSum_zeros
  simp only [List.mem_append, List.mem_map]
  rintro t (⟨j, -, rfl⟩ | ⟨k, -, rfl⟩)
  · exact z.c _
  · exact posZero_mul (z.a _) (s _)
theorem colRef_zeros {v : MmaView} (z : Zeros v) (j : Nat) : exactSum (((List.range 16).map fun i => xat v.c (256 * i + j))
    ++ (List.range v.k).map fun k => (Float.mul (xat v.sums.2 k) (xat v.w (256 * k + j))).1) = .fin false 0 0 := by
  have s : ∀ k, PosZero (xat v.sums.2 k) := fun k => by
    simp only [xat, MmaView.sums, Array.getD_eq_getD_getElem?, List.getElem?_toArray, List.getElem?_map]
    rcases (List.range v.k)[k]? with _ | m
    · exact ⟨0, rfl⟩
    · exact ⟨0, by
        rw [Option.map_some, Option.getD_some]
        exact exactSum_zeros fun t ht => by
          obtain ⟨j, -, rfl⟩ := List.mem_map.1 ht
          simpa [xat] using z.a _⟩
  apply exactSum_zeros
  simp only [List.mem_append, List.mem_map]
  rintro t (⟨j, -, rfl⟩ | ⟨k, -, rfl⟩)
  · exact z.c _
  · exact posZero_mul (s _) (z.w _)
/-- The zero of an accumulator, and the element 1.5 that an injection makes of one. -/
def zeroElem : XNum := (accFloat 1).decode 0
def badElem : XNum := (accFloat 1).decode 0x3FC0
theorem assay_passes (n : Nat) : assayBad (accFloat 1) 256 (List.replicate n zeroElem) (.fin false 0 0) = false
    ∧ assayBad (accFloat 1) 16 (List.replicate n zeroElem) (.fin false 0 0) = false := by
  have h : exactSum (List.replicate n zeroElem) = .fin false 0 0 :=
    exactSum_zeros fun t m => by rw [(List.mem_replicate.1 m).2]; exact ⟨-133, by decide⟩
  have m : (List.replicate n zeroElem).foldl (fun m x => if Float.lt m (absX x) then absX x else m) (.fin false 0 0) = .fin false 0 0 :=
    foldl_keep _ _ fun t m => by rw [(List.mem_replicate.1 m).2]; decide
  constructor <;> · simp only [assayBad, h, m]; split <;> first | rfl | decide
theorem assay_fails : assayBad (accFloat 1) 256 (badElem :: List.replicate 255 zeroElem) (.fin false 0 0) = true := by
  have h : exactSum (badElem :: List.replicate 255 zeroElem) = .fin false (192 * 2 ^ 126) (-133) := by
    rw [exactSum, sum_posZero ⟨0, rfl⟩, show List.replicate 255 zeroElem = zeroElem :: List.replicate 254 zeroElem from rfl, List.foldl_cons, List.foldl_cons,
      show addTerm (addTerm (.fin false 0 0, 0) badElem) zeroElem = (.fin false (192 * 2 ^ 126) (-133), 0) by decide +kernel, foldl_keep]
    intro t m
    rw [(List.mem_replicate.1 m).2]; decide +kernel
  have m : (badElem :: List.replicate 255 zeroElem).foldl (fun m x => if Float.lt m (absX x) then absX x else m) (.fin false 0 0) = badElem := by
    rw [List.foldl_cons, show (if Float.lt (.fin false 0 0) (absX badElem) then absX badElem else .fin false 0 0) = badElem by decide +kernel, foldl_keep]
    intro t m
    rw [(List.mem_replicate.1 m).2]; decide +kernel
  simp only [assayBad, h, m]
  decide +kernel
theorem keeps {n : Nat} (p : Nat → Bool) (l : List Nat) {w : BitVec n} (h : w ≠ 0) : l.foldl (fun w i => if p i then w ||| (1#n <<< i) else w) w ≠ 0 := by
  induction l generalizing w with
  | nil => exact h
  | cons i l ih =>
    rw [List.foldl_cons]
    apply ih
    split
    · intro z
      apply h
      have := BitVec.or_eq_zero_iff.1 z
      exact this.1
    · exact h

/-- Every element of a result is zero but the first. -/
def badOut : List Nat := 0x3FC0 :: List.replicate 4095 0
theorem at_zeros (n k : Nat) : (List.replicate n 0).toArray.getD k 0 = 0 := by
  simp only [Array.getD_eq_getD_getElem?, List.getElem?_toArray, List.getElem?_replicate]
  split <;> rfl
theorem at_badOut (j : Nat) : badOut.toArray.getD (256 * 0 + (j + 1)) 0 = 0 := by
  have h := at_zeros 4095 j
  simp only [Array.getD_eq_getD_getElem?, List.getElem?_toArray] at h ⊢
  rw [badOut, show 256 * 0 + (j + 1) = j + 1 by omega, List.getElem?_cons_succ]
  exact h
theorem first_badOut : badOut.toArray.getD (256 * 0 + 0) 0 = 0x3FC0 := by
  simp only [Array.getD_eq_getD_getElem?, List.getElem?_toArray]
  rw [badOut, List.getElem?_cons_zero, Option.getD_some]
theorem map_range_const {α : Type} (n : Nat) (x : α) : ((List.range n).map fun _ => x) = List.replicate n x := by
  rw [List.map_const', List.length_range]
theorem row_zeros {v : MmaView} (z : Zeros v) (i : Nat) :
    v.rowBad (accFloat 1) 256 v.sums.1 (List.replicate 4096 0).toArray i = false := by
  simp only [MmaView.rowBad, rowRef_zeros z, at_zeros]
  rw [map_range_const]
  exact (assay_passes 256).1
theorem col_zeros {v : MmaView} (z : Zeros v) (j : Nat) :
    v.colBad (accFloat 1) 16 v.sums.2 (List.replicate 4096 0).toArray j = false := by
  simp only [MmaView.colBad, colRef_zeros z, at_zeros]
  rw [map_range_const]
  exact (assay_passes 16).2
theorem row_bad {v : MmaView} (z : Zeros v) : v.rowBad (accFloat 1) 256 v.sums.1 badOut.toArray 0 = true := by
  simp only [MmaView.rowBad, rowRef_zeros z]
  have t : (List.range 255).map ((fun j => (accFloat 1).decode (badOut.toArray.getD (256 * 0 + j) 0)) ∘ Nat.succ) = List.replicate 255 zeroElem :=
    (List.map_congr_left fun j _ => congrArg (accFloat 1).decode (at_badOut j)).trans (map_range_const 255 zeroElem)
  rw [List.range_succ_eq_map, List.map_cons, List.map_map, t, first_badOut]
  exact assay_fails
theorem assay_zeros {v : MmaView} (z : Zeros v) : v.assay (accFloat 1) 256 16 (v.out (accFloat 1)) = (0, 0) := by
  simp only [MmaView.assay, out_zeros z, row_zeros z, col_zeros z, Bool.false_eq_true, if_false]
  rw [foldl_keep _ _ fun _ _ => rfl, foldl_keep _ _ fun _ _ => rfl]
theorem assay_bad {v : MmaView} (z : Zeros v) : v.assay (accFloat 1) 256 16 badOut ≠ (0, 0) := by
  intro h
  have h1 := congrArg Prod.fst h
  simp only [MmaView.assay] at h1
  rw [show List.range 16 = 0 :: (List.range 15).map (· + 1) from by decide, List.foldl_cons, if_pos (row_bad z)] at h1
  exact keeps (v.rowBad (accFloat 1) 256 v.sums.1 badOut.toArray) _ (by decide) h1
/-- An operation started on empty tiles and an empty plane. -/
def zeroStart : Started := { op := mmaOp, ta := {}, tc := {}, tc1 := {}, plane := {} }
theorem dense_nil {α : Type} (d : α) (a n : Nat) : Map.dense d a n [] = List.replicate n d := by cases n <;> rfl
theorem at_bytes (n k : Nat) : (List.replicate n (0 : Byte)).toArray.getD k 0 = 0 := by
  simp only [Array.getD_eq_getD_getElem?, List.getElem?_toArray, List.getElem?_replicate]
  split <;> rfl
theorem at_scales (n k : Nat) : (List.replicate n (127 : Byte)).toArray.getD k 127 = 127 := by
  simp only [Array.getD_eq_getD_getElem?, List.getElem?_toArray, List.getElem?_replicate]
  split <;> rfl
theorem posZero_at {f : Nat → XNum} (h : ∀ k, PosZero (f k)) (n k : Nat) : PosZero (xat ((List.range n).map f).toArray k) := by
  simp only [xat, Array.getD_eq_getD_getElem?, List.getElem?_toArray, List.getElem?_map]
  rcases (List.range n)[k]? with _ | m
  · exact ⟨0, rfl⟩
  · exact h m
theorem zeroStart_zeros : ∃ v, zeroStart.view = some v ∧ Zeros v := by
  refine ⟨_, rfl, fun n => posZero_at (fun k => ?_) _ n, fun n => posZero_at (fun k => ?_) _ n, fun n => posZero_at (fun k => ?_) _ n⟩
  · simp only [activation, Tile.bytes, Tile.scaleBytes, zeroStart, dense_nil, at_scales, narrowAt, cellAt, at_bytes]
    rw [show elemBits 0 0 = 8 from rfl, if_neg (by decide), if_neg (by decide)]
    exact ⟨-9, by decide⟩
  · simp only [weight, zeroStart, dense_nil, at_bytes]
    rw [show elemBits 0 0 = 8 from rfl, if_neg (by decide), if_neg (by decide)]
    exact ⟨-136, by decide⟩
  · simp only [accAt, cellAt, Tile.bytes, zeroStart, dense_nil, at_bytes]
    exact ⟨-133, by decide⟩
theorem inject_none (w : Nat) (out : List Nat) : (inject 0 w [0, 0, 0, 0] out).2 = out := by simp [inject, injects]
theorem inject_one (out : List Nat) : (inject 0 (accFloat 1).width [0x8000000000003FC0, 0, 0, 0] out).2 = out.set 0 (Nat.xor (out.getD 0 0) 0x3FC0) := by
  simp [inject, injects]
  rfl
/-- The small team's engine drains that operation, with an injection armed for its core or with none. -/
def drains (inj : Dword) : State := { atEngine { started := some zeroStart } with asyinj := [inj, 0, 0, 0] }
-- R225, R228: a result that passes, and one that an injection spoils, in a running team
theorem witness_EngineRuns_drain : ∃ v, zeroStart.view = some v ∧ zeroStart.op = mmaOp
    ∧ (∀ inj, ((drains inj).core 0).engine.started = some zeroStart ∧ ((drains inj).core 0).engine.owner = some 0
        ∧ (drains inj).who = 0 ∧ (drains inj).tols 1 = (256, 16)
        ∧ ∃ T, (drains inj).teams.find 0 = some T ∧ T.phase = .running ∧ 0 < T.squads.length)
    ∧ v.assay (accFloat 1) 256 16 (inject 0 (accFloat 1).width (drains 0).asyinj (v.out (accFloat 1))).2 = (0, 0)
    ∧ v.assay (accFloat 1) 256 16 (inject 0 (accFloat 1).width (drains 0x8000000000003FC0).asyinj (v.out (accFloat 1))).2 ≠ (0, 0) := by
  obtain ⟨v, hv, z⟩ := zeroStart_zeros
  refine ⟨v, hv, rfl, fun inj => ⟨rfl, rfl, rfl, rfl, (drains inj).tm 0, rfl, rfl, Nat.one_pos⟩, ?_, ?_⟩
  · rw [show (drains 0).asyinj = [0, 0, 0, 0] from rfl, inject_none]
    exact assay_zeros z
  · rw [out_zeros z, show (drains 0x8000000000003FC0).asyinj = [0x8000000000003FC0, 0, 0, 0] from rfl, inject_one, List.replicate_succ, List.set_cons_zero]
    exact assay_bad z


/-! ### Special registers, traps, handlers, spawning (chapters 4, 6, 13 and 19) -/

/-- The small team in its handler, run by its one thread, with these causes recorded in its squad. -/
def inTrap (causes : Word) (regs : List (BitVec 8 × Word)) : State :=
  at1 (holding regs) fun t => { t.setSquad 0 { t.squad 0 with causes, fpc := 4, code := 9 } with phase := .handler 0 0 0x500 }

theorem witness_SpecialRegistersAndTime :
    let s := at1 (holding [(4, 0x10000)])
    let h := inTrap 2 [(4, 0x10000), (6, 4)]
    let th := (s.tm 0).lane 0 0
    ([.sread hd0 6 0, .sread hd0 6 0x37, .swrite hd0 0x20 8, .swrite hd0 0x21 8, .swrite hd0 0x30 8, .clock hd0 6, .sleep hd0 8, .sleepImm hd0 5, .trapinfo hd0 6 8 9, .trapinfoImm hd0 6 8 12].all (readySolo s)
      && readySolo h (.swrite hd0 0x37 4) && decide ((h.tm 0).phase = .handler 0 0 0x500) && decide ((((h.tm 0).lane 0 0).r64 4).toNat = 0x10000)
      && decide ((th.r32 8).toNat < 8) && decide (0 < (s.tm 0).threads.length) && readySolo h (.trapinfoImm hd0 6 8 0) && decide ((h.tm 0).handling = some (0, 0))) = true := by decide +kernel
-- R359, R360: %tid; flags are cleared by the bits written; a trap word in and outside the handler
theorem test_special_registers : every [
    (after (.swrite hd0 0x21 4) (at1 fun th => { holding [(4, 5)] th with flags := 0x1F })).map (·.flags) == some 0x1A,
    (match exec (.swrite hd0 0x20 4) (at1 (holding [(4, 3)])) with | .next t => some (t.tm 0).fpctl | _ => none) == some 3,
    (match exec (.swrite hd0 0x30 4) (at1 id) with | .next t => some ((t.tm 0).squad 0).causes | _ => none) == some 0x200,
    (match exec (.swrite hd0 0x37 4) (inTrap 2 [(4, 0x10000)]) with | .next t => some (t.tm 0).phase | _ => none) == some (.handler 0 0 0x10000),
    (after (.sread hd0 6 0x34) (inTrap 2 [])).map (fun th => th.r64 6) == some 4,
    (after (.sread hd0 6 0x30) (inTrap 2 [])).map (fun th => th.reg 6) == some (2, 0),
    (after (.sleepImm hd0 7) (at1 id)).map (·.wait) == some (.sleep 7)] = true := by decide +kernel
-- no lane active, an active lane in a running team, and a handler; every squad without causes for a resume
theorem witness_TrapsAndReturns :
    let s := at1 id
    let h := inTrap 2 [(4, 2)]
    let done := inTrap 0 []
    (readySolo s (.trap hd0 13) && readySolo s (.brk hd0 13) && decide ((s.tm 0).phase = .running) && decide (s.slot (.trap ⟨3, false, 0, false⟩ 13) = some { solo with act := [] })
      && decide (s.slot (.brk ⟨3, false, 0, false⟩ 13) = some { solo with act := [] }) && readySolo h (.trapclr hd0 4) && (h.suspectOf 0).isNone
      && readySolo done (.trapretResume hd0) && !((done.tm 0).lane 0 0).exited && !(done.tm 0).heldWait.isBarrier && !(done.tm 0).held && decide (((done.tm 0).squad 0).run = .running) && decide ((done.tm 0).squads.length = 1)
      && decide (((done.tm 0).squad 1).causes = 0) && readySolo h (.trapretKill hd0) && readySolo h (.trapretKillsig hd0)) = true := by decide +kernel
-- a fault log that is off, and one with room, for records without and with a vector (R254, R255)
theorem witness_TrapsAndReturns_log :
    let cfg (on : Nat) : Dword := BitVec.ofNat 64 (on * 2 ^ 43 + 4 * 2 ^ 44 + 3 * 2 ^ 16)
    let off := mapped
    let on := mapped.setFn 0 { mapped.fn 0 with fltcfg := cfg 1, fltbase := 0x200000 }
    let y := on.fn 0
    let recs : List LogRec := [{ kind := 1, lrec := 0, ctx := 0 }, { kind := 2, lrec := 0, ctx := 0 }]
    ((off.fn 0).fltcfg.getLsbD 43 = false) ∧ every (recs.map fun r =>
      let v1 := on.agentRelease (agentNum .log 0) (recordCtx r.bytes) 5
      let v2 := v1.2.agentWrite (agentNum .log 0) y.world (y.fltcfg.extractLsb' 48 16).toNat
        (y.fltbase.toNat / 4096 * 4096 + 64 * ((logIdx y).1 % 2 ^ (y.fltcfg.extractLsb' 44 4).toNat)) r.bytes
      decide (r.kind < 256) && on.logsDue.isEmpty && off.logsDue.isEmpty && y.fltcfg.getLsbD 43
        && decide (((logIdx y).1 + 65536 - (logIdx y).2) % 65536 ≠ 2 ^ (y.fltcfg.extractLsb' 44 4).toNat)
        && decide (v1.1 = some true) && (match v2.1 with | .ok () => true | _ => false) && decide (v2.2.fns = on.fns)) = true := by decide +kernel
-- R254, R255: the record's kind lies at its first byte, the index advances, and kind 2 alone raises the vector
theorem test_kill_logged :
    let go (i : Instr) : Option (Byte × Nat × List Out) :=
      let h := inTrap 2 []
      let t : State := { mapped with teams := h.teams, launches := h.launches }
      let t := t.setFn 0 { t.fn 0 with fltcfg := BitVec.ofNat 64 (2 ^ 43 + 4 * 2 ^ 44 + 3 * 2 ^ 16), fltbase := 0x200000 }
      match exec i t with
      | .next u => some (u.byte (base + 0x200000), (logIdx (u.fn 0)).1, u.out)
      | _ => none
    every [go (.trapretKill hd0) == some (1, 1, []), go (.trapretKillsig hd0) == some (2, 1, [.msi 0 3])] = true := by decide +kernel
theorem test_traps : every [
    (match exec (.trap hd0 13) (at1 id) with | .next t => let q := (t.tm 0).squad 0; some (q.causes, q.code, q.fpc) | _ => none) == some (0x02000000, 13, 0x10000),
    (match exec (.trap hd0 13) (at1 id) with | .next t => some (((t.tm 0).squad 0).run, ((t.tm 0).lane 0 0).pc) | _ => none) == some (.halting 0, 0x10008),
    (match exec (.brk hd0 13) (at1 id) with | .next t => let q := (t.tm 0).squad 0; some (q.causes, q.code) | _ => none) == some (0x04000000, 0),
    (match exec (.trapclr hd0 4) (inTrap 6 [(4, 2)]) with | .next t => let q := (t.tm 0).squad 0; some (q.causes, q.fpc) | _ => none) == some (4, 4),
    (match exec (.trapclr hd0 4) (inTrap 6 [(4, 6)]) with | .next t => let q := (t.tm 0).squad 0; some (q.causes, q.fpc) | _ => none) == some (0, 0),
    (match exec (.trapretResume hd0) (inTrap 0 []) with | .next t => some ((t.tm 0).phase, ((t.tm 0).lane 0 0).pc) | _ => none) == some (.running, 0x500),
    (match exec (.trapretKill hd0) (inTrap 2 []) with | .next t => some ((t.tm 0).phase, ((t.tm 0).lane 0 0).exited) | _ => none) == some (.killed, true)] = true := by decide +kernel
theorem witness_HandlerOnlyActions :
    let s := at1 id
    ([.trapclr hd0 4, .trapretResume hd0, .trapretKill hd0, .trapretKillsig hd0, .swrite hd0 0x37 4].all (readySolo s) && (s.tm 0).handling.isNone && decide ((s.tm 0).phase = .running)
      && decide (((s.tm 0).squad 0).causes = 0)) = true := by decide +kernel
theorem test_handler_only : (match exec (.trapretResume hd0) (at1 id) with
    | .next t => let q := (t.tm 0).squad 0; some (q.causes, q.detail, ((t.tm 0).lane 0 0).pc) | _ => none) = some (0x200#32, 8#32, 0x10000#64) := by decide +kernel
-- R241: the first event's particulars stay; among one event's causes the lowest bit leads
theorem witness_TrapRecordHoldsFirstEvent : every [
    (({} : Squad).record 8 [{ ln := 1, c := .align, addr := 6 }, { ln := 2, c := .bounds, addr := 5, detail := 3 }] 0).faddr == 5,
    (({ causes := 1, fpc := 4 } : Squad).record 8 [{ ln := 1, c := .align, addr := 6 }] 0).fpc == 4] = true := by decide +kernel
/-- The small team stopped after causes. -/
def stopped (causes : Word) (run : Run) : State :=
  { at1 id fun t => { t.setSquad 0 { t.squad 0 with causes, run } with halting := true } with who := 0 }
theorem witness_HaltsAndHandlers :
    let s := stopped 2 (.halting 0)
    let t := stopped 2 .stopped
    let u := { t with launches := t.launches.update 0 fun l => { l with hdr := { l.hdr with handler := 0x4000 } } }
    (decide (((s.tm 0).squad 0).run = .halting 0) && (s.tm 0).stepping.isNone && ((s.tm 0).squad 0).amids.isEmpty && (s.tm 0).handling.isNone && s.quiet 0 0 && ((List.range 32).all fun ln => ((s.tm 0).lane 0 ln).rel.isNone) && (s.teams.find s.who).isSome
      && decide ((t.tm 0).phase = .running) && (t.tm 0).halted && !(t.tm 0).held && !(t.tm 0).waking && decide ((t.ctx (t.launchOf (t.tm 0)).ctx).phase ≠ .freezing) && decide (((t.tm 0).live 0).head? = some 0)
      && decide ((t.launchOf (t.tm 0)).hdr.handler = 0) && decide ((u.launchOf (u.tm 0)).hdr.handler ≠ 0)
      && decide ((((at1 fun th => { th with wait := .sleep 0 }).tm 0).thread 0).wait = .sleep 0)
      && readySolo (at1 id) (.unassignedOpcode .misland)) = true := by decide +kernel
theorem test_handler_entry : every [
    (match exec .handlerEntry (stopped 2 .stopped) with | .next t => some (t.tm 0).phase | _ => none) == some .killed,
    (match exec (.squadStopped 0) (stopped 2 (.halting 0)) with | .next t => some (((t.tm 0).squad 0).run, ((t.tm 0).lane 0 0).haltPc) | _ => none) == some (.stopped, 0x10000),
    (match exec (.unassignedOpcode .fetchBoundary) (at1 id) with | .next t => some ((t.tm 0).squad 0).causes | _ => none) == some 8] = true := by decide +kernel
-- a squad without a convoy; a fetch from a line of the instruction cache and from memory; a reply to a fetch
theorem witness_FormationAndFetch :
    let s := at1 id fun t => t.setSquad 0 { t.squad 0 with convoy := [] }
    let g := (atCode).setCore 0 { tlb := [{ asid := 0, page := 0, log := 21, leaf := 0x200000051 }] }
    let f : State := { g with teams := g.teams.update 0 fun t => (t.setThread 0 { t.thread 0 with loops := [] }).setSquad 0 { t.squad 0 with latch := none } }
    let p := f.translate 0 0 0 0x10000 .fetch
    let line : CLine := { asid := 0, va := 0x10000, key := base + 0x10000, bytes := List.replicate 128 0 }
    let c := f.setCore 0 { l1i := [line] }
    let r := { at1 fun th => { th with wait := .fetch 0x10000 0 } with who := 0, reqs := [(0, { asid := 0, va := 0x10000, kind := 3 })] }
    let again := at1 id fun t => t.setSquad 0 { t.squad 0 with replay := [0] }
    ((s.tm 0).mayIssue 0 && ((s.tm 0).squad 0).amids.isEmpty && ((s.tm 0).squad 0).replay.isEmpty && (again.tm 0).mayIssue 0 && decide (0 ∈ (again.tm 0).live 0)
      && decide (0 ∈ ((again.tm 0).squad 0).replay) && decide (((s.tm 0).squad 0).run = .running) && !((s.tm 0).squad 0).lone && decide ((s.tm 0).eligible 0 = [0]) && decide (((s.tm 0).lane 0 0).lastForm ≤ ((s.tm 0).squad 0).formIdx)
      && decide (((f.tm 0).squad 0).convoy = [0]) && (f.tm 0).mayIssue 0 && (((f.tm 0).lane 0 0).loop 0 0x10000).isNone && ((f.core 0).fetchLine 0 0x10000).isNone
      && (match p with | (.ok k _, s1) => decide (k = base + 0x10000) && isLocal k && (s1.fetchFail 0 (k / 128 * 128) k).isNone | _ => false)
      && ((c.core 0).fetchLine 0 0x10000).isSome && decide (((r.tm 0).thread 0).wait = .fetch 0x10000 0) && (r.reqs.find 0).isSome) = true := by decide +kernel
theorem test_formation : (match exec .convoyFormation (at1 id fun t => t.setSquad 0 { t.squad 0 with convoy := [], formIdx := 6 }) with
    | .next t => some (((t.tm 0).squad 0).convoy, ((t.tm 0).squad 0).formIdx) | _ => none) = some ([0], 7) := by decide +kernel
/-- A launch of two stages whose first may spawn; the second's bin lies in global memory. -/
def atSpawn (g : Team → Team := id) : State :=
  let s := atGlobal [(4, 0x11), (8, 5)] g
  let st : List StageDesc := [{ spawns := true }, { binBase := 0x200000, binLog := 4, recSize := 1, coalesce := 1 }]
  { s with launches := s.launches.update 0 fun l => { l with hdr := { l.hdr with stages := st }, stages := [{}, {}] }
           queues := [(5, { fn := 0, logSize := 4, state := 1 })], who := 0 }
theorem witness_SpawnAndNotifyComplete :
    let s := atSpawn
    let th := (s.tm 0).lane 0 0
    let p := (s.enterAmid solo (.spawn hd0 1 4) []).pumpLanes solo 3
    let sA := (p.2.2.leaveAmid solo).take.2.advance solo [] 8
    let d := (s.launchOf (s.tm 0)).hdr.stages.getD 1 {}
    let held := atSpawn fun t => t.setThread 0 { t.thread 0 with slot := some (1, 0) }
    let pH := (held.enterAmid solo (.spawn hd0 1 4) []).pumpLanes solo 3
    let sH := (pH.2.2.leaveAmid solo).take.2.advance solo [] 8
    let w := atSpawn fun t => t.setThread 0 { t.thread 0 with wait := .bin 1 0 }
    let n := (s.enterAmid solo (.notify hd0 8 10) []).pumpLanes solo 5
    (decide (s.inAmid solo = none) && !s.anyLoads solo && readySolo s (.spawn hd0 1 4) && (s.spawnHits solo 1 4).isEmpty && th.slot.isNone && p.1 && p.2.1.isEmpty
      && (match sA.reserveSlot (sA.tm 0).launch 1 with
        | some (k, s2) => decide (((s2.onTm 0 fun t => t.setThread 0 { t.lane 0 0 with slot := some (1, k) }).binWrite (sA.tm 0) (slotAddr d k) (th.spawnRecord 4 d.recSize)).1 = .ok)
        | none => false)
      && readySolo held (.spawn hd0 1 4) && (held.spawnHits solo 1 4).isEmpty && decide (((held.tm 0).lane 0 0).slot = some (1, 0)) && pH.1 && pH.2.1.isEmpty && decide (held.inAmid solo = none)
      && !held.anyLoads solo && decide (((sH.onTm 0 fun t => t.setThread 0 { t.lane 0 0 with slot := some (1, 0) }).binWrite (sH.tm 0) (slotAddr d 0) (((held.tm 0).lane 0 0).spawnRecord 4 d.recSize)).1 = .ok)
      && readySolo s (.notify hd0 8 10) && n.1 && n.2.1.isEmpty && (match (n.2.2.leaveAmid solo).queue? 5 with | some q => decide (q.world = (s.launchOf (s.tm 0)).world) | none => false)
      && decide (((w.tm 0).thread 0).wait = .bin 1 0) && decide ((w.tm 0).phase = .running) && !(w.tm 0).halting && (w.reserveSlot (w.tm 0).launch 1).isSome) = true := by decide +kernel
theorem test_spawn : (match exec (.spawn hd0 1 4) atSpawn with
    | .next t => some (t.byte base, (t.launch 0).stages.map (·.tail), ((t.tm 0).lane 0 0).pc) | _ => none) = some (0x11#8, [0, 1], 0x10008#64) := by decide +kernel


/-! ### Host queues, packets and dispatchers (chapters 3 and 4) -/

/-- The queue of the examples: mapped, with its ring at 0x10000 and its status record at 0x20000. -/
def ringQueue : Queue := { state := 2, slot := some 1, geom := true, logSize := 4, ringBase := 0x10000, statusAddr := 0x20000, wridx := 3, rdidx := 1 }
/-- A state with that queue, changed. -/
def queued (f : Queue → Queue) : State := { mapped with queues := [(5, f ringQueue)], who := 5 }
/-- A state whose function 0 has written `QCMD`: BUSY with an operation and the number 5 (R58). -/
def commanded (oper : Nat) (f : Queue → Queue) : State :=
  let s : State := { queued f with who := 0 }
  s.setFn 0 { s.fn 0 with qcmd := BitVec.ofNat 64 (oper * 2 ^ 62 + 2 ^ 60 + 3 * 2 ^ 16 + 5) }
/-- A notify record for the queue (R62). -/
def notifyBytes (wr : Nat) : List Byte := toBytes 8 wr ++ toBytes 8 0x10000 ++ [4, 6] ++ List.replicate 6 0 ++ toBytes 8 0x20000 ++ List.replicate 32 0

theorem witness_QueueCommandsComplete :
    let made : State := { commanded 1 id with queues := [] }
    let okay (s : State) (oper : Nat) : Bool := match s.qcmd? 0 oper with
      | some c => decide (c.num = 5) && s.ownsQueue 0 c.num && s.ownsAsid 0 c.asid | none => false
    let gone (oper : Nat) : State := { commanded oper id with queues := [] }
    let due := queued fun q => { q with statusDue := some 0 }
    let rel := (due.onQueue 5 id).agentRelease (agentNum .status 5) ringQueue.ctx 5
    let wrote := rel.2.agentWrite (agentNum .status 5) 0 0 0x20000 ({ ringQueue with statusDue := some 0 } : Queue).record
    let idle := queued fun q => { q with state := 1, slot := none }
    every [(made.fn 0).serving, okay made 1, okay (commanded 2 id) 2, ((commanded 2 id).queue? 5).isSome, ((queued fun q => { q with destroy := true }).queue? 5).isSome,
      okay (commanded 3 fun q => { q with state := 3 }) 3, ({ ringQueue with state := 3 } : Queue).err, okay (gone 2) 2, okay (gone 3) 3, ((gone 2).queue? 5).isNone,
      decide ((notifyBytes 9).length = 64), (match notifyForm (notifyBytes 17) with | some x => decide (x.ring = ringQueue.ringBase.toNat ∧ x.log = 4 ∧ x.status = 0x20000 ∧ x.wridx ≤ 1 + 2 ^ x.log) | none => false),
      decide (due.onQueue 5 id = due), decide (rel.1 = some true), (match wrote with | (.ok (), s2) => decide (s2.queues = rel.2.queues) && decide (rel.2.queues = due.queues) | _ => false),
      decide (idle.onQueue 5 id = idle), !idle.mapBefore 5 { ringQueue with state := 1, slot := none },
      decide (((List.range 32).find? fun k => slotFor ringQueue k && !(idle.mapped 1).any fun u => u.2.slot == some k) = some 1)] = true := by decide +kernel
theorem test_queues : every [
    (match exec .queueCreate { commanded 1 id with queues := [] } with | .next t => some ((t.queue? 5).map (·.errvec), ((t.fn 0).qcmd.extractLsb' 60 2).toNat) | _ => none) == some (some 3, 0),
    (match exec .queueCreate (commanded 1 id) with | .next t => some ((t.fn 0).qcmd.extractLsb' 60 2).toNat | _ => none) == some 2,
    (match exec (.notifyRecord 0 (notifyBytes 9)) (queued id) with | .next t => some ((t.queue? 5).map fun q => (q.wridx, q.prio)) | _ => none) == some (some (9, 6)),
    (match exec (.notifyRecord 0 (notifyBytes 18)) (queued id) with | .next t => some ((t.queue? 5).map (·.state)) | _ => none) == some (some 7),
    (match exec .queueMap (queued fun q => { q with state := 1, slot := none }) with | .next t => some ((t.queue? 5).map fun q => (q.state, q.slot)) | _ => none) == some (some (2, some 1))] = true := by
  decide +kernel

/-- The queue holds a packet. -/
def held (body : PktBody) (ready : Option Bool := none) : State := queued fun q => { q with held := some { idx := 0, barrier := false, body, ready } }
/-- A launch record of one squad and one stage, by its words (R78, R79). -/
def recordState : State :=
  let at_ (s : State) (p : Nat × Nat) : State := hold8 s (base + 0x30000 + p.1) p.2
  [(0x00, 0x0101010100010001 + 0x10000000000), (0x08, 0x10000), (0x18, 0x100000001), (0x20, 1), (0x80, 0x40000)].foldl at_ (held (.launch 0x30000 0 0 0 3 false 0))
theorem witness_PacketsComplete :
    let s := queued id
    let rd := s.agentRead (agentNum .ring 5) 0 0 (0x10000 + 128) 128
    let wait := held (.wait 0x40000 0 3)
    let ready := held (.wait 0x40000 0 3) (some true)
    let sig := held (.signal 0x40000 7 true 3 true 2)
    let rel := sig.agentRelease (agentNum .packet 5) ringQueue.ctx 3
    let add := rel.2.agentAdd (agentNum .packet 5) 0 0 0x40000 7 true 3
    let l0 := recordState.agentRead (agentNum .packet 5) 0 0 0x30000 0x80
    let lr := l0.2.agentRead (agentNum .packet 5) 0 0 (0x30000 + 0x80) (0x40 * 1) 0x80
    every [ringQueue.canRead, (match rd.1 with | .ok d => (ringQueue.authFail 5 d).isNone && decide ((packetForm 1 d).map (·.body) = some .nop) | _ => false),
      ((held .nop).nextPacket 5).isSome, (match wait.agentRead (agentNum .packet 5) 0 0 0x40000 8 with | (.ok bs, s1) => decide (ofBytes bs = 0) && decide (s1.queues = wait.queues) | _ => false),
      (ready.nextPacket 5).isSome, ((ready.evaluate 5).nextPacket 5).isSome, (sig.nextPacket 5).isSome, decide (rel.1 = some true),
      (match add with | (.ok (), s2) => decide (s2.queues = sig.queues) | _ => false), (recordState.nextPacket 5).isSome,
      (match l0.1, lr with
        | .ok d0, (.ok d, s2) => decide (stagesOf d0 = some 1) && (recordForm (d0 ++ d) s2.mostCores).isSome && decide (s2.queues = recordState.queues)
        | _, _ => false)] = true := by decide +kernel
theorem test_packets : every [
    (match exec .packetAccept (queued id) with | .next t => some ((t.queue? 5).map fun q => (q.rdidx, q.held.map (·.body))) | _ => none) == some (some (2, some .nop)),
    (match exec .waitEvaluate (held (.wait 0x40000 1 3)) with | .next t => some ((t.queue? 5).map fun q => q.held.map (·.ready)) | _ => none) == some (some (some (some false))),
    (match exec .signal (held (.signal 0x40000 7 true 3 false 2)) with | .next t => some (t.byte (base + 0x40000), (t.queue? 5).map (·.held)) | _ => none) == some (7, some none),
    (match exec .launch recordState with | .next t => some (t.launches.map fun l => (l.2.hdr.teamSq, l.2.hdr.stages.map (·.entry)), (t.queue? 5).map (·.running)) | _ => none)
      == some ([(1, [0x40000])], some [0])] = true := by decide +kernel

/-- Reset with one launch of a grid stage and a record-driven stage that holds one aged record. -/
def placing (f : Launch → Launch) : State :=
  let hdr : LaunchRec := { regs := 1, stages := [{ entry := 0x40000, spawns := true }, { entry := 0x50000, binBase := 0x60000, binLog := 4, recSize := 1, coalesce := 1, age := 1 }] }
  { mapped with launches := [(0, f { hdr, rooms := true, stages := [{}, { tail := 1, ins := 1, slots := [(0, .inserted 100)] }] })], who := 0 }
theorem witness_DispatchersComplete :
    let s := placing id
    let s0 : State := { s with launches := s.launches.map fun l => (l.1, l.2.mode) }
    let s1 := s0.noteBlocked 0
    let tail := placing fun l => { l with nextEn := 1 }
    let t1 := (tail.setLaunch 0 (tail.launch 0).mode).noteBlocked 0
    let waits (s : State) : State := { s with disps := s.disps.set 0 { s.disps.getD 0 {} with blocked := [{ item := itemId (0, 0), since := 0 }] }, ticks := 10000 }
    let stuck := waits s
    let wide := waits (placing fun l => { l with hdr := { l.hdr with enTeams := 600 } })
    let claim := placing fun l => { l with rooms := false }
    let team : State := { atSlice id fun t => t.setThread 0 { exited := true } with who := 0 }
    let done := placing fun l => { l with stages := [{ done := true }, { done := true }] }
    every [decide (s1.nextItem 0 = some (0, 0)), (match s1.placeOf 0 (0, 0) with | some g => (s1.tie 0 g.cluster 0).isNone && !g.reserved | _ => false),
      (s1.items 0).all (s1.placeable 0), (s1.launches.find 0).isSome,
      decide (tail.nextItem 0 = some (0, 1)), (match tail.placeOf 0 (0, 1) with | some g => !g.cores.isEmpty && (t1.tie 0 g.cluster 0).isNone | _ => false),
      (match t1.readBins 0 ((tail.launch 0).hdr.stages.getD 1 {}) [0] with | (.ok bs, _, _) => decide (bs.length = 16) | _ => false),
      decide (((s.launch 0).stages.getD 1 {}).records = [(0, 100)]), decide ((stuck.disps.getD 0 {}).blocked = [{ item := 0, since := 0 }]), decide ((wide.disps.getD 0 {}).blocked = [{ item := 0, since := 0 }]), decide (wide.items 0 = [(0, 0), (0, 1)]), !wide.placeable 0 (0, 0), wide.placeable 0 (0, 1), decide (0 < s.disps.length),
      decide ((claim.nextItem 0).map (·.1) = some 0), (claim.claimRooms 0).isSome, team.mayRetire 0 (team.tm 0),
      (done.launch 0).stages.all (·.done), (done.launch 0).events.isEmpty, decide ((done.launch 0).doneAddr = 0)] = true := by decide +kernel
theorem test_dispatchers : every [
    (match exec .placementPass (placing id) with | .next t => some ((t.launch 0).nextEn, t.teams.map fun u => (u.2.stage, (u.2.thread 0).pc)) | _ => none) == some (1, [(0, 0x40000)]),
    (match exec (.binTeamLaunch 1) (placing fun l => { l with nextEn := 1 }) with | .next t => some (t.teams.map fun u => (u.2.stage, u.2.nrec, (u.2.thread 0).pc)) | _ => none) == some [(1, 1, 0x50000)],
    (match exec .launchComplete (placing fun l => { l with stages := [{ done := true }, { done := true }], intr := true, vector := 9 }) with
      | .next t => some (t.launches.length, t.out) | _ => none) == some (0, [.msi 0 9])] = true := by decide +kernel


/-! ### Contexts and page tables (chapters 5 and 8) -/

/-- The small team's context in a state; function 0 has written `CTXCMD` with an operation on it (R98). -/
def inCtx (oper : Nat) (f : Ctx → Ctx) (g : Team → Team := id) : State :=
  let s : State := { atSlice id g with who := 0 }
  let s := s.setFn 0 { s.fn 0 with ctxcmd := BitVec.ofNat 64 (oper * 2 ^ 60 + 2 ^ 58) }
  { s with ctxs := [(0, f {})] }
/-- A team that has halted. -/
def haltedTeam (t : Team) : Team := { t.setSquad 0 { t.squad 0 with run := .stopped } with halting := true }
theorem witness_ContextsComplete :
    let img : Image := { key := 0, serial := 0, len := 5, room := 8 }
    let s := inCtx 2 id
    let drain := inCtx 0 fun x => { x with phase := .draining, deadline := 3, elapsed := 3, image := some img }
    let cap := inCtx 0 (fun x => { x with phase := .freezing, image := some img }) haltedTeam
    let chunk : State := { inCtx 0 (fun x => { x with phase := .freezing, image := some img }) with teams := [] }
    let rest : Ctx → Ctx := fun x => { x with phase := .frozen, resuming := true, image := some { img with chunks := [[1], [2]] } }
    let auto := inCtx 0 fun x => { x with phase := .drained, victimOf := [3] }
    let pod : Pod := { deadline := 1, space := 0, keep := [], begun := true }
    let podded : State := { inCtx 0 rest with pod := some { pod with ctxs := [0] } }
    every [!s.podHolds 0, !(inCtx 0 rest).podHolds 0, podded.podHolds 0, podded.hasWork 0, !((inCtx 0 rest).ctx 0).restored, !(auto.ctx 0).pod, decide ((s.pod.getD pod).begun = true), decide (chunk.fitted 0 img = { img with len := (chunk.fitted 0 img).len }),
      mayName 0 0, decide ((s.ctx 0).phase = .running), !(s.ctx 0).ends, decide ((s.ctx 0).cmd ≠ some 0), decide ((s.fn 0).ctxarg = 0), (s.claimReserve 0).isSome, decide (s.ctxcmd? 0 2 = some 0),
      decide ((inCtx 1 id).ctxcmd? 0 1 = some 0), !(s.ctxTeams 0).isEmpty, decide ((drain.ctx 0).deadline ≤ (drain.ctx 0).elapsed), decide ((drain.ctx 0).image = some img),
      !(drain.ctxTeams 0).isEmpty, (drain.claimReserve 0).isSome, cap.mayCapture 0 (cap.tm 0), !cap.captureBad 0 (cap.tm 0), !(chunk.ctx 0).ends, chunk.chunkReady 0 img,
      (match chunk.imageWrite 0 img 0 [] with | (.ok (), s1) => decide (s1.ctxs = chunk.ctxs) | _ => false), decide ((inCtx 3 fun x => { x with phase := .drained }).ctxcmd? 0 3 = some 0),
      decide (((inCtx 3 fun x => { x with phase := .frozen, image := some img }).ctx 0).image = some img), !((inCtx 3 fun x => { x with phase := .frozen, image := some img }).ctx 0).resuming,
      decide (((inCtx 0 rest).ctx 0).resuming = true), decide ((({ img with chunks := [[1], [2]] } : Image).chunks[0]?) = some [1]),
      decide ((inCtx 4 fun x => { x with phase := .frozen }).ctxcmd? 0 4 = some 0), (((inCtx 0 fun x => { x with resetDue := some 2 }).ctx 0).resetDue).isSome,
      (auto.ctx 0).cmd.isNone, (auto.launches.find 3).isNone, s.hasWork 0, decide (0 ∈ s.contexts), !kept s.device 0 [], decide (s.podOutcome pod = some true),
      decide ((pod.deadline + 2000) * 100000 ≤ ({ pod with receiver := true, elapsed := 200100000 } : Pod).elapsed)] = true := by decide +kernel
theorem test_contexts : every [
    (match exec .ctxPreempt (inCtx 1 id) with | .next t => some ((t.ctx 0).phase, (t.ctx 0).deadline) | _ => none) == some (.draining, (inCtx 1 id).draindl * 100000),
    (match exec .ctxFreezeNow (inCtx 2 id) with | .next t => some ((t.ctx 0).phase, (t.tm 0).halting) | _ => none) == some (.freezing, true),
    (match exec .ctxResume (inCtx 3 fun x => { x with phase := .drained }) with | .next t => some (t.ctx 0).phase | _ => none) == some .running,
    (match exec .ctxResume (inCtx 3 id) with | .next t => some ((t.fn 0).ctxcmd.extractLsb' 58 2).toNat | _ => none) == some 2,
    (match exec .teamCapture (inCtx 0 (fun x => { x with phase := .freezing, image := some { key := 0, serial := 0 } }) haltedTeam) with
      | .next t => some (t.teams.length, (t.ctx 0).saved.length) | _ => none) == some (0, 1)] = true := by decide +kernel
/-- Function 0 has written `PTARG` and `PTCMD` (R157). -/
def ptState (oper log arg : Nat) : State :=
  let s := atGlobal []
  let s := s.setFn 0 { s.fn 0 with ptcmd := BitVec.ofNat 64 (oper * 2 ^ 62 + 2 ^ 60 + log * 2 ^ 54), ptarg := BitVec.ofNat 64 arg }
  { s with who := 0 }
theorem witness_PageTablesComplete :
    let okay (s : State) (oper : Nat) : Bool := match s.ptcmd? 0 oper with | some c => s.ownsAsid 0 c.asid | none => false
    every [okay (ptState 1 0 0x5000) 1, decide (0x5000 % 4096 = 0), okay (ptState 2 0 0) 2, okay (ptState 3 41 0) 3, (ptState 2 0 0).invalidating.isEmpty,
      (({ ptState 2 0 0 with invalidating := [(0, 0, [])] } : State).invalidating.find? fun x => x.1 == 0).isSome] = true := by decide +kernel
theorem test_page_tables : every [
    (match exec .ptSetRoot (ptState 1 0 0x5000) with | .next t => some (t.roots.find 0) | _ => none) == some (some 0x5000),
    (match exec .ptInvalidateAsid (ptState 2 0 0) with | .next t => some ((t.core 0).tlb.length, ((t.fn 0).ptcmd.extractLsb' 60 2).toNat) | _ => none) == some (0, 0),
    (match exec .ptInvalidateRange (ptState 3 5 0x200000) with | .next t => some (t.core 0).tlb.length | _ => none) == some 0,
    (match exec .ptInvalidateRange (ptState 3 5 0x400000) with | .next t => some (t.core 0).tlb.length | _ => none) == some 1] = true := by decide +kernel

/-! ### Links, registers and the package (chapter 1) -/

/-- Port 2 in a state. -/
def atPort (p : Port) : State := { State.reset with ports := [(2, p)], who := 2, fabid := 0x8000000000000000 }
/-- A read of a word of device memory in world 0. -/
def readMsg : FabMsg := { src := 7, world := 0, addr := BitVec.ofNat 64 base, op := .load 4, scope := 5, data := [], checkLo := 0, checkHi := 0 }
/-- A flit with the CRC of its bytes (R19). -/
def sealed (f : Flit) : Flit := { f with crc := crc64 f.body }
theorem sealed_whole (f : Flit) (h : (f.msgs.isEmpty || decide (7 * f.part < f.slots)) = true) : (sealed f).whole = true := by
  have e : (sealed f).body = f.body := rfl
  have e' : (sealed f).slots = f.slots := rfl
  rw [Flit.whole, e, e', Bool.and_eq_true]
  exact ⟨by simp [sealed], h⟩
/-- A message with a tag that verifies on a channel (R40), and one whose tag is too long to. -/
def tagged (s : State) (ch : Nat) (m : FabMsg) : FabMsg :=
  { m with tag := (gcmOpen (s.pairKey ch) (pairIv m.src m.ctr) m.header m.data).2.take 12 }
def untagged (m : FabMsg) : FabMsg := { m with tag := List.replicate 13 0 }
theorem unprotects (s : State) (ch : Nat) (m : FabMsg) : s.unprotect ch m =
    if (gcmOpen (s.pairKey ch) (pairIv m.src m.ctr) m.header m.data).2.take 12 = m.tag
    then some { m with data := (gcmOpen (s.pairKey ch) (pairIv m.src m.ctr) m.header m.data).1 } else none := by
  unfold State.unprotect
  generalize gcmOpen (s.pairKey ch) (pairIv m.src m.ctr) m.header m.data = r
  rfl
theorem header_tag (m : FabMsg) (t : List Byte) : ({ m with tag := t } : FabMsg).header = m.header := rfl
theorem tagged_verifies (s : State) (ch : Nat) (m : FabMsg) : (s.unprotect ch (tagged s ch m)).isSome = true := by
  unfold tagged
  generalize ht : (gcmOpen (s.pairKey ch) (pairIv m.src m.ctr) m.header m.data).2.take 12 = t
  rw [unprotects, if_pos]
  · rfl
  · rw [header_tag]; exact ht
theorem untagged_fails (s : State) (ch : Nat) (m : FabMsg) : s.unprotect ch (untagged m) = none := by
  have e (t : List Byte) : t.take 12 ≠ List.replicate 13 0 := fun h => by
    have := congrArg List.length h
    simp only [List.length_take, List.length_replicate] at this
    omega
  rw [unprotects]
  exact if_neg (e _)
-- R20: a repaired flit is taken in order
theorem test_flit : (match exec (.flitReceive (sealed { seq := 5, ack := 0, msgs := [readMsg], crc := 0 }) [(7, 1)]) (atPort { mode := 1, state := 2, expect := 5 }) with
    | .next t => some ((t.port 2).expect, (t.port 2).fecfix, t.inreqs.length) | _ => none) = some (6, 1, 1) := by
  have h := sealed_whole { seq := 5, ack := 0, msgs := [readMsg], crc := 0 } (by decide)
  change (match execFlitReceive (sealed { seq := 5, ack := 0, msgs := [readMsg], crc := 0 }) [(7, 1)] (atPort { mode := 1, state := 2, expect := 5 }) with
    | .next t => some ((t.port 2).expect, (t.port 2).fecfix, t.inreqs.length) | _ => none) = some (6, 1, 1)
  simp only [execFlitReceive, h]
  decide +kernel
theorem witness_LinksComplete :
    let up : Port := { mode := 1, state := 2 }
    let f : Flit := sealed { seq := 5, ack := 0, msgs := [readMsg], crc := 0 }
    let s := atPort { up with expect := 5 }
    let rq : State := { atPort { up with world := 0 } with inreqs := [{ port := 2, msg := readMsg, bad := false }] }
    let conn : State := { State.reset with conns := [(0, { age := 100000000, unacked := [0] })], failTimeout := 5, who := 0 }
    let host : State := { State.reset with who := 0 }
    let answer (w : World) (bs : List Byte) : Flit := { seq := 5, ack := 0, msgs := [untagged { readMsg with world := w, op := .answer .ok, data := bs }], crc := 0 }
    let direct : State := atPort { up with fences := [(0, [4])] }
    (∀ w ∈ [(0 : World), 2], ∀ bs ∈ [([] : List Byte), [1]], (sealed (answer w bs)).whole = true ∧ (sealed (answer w bs)).ends = true
      ∧ ((answer w bs).msgs.map fun m => (s.arrived 2 m).isNone) = [w == 2]
      ∧ (w = 0 → ((answer w bs).msgs.map fun m => ((s.arrived 2 m).map badHalves).getD 0) = [bs.length]))
    ∧ (∀ m ∈ [readMsg, { readMsg with world := 2 }], ∀ w : World, let q := { m with world := w }
        let eth := atPort { up with mode := 2 }
        (eth.unprotect (channel (eth.port 2) q.src.toNat) (tagged eth (channel (eth.port 2) q.src.toNat) q)).isSome = true
        ∧ eth.unprotect (channel (eth.port 2) q.src.toNat) (untagged q) = none
        ∧ (s.unprotect q.src.toNat (tagged s q.src.toNat q)).isSome = true ∧ s.unprotect q.src.toNat (untagged q) = none)
    ∧ every [f.ends, decide ((direct.port 2).fences = [(0, [4])]), !(direct.port 2).switched, (atPort { up with mode := 2 }).fabValid, decide (f.seq.toNat = (s.port 2).expect), fecCorrects [(3, 1)], sequenced f.kind, !fecCorrects ((List.range 5).map fun k => (2 * k, 1)), seqFrom 4 5,
      decide (({ up with fences := [(0, [])] } : Port).fences = [(0, [])]), guarded up 2, decide (s.readReg 0 0x48 = some s.fabid.toNat), (s.port 2).up, s.fabValid, ({ up with missing := some (1, 200) } : Port).up, ({ up with missing := some (16, 0) } : Port).up,
      decide (400 ≤ ({ up with replay := [(f, 0)], oldest := 400 } : Port).oldest), decide ((atPort { mode := 1, state := 0 }).port 2 = { mode := 1, state := 0 }),
      decide (10000000 ≤ (some 10000000 : Option Nat).getD 0), ({ mode := 2, state := 2 } : Port).up, decide (conn.failTimeout ≤ (conn.conns.look {} 0).age), !(conn.conns.look {} 0).unacked.isEmpty,
      (rq.inreqs.find? fun r => r.port == 2 && r.msg == readMsg).isSome, decide ((rq.port 2).world = readMsg.world), decide (readMsg.addr.toNat / 2 ^ 44 = rq.device), host.serves 0,
      (linesOf base 4).all fun l => host.admits (host.fn 0).world l, isLocal (base / 128 * 128), (match host.store (host.fn 0).world [(base, 7)] with | .ok _ => true | _ => false),
      isLocal base] = true := by
  refine ⟨?_, fun m _ w => ⟨tagged_verifies _ _ _, untagged_fails _ _ _, tagged_verifies _ _ _, untagged_fails _ _ _⟩, by decide +kernel⟩
  intro w hw bs hb
  refine ⟨sealed_whole _ ?_, ?_⟩
  · decide +revert
  · simp only [List.mem_cons, List.not_mem_nil, or_false] at hw hb
    rcases hw with rfl | rfl <;> rcases hb with rfl | rfl
    all_goals refine ⟨by decide, ?_, ?_⟩
    all_goals first | decide +kernel | (simp [State.arrived, untagged_fails, guarded, readMsg]; decide +kernel)

theorem test_links : every [
    (match exec (.flitReceive { seq := 5, ack := 0, msgs := List.replicate 2 { readMsg with data := [1] }, crc := 0 } ((List.range 5).map fun k => (2 * k, 1))) (atPort { mode := 1, state := 2, expect := 5 }) with | .next t => some ((t.port 2).expect, (t.port 2).missing) | _ => none) == some (5, some (1, 0)),
    (match exec (.retrain 1) (atPort { mode := 1, state := 2 }) with | .next t => some (t.port 2).state | _ => none) == some 1,
    (match exec (.hostLinkRead (.mem base) 4) { State.reset with who := 0 } with | .next t => some t.out | _ => none) == some [.hostData [0, 0, 0, 0] false],
    (match exec (.fabricRequest readMsg) { atPort { mode := 1, state := 2, world := 0 } with inreqs := [{ port := 2, msg := readMsg, bad := false }] } with
      | .next t => some (t.inreqs.length, t.out.length) | _ => none) == some (0, 1)] = true := by decide +kernel
theorem witness_RegistersAndPackage :
    let s := State.reset
    let q := queued fun q => { q with fn := 1 }
    every [decide (((0 : Dword).extractLsb' 30 10).toNat ≤ 639), !s.fabValid, !s.traffic, decide (640 > 639), decide (0 < s.asyinj.length), decide ((s.port 0).state = 0), s.mayWrite 0 1, (s.clocks[0]?).isSome,
      s.powered, s.contexts.all fun c => c / 65536 != 1, (({ q with who := 1 } : State).queue? 5).isSome, decide (s.power = .d0), !s.moving, decide (({ s with power := .d3hot } : State).power = .d3hot),
      (placing id).launches.all fun l => decide (l.2.hdr.enTeams ≤ ((placing id).setCore 0 { (placing id).core 0 with fenced := true }).mostCores), decide (2 ^ 40 ≤ ({ s with crossed := [(3, 2 ^ 40)] } : State).crossed.look 0 3), ((s.setCore 4 { s.core 4 with fenced := true }).core 4).fenced, decide ((s.linkKeys.look (0, 0) 0).1 + 1 = 1)] = true := by decide +kernel
-- R16, R39, R98, R237, R254: what a register takes, bounds and clears
theorem test_registers : every [
    (match exec (.fabidWrite 1 0x8000000000000007) State.reset with | .next t => some t.fabid | _ => none) == some 0x8000000000000007,
    (match exec (.fabidWrite 1 0x800000A000000007) State.reset with | .next t => some t.fabid | _ => none) == some State.reset.fabid,
    (match exec (.pwrcapWrite 1 100) State.reset with | .next t => some t.pwrcap | _ => none) == some 1500,
    (match exec (.pwrcapWrite 0 2000) State.reset with | .next t => some t.pwrcap | _ => none) == some 4000,
    (match exec (.draindlWrite 1 5) State.reset with | .next t => some t.draindl | _ => none) == some 5,
    (match exec (.asytolWrite 1 true 3) State.reset with | .next t => some t.asytolc | _ => none) == some [16, 16, 16],
    (match exec (.fltcfgWrite 1 0) State.reset with | .next t => some (t.fn 0).fltcfg | _ => none) == some 0x0000600000000000,
    (match exec .powerLoss { State.reset with mem := [(base, 1)] } with | .next t => some (t.power, t.byte base) | _ => none) == some (.off, 0),
    (match step { State.reset with power := .off, agenda := [.event .d3hotEntry 0] } with | .fault f => some f | _ => none) == some .noPower,
    (match exec .coreFence { State.reset with who := 3 } with | .next t => some (t.core 3).fenced | _ => none) == some true] = true := by decide +kernel


/-! ### Trust and the debugger (chapters 2 and 13) -/

/-- A state whose responder has an established session with function 3, in world 2 that the function created. -/
def inSession : State :=
  { queued id with who := 3, spdm := [(3, { version := true, caps := true, algs := true, session := some true })], worlds := [(2, (0, 3))]
                   fns := [(3, { world := 2 })], slots := [(7, { key := [], world := 2, marks := [], digest := [] })] }
/-- A vendor-defined request (R49). -/
def vendorReq (code : Nat) (d : List Byte) : List Byte := toBytes 2 code ++ toBytes 2 0 ++ toBytes 4 d.length ++ d
/-- A `QUEUE_KEY` body for queue 5, an `INGOT_SEAL` body for one line of slot 7, an `INGOT_RELEASE` body for slot 7. -/
def keyBody : List Byte := toBytes 8 5 ++ List.replicate 32 9
def sealBody : List Byte := toBytes 8 7 ++ toBytes 8 base ++ toBytes 4 1 ++ List.replicate 12 0
def releaseBody : List Byte := toBytes 8 7
/-- A policy record of slot 9 in world 2 with one mark (R51). -/
def policyBody : List Byte := [9, 2, 1] ++ List.replicate 0x21D 0
/-- A context that was handed over to this device. -/
def handed : Inbound := { ctx := 4, world := 2, key := 0, serial := 9, chunks := [[1]], policies := [], launches := [], saved := [] }

theorem witness_TrustComplete :
    let r0 := 0x1000
    let w : State := { inSession with who := r0 }
    let s := inSession
    let asg : State := { w with assigns := [{ region := r0, world := 2 }] }
    let fn : State := { s with fns := [] }
    let port := atPort { returnWorld := true }
    let wrongQ : State := { s with queues := [(5, { ringQueue with world := 2, state := 0, slot := none })] }
    let at4 (x : Ctx) : State := { s with who := 4, ctxs := [(4, x)] }
    let img : Image := { key := 0, serial := 9 }
    let inb : State := { s with who := 4, inbound := [handed] }
    let pod : List Byte := toBytes 8 10
    every [!w.inMgmt (r0 * 2 ^ 21), !(w.regionAt r0).ingot, decide ((w.regionAt r0).state ≠ 2), w.exists_ 2, decide ((asg.regionAt r0).gen ≠ 0xFFFFFFFF), decide (asg.assigns.length = 1),
      !(fn.fn 3).locked, decide (((List.range 256).find? fun v => decide (2 ≤ v) && (fn.worlds.find v).isNone) = some 3), decide (fn.worlds.find 2 = some (0, 3)), fn.exists_ 2,
      ({ s with who := 2 } : State).ports.isEmpty, (port.port 2).returnWorld, !port.busyPort 2, decide ((List.replicate 48 (0 : Byte)).length = 48),
      decide ((s.conn 3).session = some true), (s.fn 3).serving, !(({ s with fns := [(3, { world := 2, serving := false })] } : State).fn 3).serving, decide (0x0999 ∉ vendorCodes), decide (keyBody.length = 0x28), zeroAt keyBody 2 6, decide (fieldAt keyBody 0 2 = 5), (wrongQ.queue? 5).isSome,
      decide ((wrongQ.fn 3).world = 2), decide (policyBody.length = 0x220), policyForm policyBody, (s.slots.find 9).isNone, decide (sealBody.length = 0x20), zeroAt sealBody 1 7, zeroAt sealBody 0x14 4,
      zeroAt sealBody 0x1C 4, decide (fieldAt sealBody 0x10 4 = 1), (match s.slotFor 7 with | .ok x => ({ s with wmap := [(base / 2 ^ 21, { world := 2 })] } : State).canBind x (base / 128) 1 0 | _ => false),
      decide (releaseBody.length = 8), !s.slotBusy 7, decide (pod.length = 8), decide (fieldAt pod 0 2 = 10), (keepList pod 0).all (·.2.2), s.pod.isNone,
      decide ((at4 { phase := .frozen, image := some img }).bootMeas = s.bootMeas), decide (((at4 { phase := .inDoubt, destBoot := some [1] }).ctx 4).destBoot ≠ some [2]),
      (inb.inbound.find? fun x => x.ctx == 4).isSome, !({ inb with inbound := [] } : State).refuses handed, ({ inb with inbound := [], worlds := [] } : State).refuses handed] = true := by decide +kernel
theorem test_trust : every [
    (match exec (.assign 2) { inSession with who := 0x1000 } with | .next t => some ((t.regionAt 0x1000).state, t.assigns.length) | _ => none) == some (1, 1),
    (match exec .getCapabilities { State.reset with who := 3 } with | .next t => some ((t.conn 3).caps, t.out.length) | _ => none) == some (false, 1),
    (match exec (.queueKey (vendorReq 0x10 keyBody)) { inSession with queues := [(5, { ringQueue with world := 2, state := 0, slot := none })] } with
      | .next t => some ((t.queue? 5).map (·.key)) | _ => none) == some (some (some (List.replicate 32 9))),
    (match exec (.ingotRelease (vendorReq 3 releaseBody)) inSession with | .next t => some t.slots.length | _ => none) == some 0,
    (match exec (.aborted true) { inSession with who := 4, ctxs := [(4, { phase := .inDoubt })] } with | .next t => some (t.ctx 4).phase | _ => none) == some .frozen] = true := by decide +kernel
/-- The debugger of function 0 has written a command on context 0 (R256, R257), with these words in its request block. -/
def debugging (oper : Nat) (ws : List (Nat × Nat)) (g : Team → Team := haltedTeam) : State :=
  let t := atSlice id g
  let s : State := { mapped with teams := t.teams, launches := t.launches, who := 0 }
  let s := ws.foldl (fun s p => hold8 s (base + 0x70000 + p.1) p.2) s
  { s.setFn 0 { s.fn 0 with dbgcmd := BitVec.ofNat 64 (oper * 2 ^ 60 + 2 ^ 58), dbgarg := 0x70000 } with
    sessions := if oper = 1 then [] else [(0, { fn := 0, world := 1, stopMask := 0 })] }
/-- The block of a read of four bytes of a space, into 0x71000. -/
def readBlock (space : Nat) : List (Nat × Nat) := [(8, space), (0x10, 0x72000), (0x18, 4), (0x20, 0x71000)]
theorem witness_DebuggerComplete :
    let okay (s : State) (oper : Nat) : Bool :=
      let r := s.agentRead (dbgAgent 0) (s.fn 0).world 0 0x70000 64
      decide ((s.fn 0).world = 1) && decide ((s.ctxWorld 0).toNat < 2) && decide (s.dbgcmd? 0 oper = some 0)
        && decide (s.dbgWorld 0 = 1) && (s.fn 0).dbgDue.isNone && mayName 0 0 && (match r with | (.ok d, s1) => reqForm d && decide (s1.who = 0) && decide (s1.sessions = s.sessions) && decide (s1.fns = s.fns) | _ => false)
    let s := debugging 6 (readBlock 1)
    let p := s.agentRead (dbgAgent 0) 1 0 0x70000 64
    let r := match p.1 with | .ok d => reqOf d | _ => reqOf []
    let m := debugging 7 (readBlock 9)
    let due := let s := debugging 6 []; s.setFn 0 { s.fn 0 with dbgDue := some { world := 1, va := 0x70030, result := 0 } }
    let plane := (debugging 6 [(8, 11), (0x18, 4), (0x20, 0x71000)]).setEngine 0 { owner := some 0, active := { src := .memory } }
    let runs := debugging 9 [] id
    let ended := debugging 9 [] fun t => haltedTeam (t.setThread 0 { t.thread 0 with exited := true })
    let realm := let s := debugging 9 []; { s with launches := s.launches.update 0 fun l => { l with world := 5 } }
    every [okay (debugging 1 []) 1, ((debugging 1 []).session 0).isNone, !((s.tm 0).live 0).isEmpty, [2, 3, 4, 5, 7, 8, 9, 10].all (fun k => decide ((debugging k []).dbgcmd? 0 k = some 0)), okay s 6, decide ((s.session 0).map (·.fn) = some 0), (p.2.dbgTeam 0 r).isSome, (s.tm 0).halted, (s.tm 0).handling.isNone,
      r.lenOk, decide (r.space = 1), (match p.2.dbgState 0 (s.tm 0) r with
        | .ok bs => decide (r.len ≤ bs.length) && (match p.2.agentWrite (dbgAgent 0) 1 0 r.buf (bs.take r.len) with | (.ok (), _) => true | _ => false)
            && (match p.2.agentRead (dbgAgent 0) 1 0 r.buf r.len 1 with | (.ok new, v) => (match v.dbgPut 0 (s.tm 0) r bs new with | .ok _ => true | _ => false) | _ => false)
        | _ => false),
      (due.fn 0).dbgDue.isSome, decide (due.dbgcmd? 0 6 = some 0), decide (s.dbgWorld 0 = 1), okay m 7, okay (debugging 6 (readBlock 10)) 6,
      okay plane 6, (match plane.agentRead (dbgAgent 0) 1 0 0x70000 64 with
        | (.ok d, s1) => decide ((reqOf d).space = 11) && (match s1.dbgState 0 (plane.tm 0) (reqOf d) with | .ok bs => decide ((reqOf d).len = 4) && !(bs.drop 3).isEmpty | _ => false) | _ => false),
      okay runs 9, okay { runs with fns := (debugging 4 [] id).fns } 4, !(runs.tm 0).halted, !((runs.tm 0).live 0).isEmpty, okay ended 9, (ended.tm 0).halted, ((ended.tm 0).live 0).isEmpty, worldAllowed 1 { world := (s.launchOf (s.tm 0)).world },
      okay realm 9, !worldAllowed 1 { world := (realm.launchOf (realm.tm 0)).world }, okay (debugging 8 [(0x10, 0x40000), (0x18, 4), (0x28, 0x0703)]) 8,
      (match m.agentRead (dbgAgent 0) 1 0 0x72000 4 1 with | (.ok bs, v) => (match v.agentWrite (dbgAgent 0) 1 0 0x71000 bs with | (.ok (), _) => true | _ => false) | _ => false),
      (match m.agentRead (dbgAgent 0) 1 0 0x71000 4 1 with
        | (.ok bs, v) => decide (v.who = 0) && decide (v.fns = m.fns) && (match v.agentWrite (dbgAgent 0) 1 0 0x72000 bs with | (.ok (), _) => true | _ => false) | _ => false)] = true := by decide +kernel
theorem test_debugger : every [
    (match exec .dbgAttach (debugging 1 [(0x18, 5 * 2 ^ 32)]) with | .next t => some ((t.session 0).map (·.stopMask), ((t.fn 0).dbgcmd.extractLsb' 58 2).toNat) | _ => none) == some (some 5, 0),
    (match exec .dbgStep (debugging 5 []) with | .next t => some ((t.tm 0).stepping, ((t.tm 0).squad 0).run) | _ => none) == some (some 0, .halting 1),
    (match exec .dbgHaltRequest (debugging 9 [] id) with | .next t => some ((t.tm 0).squad 0).causes | _ => none) == some 0x10000000] = true := by decide +kernel


/-! ### Steps, encodings, formats (chapters 1, 7 and 14) -/

/-- Decoding gives the instruction. -/
def gives (x : Except DecodeTrap Instr) (i : Instr) : Bool := match x with | .ok j => decide (j = i) | .error _ => false
/-- Decoding stops at the trap. -/
def stops (x : Except DecodeTrap Instr) (k : DecodeTrap) : Bool := match x with | .ok _ => false | .error e => decide (e = k)

-- an instruction decoded from the latch, an undecodable head, a fetch, a formation that is due, no convoy; an event with and without power
theorem witness_StepRunsTheDecodedInstruction :
    let s := State.reset.withFetchWord 64 (0x001AC041 + 0x04001410 * 2 ^ 32)
    let bad := State.reset.withFetchWord 64 0x3FD
    let t := s.tm 0
    let latch := ((t.squad 0).latch.map fun e => (decide (e.va = blockOf (t.lane 0 0).pc), gives (decode e.bytes ((t.lane 0 0).pc.toNat % 32)) (.iadd ⟨3, true, 0, false⟩ false 1 6 4 5)))
    let wrong := ((bad.tm 0).squad 0).latch.map fun e => stops (decode e.bytes (((bad.tm 0).lane 0 0).pc.toNat % 32)) .undefinedOpcode
    let far := at1 fun th => { th with pc := 0x20000 }
    let amid := s.enterAmid solo (.fence hd0 3 3) []
    every [decide (s.power = .d0), ((t.squad 0).amid?).isNone, (((amid.tm 0).squad 0).amid?.map (·.i)) == some (.fence hd0 3 3), ((amid.tm 0).squad 0).convoy == [0],
      ({ s with power := .d3hot } : State).powered, decide (s.agenda = [.issue 0 0]), (s.teams.find 0).isSome, decide ((t.squad 0).convoy = [0]), decide ((t.squad 0).sinceForm < 4), latch == some (true, true), wrong == some true,
      (((far.tm 0).squad 0).latch.map fun e => decide (e.va ≠ blockOf ((far.tm 0).lane 0 0).pc)) == some true, decide ((((at1 id fun t => t.setSquad 0 { t.squad 0 with sinceForm := 4 }).tm 0).squad 0).sinceForm = 4),
      !bySquad .coldReset, !bySquad .teamRetire, !({ s with power := .off } : State).powered] = true := by decide +kernel
-- R9, R266: the sum guarded by !p3 performs, with tag i32; the next head is 8 bytes on; memory is not touched
theorem test_step_runs : (match step (State.reset.withFetchWord 64 (0x001AC041 + 0x04001410 * 2 ^ 32)) with
    | .next t => some (((t.tm 0).lane 0 0).pc, ((t.tm 0).lane 0 0).reg 6, t.mem, t.agenda.length) | _ => none) = some (0x10008#64, (0, 1), [], 0) := by decide +kernel
theorem witness_EncodedInstructionsDecodeBack :
    ((Instr.iadd ⟨3, true, 0, false⟩ false 1 6 4 5).wellFormed && decide ((encode (.iadd ⟨3, true, 0, false⟩ false 1 6 4 5)).map (·.length) = some 8)
      && (Instr.nopOneParcel hd0).wellFormed && decide (encode (.nopOneParcel hd0) = some [1, 0, 0, 0])) = true := by decide +kernel
-- heads at the edges of a block: a continuation, one that ends past it, the one-parcel NOP, one that just fits
theorem witness_HeadsTrapByLengthAndPlace : every [
    stops (decode (List.replicate 32 0) 0) .misland, stops (decode (List.replicate 28 0 ++ [9, 0, 0, 0]) 28) .fetchBoundary, gives (decode (List.replicate 28 0 ++ [1, 0, 0, 0]) 28) (.nopOneParcel hd0),
    gives (decode (List.replicate 24 0 ++ [1, 0, 0, 0] ++ List.replicate 4 0) 24) (.nop hd0), stops (decode (List.replicate 24 0 ++ [2, 0, 0, 0] ++ List.replicate 4 0) 24) .fetchBoundary] = true := by decide +kernel
-- each format holds a number, and the formats with NaNs a NaN
theorem witness_RoundingKeepsRepresentableValues :
    (([Float.f64, Float.f32, Float.f16, Float.bf16, Float.e4m3, Float.e5m2, Float.e3m2, Float.e2m3, Float.e2m1, Float.e8m0].all fun f => decide (0 < 2 ^ f.width) && !Float.isNan (f.decode 1))
      && decide (Float.f16.decode 0x7E00 = .nan false) && decide (Float.f16.decode 0x7D00 = .nan true)) = true := by decide +kernel
theorem witness_AtomicOperations : ([0, 1, 2, 24, 25, 26].all fun (ty : BitVec 6) => decide (ty.toNat ∈ [0, 1, 2, 24, 25, 26]) && decide (3 < 2 ^ tyWidth ty)) = true := by decide
theorem witness_StepKeepsMemoryCanonical :
    let s := State.reset.withFetchWord 64 1
    (decide (Memory.wf s.mem = true) && match step s with | .next _ => true | _ => false) = true := by decide +kernel
theorem reset_memory_wf : Memory.wf State.reset.mem = true := by decide


end Sys2Proof.Tests
end

section
/-!
PROOF. Handler-only actions outside the handling thread (R250): what a trap of the whole squad leaves in its record and in the
threads of its team, and the causes that `TRAPCLR`, `TRAPRET` and `SWRITE` of `%hpc` raise.
-/
namespace Sys2Proof.Machine

/-! The trap record of an event (R241). -/

/-- The lead of an event is one of its hits. -/
theorem leadHit_mem {hs : List Hit} {g : Hit} (h : leadHit hs = some g) : g ∈ hs := by
  induction hs generalizing g with
  | nil => cases h
  | cons k hs ih =>
    rw [leadHit] at h
    split at h
    · cases h; exact List.mem_cons_self
    · rename_i g' hg'
      split at h
      · cases h; exact List.mem_cons_of_mem _ (ih hg')
      · cases h; exact List.mem_cons_self

/-- Only an event without hits has no lead. -/
theorem leadHit_eq_none {hs : List Hit} : leadHit hs = none ↔ hs = [] := by
  cases hs with
  | nil => simp [leadHit]
  | cons k hs =>
    rw [leadHit]
    split
    · simp
    · split <;> simp

theorem getLsbD_foldl_mask (hs : List Hit) (w : Word) (k : Nat) :
    (hs.foldl (fun w h => w ||| h.c.mask) w).getLsbD k = (w.getLsbD k || hs.any fun h => h.c.mask.getLsbD k) := by
  induction hs generalizing w with
  | nil => simp
  | cons h hs ih => rw [List.foldl_cons, ih, BitVec.getLsbD_or, List.any_cons, Bool.or_assoc]

/-- The bitmap of an event holds the bits of its causes. -/
theorem getLsbD_bitmap (hs : List Hit) (k : Nat) : (bitmap hs).getLsbD k = hs.any fun h => h.c.mask.getLsbD k := by
  rw [bitmap, getLsbD_foldl_mask]; simp

/-- The first event since the bitmap was zero gives the record its detail. -/
theorem Squad.record_detail {q : Squad} (hq : q.causes = 0) {hs : List Hit} (hne : hs ≠ []) {d : Word}
    (hd : ∀ h ∈ hs, h.detail = d) (pc : Dword) (code : Word) : (q.record pc hs code).detail = d := by
  unfold Squad.record
  split
  · rename_i h
    exact absurd (leadHit_eq_none.mp h) hne
  · rename_i g hg
    have hgd : g.detail = d := hd g (leadHit_mem hg)
    simp only [hq, if_true]
    split <;> exact hgd

/-! A squad that takes an event stops, and its team halts (R243). -/

/-- A team as it was, but for what stopping a squad changes: run, convoy and lone issue of that squad, and skids of threads. -/
structure Team.Stops (t u : Team) (q : Nat) : Prop where
  squad : ∃ r c l, u.squad q = { t.squad q with run := r, convoy := c, lone := l }
  thread : ∀ tid, ∃ n, u.thread tid = { t.thread tid with skid := n }

@[simp] theorem Team.thread_halt (t : Team) (tid : Nat) : t.halt.thread tid = t.thread tid := rfl

/-- A team that begins to halt changes whether its squads run. -/
theorem Team.squad_halt (t : Team) (q : Nat) : ∃ r, t.halt.squad q = { t.squad q with run := r } := by
  simp only [Team.squad, Team.halt, List.getD_eq_getElem?_getD, List.getElem?_map]
  cases t.squads[q]? with
  | none => exact ⟨_, rfl⟩
  | some x =>
    dsimp only [Option.map_some, Option.getD_some]
    split <;> exact ⟨_, rfl⟩

/-- A squad that ceases to issue. -/
theorem State.cease_stops {s : State} {key : Nat} {t : Team} (ht : s.teams.find key = some t) (q : Nat) :
    ∃ u, (s.cease key q).teams.find key = some u ∧ t.Stops u q := by
  obtain ⟨-, hsq, -, hth⟩ := State.fixSkids_spec s t q
  unfold State.cease
  rw [State.tm_of_find ht]
  dsimp only
  split
  · exact ⟨t, ht, ⟨_, _, _, rfl⟩, fun _ => ⟨_, rfl⟩⟩
  · refine ⟨_, by rw [State.find_setTm, if_pos rfl], ?_, fun tid => ?_⟩
    · rw [Team.squad_setSquad]
      split
      · exact ⟨_, _, _, rfl⟩
      · simp only [Team.squad, hsq]; exact ⟨_, _, _, rfl⟩
    · obtain ⟨n, hn, -⟩ := hth tid
      exact ⟨n, hn⟩

/-- An event of a squad of a running team: the squad takes it into its record and stops; every thread stays but for its skid. -/
theorem State.raise_stops {s : State} {key : Nat} {t : Team} (ht : s.teams.find key = some t) (hp : t.phase = .running)
    {hs : List Hit} (hne : hs ≠ []) (q : Nat) (pc : Dword) (code : Word) (own : Bool) :
    (t.setSquad q ((t.squad q).record pc hs code)).Stops ((s.raise key q pc hs code own).tm key) q := by
  rw [State.raise_running ht hp hne]
  obtain ⟨u, hu, ⟨r, c, l, hsq⟩, hth⟩ := State.cease_stops
    (s := s.setTm key { t.setSquad q ((t.squad q).record pc hs code) with held := t.held || (s.stopMask t &&& bitmap hs) != 0 })
    (by rw [State.find_setTm, if_pos rfl]) q
  rw [State.tm_onTm hu, if_pos rfl]
  obtain ⟨r', hr'⟩ := Team.squad_halt u q
  exact ⟨⟨r', c, l, by rw [hr', hsq]; rfl⟩, hth⟩

/-- A trap of a squad of a running team: the record takes the event, and no lane is left to issue again alone. -/
theorem State.trapAt_stops {s : State} {x : Convoy} {t : Team} (ht : s.teams.find x.key = some t) (hp : t.phase = .running)
    (hq : x.q < t.squads.length) {hs : List Hit} (hne : hs ≠ []) :
    (t.setSquad x.q (Squad.record { t.squad x.q with replay := [] } x.pc hs 0)).Stops ((s.trapAt x hs).tm x.key) x.q := by
  have h := State.raise_stops (t := t.setSquad x.q { t.squad x.q with replay := [] })
    (s := s.setTm x.key (t.setSquad x.q { t.squad x.q with replay := [] })) (by rw [State.find_setTm, if_pos rfl]) hp hne x.q x.pc 0 (s.inHandler x.key)
  rw [Team.squad_setSquad, if_pos ⟨rfl, hq⟩] at h
  unfold State.trapAt
  rw [State.onTm_eq ht]
  simpa only [Team.setSquad, List.set_set] using h

/-- An instruction whose issue has causes of its own traps the squad with these. -/
theorem State.issue_trapAt {s : State} {i : Instr} {x : Convoy} (hr : Ready s i x) {causes : State → Convoy → List Hit}
    (body : State → Convoy → State) (hc : causes s x ≠ []) : s.issue i causes body = s.trapAt x (causes s x) := by
  obtain ⟨hslot, hamid, hstall, hdec⟩ := hr
  unfold State.issue
  simp [hslot, hamid, hstall, hdec, hc]

/-! The refusal of a handler-only action (R250). -/

/-- `PERMISSION` with detail 8 in a lane. -/
def permissionHit (ln : Nat) : Hit := { ln, c := .permission, detail := 8 }

/-- `PERMISSION` is bit 9 (R240). -/
theorem permissionHit_mask (ln : Nat) : (permissionHit ln).c.mask.getLsbD 9 = true :=
  show Cause.permission.mask.getLsbD 9 = true by decide

/-- Causes lane by lane that charge each lane other than the handling thread with `PERMISSION` of detail 8, and with nothing else. -/
def Refuses (s : State) (x : Convoy) (f : Nat → List Hit) : Prop :=
  ∀ ln, (s.tm x.key).handling ≠ some (x.q, ln) → f ln = [permissionHit ln]

section
variable {s : State} {x : Convoy} {f : Nat → List Hit}

theorem Refuses.permissionHit_mem (hf : Refuses s x f) {ln : Nat} (hl : ln ∈ x.act)
    (hn : (s.tm x.key).handling ≠ some (x.q, ln)) : permissionHit ln ∈ x.act.flatMap f :=
  List.mem_flatMap.mpr ⟨ln, hl, by rw [hf ln hn]; exact List.mem_singleton_self _⟩

/-- Without a handling thread there are no other causes. -/
theorem Refuses.eq_permissionHit (hf : Refuses s x f) (hn : (s.tm x.key).handling = none) {h : Hit} (hh : h ∈ x.act.flatMap f) :
    ∃ ln, h = permissionHit ln := by
  obtain ⟨ln, -, hl⟩ := List.mem_flatMap.mp hh
  rw [hf ln (by simp [hn])] at hl
  exact ⟨ln, List.mem_singleton.mp hl⟩

/-- Where such causes meet an active lane that is not the handling thread, the instruction traps with them and does not act. -/
theorem Refuses.exec_trapAt (hf : Refuses s x f) {i : Instr} (hr : Ready s i x)
    (hx : ∃ ln ∈ x.act, (s.tm x.key).handling ≠ some (x.q, ln)) {causes : State → Convoy → List Hit} {body : State → Convoy → State}
    (hc : causes s x = x.act.flatMap f) (he : exec i s = .next (s.issue i causes body)) :
    exec i s = .next (s.trapAt x (x.act.flatMap f)) := by
  obtain ⟨ln, hl, hn⟩ := hx
  have hne : causes s x ≠ [] := hc ▸ List.ne_nil_of_mem (hf.permissionHit_mem hl hn)
  rw [he, State.issue_trapAt hr body hne, hc]

end

/-- The causes of `TRAPCLR` and of each `TRAPRET`. -/
theorem refuses_handlerOnly (s : State) (x : Convoy) :
    Refuses s x fun ln => if (s.tm x.key).handling == some (x.q, ln) then [] else [permissionHit ln] :=
  fun ln hn => by simp [hn]

/-- The causes of `SWRITE` of `%hpc`. -/
theorem refuses_swriteHpc (s : State) (x : Convoy) (b : BitVec 8) :
    Refuses s x fun ln => swriteHits 0x37 b ((s.tm x.key).handling == some (x.q, ln)) ln ((s.tm x.key).lane x.q ln) :=
  fun ln hn => by simp only [beq_false_of_ne hn]; rfl

/-- A handler-only instruction of a convoy with an active lane that is not the handling thread traps, and does not act. -/
theorem exec_handlerOnly_trapAt {s : State} {x : Convoy} {h : Hd} {a b : BitVec 8} {i : Instr}
    (hi : i ∈ ([.trapclr h a, .trapretResume h, .trapretKill h, .trapretKillsig h, .swrite h 0x37 b] : List Instr))
    (hr : Ready s i x) (hx : ∃ ln ∈ x.act, (s.tm x.key).handling ≠ some (x.q, ln)) :
    ∃ f, Refuses s x f ∧ exec i s = .next (s.trapAt x (x.act.flatMap f)) := by
  simp only [List.mem_cons, List.not_mem_nil, or_false] at hi
  have hf := refuses_handlerOnly s x
  rcases hi with rfl | rfl | rfl | rfl | rfl
  · exact ⟨_, hf, hf.exec_trapAt hr hx rfl rfl⟩
  · exact ⟨_, hf, hf.exec_trapAt hr hx rfl rfl⟩
  · exact ⟨_, hf, hf.exec_trapAt hr hx rfl rfl⟩
  · exact ⟨_, hf, hf.exec_trapAt hr hx rfl rfl⟩
  · have hf := refuses_swriteHpc s x b
    exact ⟨_, hf, hf.exec_trapAt hr hx rfl rfl⟩

/-- Settles O45: the causes of the issue charge every offending lane, so the squad traps and the body does not run; where the team is
not handling, no other cause stands beside them. -/
theorem handlerOnlyActions : Obligations.HandlerOnlyActions := by
  unfold Obligations.HandlerOnlyActions
  intro s x h a b i hi hr hx
  obtain ⟨f, hf, he⟩ := exec_handlerOnly_trapAt hi hr hx
  obtain ⟨ln, hl, hn⟩ := hx
  have hmem : permissionHit ln ∈ x.act.flatMap f := hf.permissionHit_mem hl hn
  have hne : x.act.flatMap f ≠ [] := List.ne_nil_of_mem hmem
  refine ⟨x.act.flatMap f, he, fun _ => hf.permissionHit_mem, fun hp => ?_⟩
  obtain ⟨t, ht, hmay, -, -⟩ := State.slot_spec hr.1 hr.2.1
  rw [State.tm_of_find ht] at hp ⊢
  have hnone : (s.tm x.key).handling = none := by rw [State.tm_of_find ht, Team.handling, hp]
  have hq : x.q < t.squads.length := Team.mayIssue_lt hmay
  obtain ⟨⟨r, c, l, hsq⟩, hth⟩ := State.trapAt_stops ht hp hq hne
  rw [Team.squad_setSquad, if_pos ⟨rfl, hq⟩] at hsq
  refine ⟨?_, fun h0 => ?_, fun tid => ?_⟩
  · have hbit : (bitmap (x.act.flatMap f)).getLsbD 9 = true := by
      rw [getLsbD_bitmap]
      exact List.any_eq_true.mpr ⟨_, hmem, permissionHit_mask ln⟩
    rw [hsq, Squad.record_causes _ _ _ _ hne, BitVec.getLsbD_or, hbit, Bool.or_true]
  · rw [hsq]
    refine Squad.record_detail (q := { t.squad x.q with replay := [] }) h0 hne (fun g hg => ?_) x.pc 0
    obtain ⟨k, rfl⟩ := hf.eq_permissionHit hnone hg
    rfl
  · obtain ⟨n, hskid⟩ := hth tid
    rw [hskid]
    exact ⟨rfl, rfl⟩

end Sys2Proof.Machine
end

section
/-!
PROOF. The formats with infinities and signalling NaNs (R130, R134, R142): a code read by its fields, its class (R313), its exact
rounding (R139 to R143), and minimumNumber and maximumNumber of two codes (R310).
-/
namespace Sys2Proof.Float

/-- A signed format under the IEEE policy with signalling NaNs, as every float type FT has (R267). -/
structure Fmt.Binary (f : Fmt) : Prop where
  sign : f.sign = true
  policy : f.policy = .ieee
  binary : f.binary = true
  e8m0 : f.e8m0 = false

/-- The sign of a code. -/
def Fmt.signOf (f : Fmt) (c : Nat) : Bool := decide (c / 2 ^ (f.eb + f.mb) % 2 = 1)
/-- The exponent field of a code. -/
def Fmt.expOf (f : Fmt) (c : Nat) : Nat := c / 2 ^ f.mb % 2 ^ f.eb
/-- The mantissa field of a code. -/
def Fmt.manOf (f : Fmt) (c : Nat) : Nat := c % 2 ^ f.mb

theorem Fmt.expOf_lt (f : Fmt) (c : Nat) : f.expOf c < 2 ^ f.eb := Nat.mod_lt _ (Nat.two_pow_pos _)
theorem Fmt.manOf_lt (f : Fmt) (c : Nat) : f.manOf c < 2 ^ f.mb := Nat.mod_lt _ (Nat.two_pow_pos _)

/-- The magnitude's code is made of the exponent and the mantissa. -/
theorem Fmt.mod_mags (f : Fmt) (c : Nat) : c % f.mags = f.expOf c * 2 ^ f.mb + f.manOf c := by
  unfold Fmt.mags Fmt.expOf Fmt.manOf
  rw [Nat.add_comm f.eb, Nat.pow_add, Nat.mod_mul, Nat.mul_comm, Nat.add_comm]

theorem Fmt.mod_mags_div (f : Fmt) (c : Nat) : c % f.mags / 2 ^ f.mb = f.expOf c := by
  rw [f.mod_mags, Nat.mul_comm, Nat.mul_add_div (Nat.two_pow_pos _), Nat.div_eq_of_lt (f.manOf_lt c), Nat.add_zero]

theorem Fmt.mod_mags_mod (f : Fmt) (c : Nat) : c % f.mags % 2 ^ f.mb = f.manOf c := by
  rw [f.mod_mags, Nat.mul_comm, Nat.mul_add_mod, Nat.mod_eq_of_lt (f.manOf_lt c)]

section
variable {f : Fmt} (hf : f.Binary)
include hf

/-- What a code means, by its fields. -/
theorem Fmt.Binary.decode_eq (c : Nat) : f.decode c =
    if f.expOf c = 2 ^ f.eb - 1 then (if f.manOf c = 0 then .inf (f.signOf c) else .nan (f.manOf c < 2 ^ (f.mb - 1)))
    else if f.expOf c = 0 then .fin (f.signOf c) (f.manOf c) (f.emin - f.mb)
    else .fin (f.signOf c) (2 ^ f.mb + f.manOf c) (f.expOf c - f.bias - f.mb) := by
  unfold Fmt.decode
  simp only [hf.e8m0, hf.sign, hf.policy, hf.binary, f.mod_mags_div, f.mod_mags_mod, Bool.true_and, true_and, Bool.false_eq_true,
    if_false, reduceCtorEq, false_and]
  rfl

theorem Fmt.Binary.emin_eq : f.emin = 1 - f.bias := by simp [Fmt.emin, hf.e8m0]

end

/-- The leading bit of a normal number's significand. -/
theorem log2_normal {m b : Nat} (h : m < 2 ^ b) : Nat.log2 (2 ^ b + m) = b := by
  rw [Nat.log2_eq_iff (by have := Nat.two_pow_pos b; omega), Nat.pow_succ]; omega

/-- The leading bit of a subnormal number's significand. -/
theorem log2_subnormal {m b : Nat} (h0 : m ≠ 0) (h : m < 2 ^ b) : Nat.log2 m < b := (Nat.log2_lt h0).mpr h

/-- The class bit of R313 by the fields of a code. -/
theorem Fmt.Binary.classBit_decode {f : Fmt} (hf : f.Binary) (c : Nat) : classBit f (f.decode c) =
    if f.expOf c = 2 ^ f.eb - 1 then
      (if f.manOf c = 0 then (if f.signOf c then 0 else 7) else if f.manOf c < 2 ^ (f.mb - 1) then 8 else 9)
    else if f.expOf c = 0 then (if f.manOf c = 0 then (if f.signOf c then 3 else 4) else if f.signOf c then 2 else 5)
    else if f.signOf c then 1 else 6 := by
  have hm := f.manOf_lt c
  rw [hf.decode_eq]
  by_cases hs : f.expOf c = 2 ^ f.eb - 1
  · rw [if_pos hs, if_pos hs]
    by_cases h0 : f.manOf c = 0 <;> simp [h0, classBit]
  rw [if_neg hs, if_neg hs]
  by_cases he : f.expOf c = 0
  · rw [if_pos he, if_pos he]
    by_cases h0 : f.manOf c = 0
    · simp [h0, classBit]
    · have hlead : (Nat.log2 (f.manOf c) : Int) + (f.emin - f.mb) < f.emin := by have := log2_subnormal h0 hm; omega
      simp [h0, classBit, hlead]
  · rw [if_neg he, if_neg he]
    have h0 : 2 ^ f.mb + f.manOf c ≠ 0 := by have := Nat.two_pow_pos f.mb; omega
    have hlead : ¬ ((Nat.log2 (2 ^ f.mb + f.manOf c) : Int) + (f.expOf c - f.bias - f.mb) < f.emin) := by
      rw [log2_normal hm, hf.emin_eq]; omega
    simp only [classBit, h0, hlead, if_false]

/-! Rounding a value that the format holds (R139 to R143). -/

/-- A value without a part to cut off is not rounded up in any mode. -/
theorem roundsUp_exact (rm : Rm) (neg : Bool) (lo : Nat) : roundsUp rm neg lo 0 0 false = false := by
  cases rm <;> simp [roundsUp]

/-- A value whose last place is the format's own takes the code of its magnitude, without a flag. -/
theorem Fmt.Binary.roundFinite_exact {f : Fmt} (hf : f.Binary) (rm : Rm) (sat neg : Bool) {m : Nat} {e : Int} {k : Nat}
    (hq : max ((Nat.log2 m : Int) + e) f.emin - f.mb = e)
    (hk : (if m < 2 ^ f.mb then m else (e + f.mb + f.bias).toNat * 2 ^ f.mb + (m - 2 ^ f.mb)) = k) (hmax : k ≤ f.maxCode) :
    f.roundFinite rm sat ⟨neg, m, e, false⟩ = (f.code neg k, 0) := by
  have htop : max ((Nat.log2 m : Int) + e) f.emin = e + f.mb := by omega
  have hbeyond : ¬ (f.maxCode < k) := by omega
  unfold Fmt.roundFinite
  simp only [hf.sign, hf.e8m0, htop, Bool.not_true, Bool.and_false, Bool.false_and, Bool.false_eq_true, if_false, Int.add_sub_cancel,
    Int.sub_self, Int.toNat_zero, pow2, Nat.pow_zero, Nat.mul_one, Nat.div_one, Nat.mod_one, hk, roundsUp_exact, ne_eq, not_true_eq_false,
    decide_false, Bool.or_self]
  cases rm <;> simp [hbeyond]

/-- The code of a sign and a magnitude. -/
theorem Fmt.Binary.code_eq {f : Fmt} (hf : f.Binary) (neg : Bool) (mag : Nat) : f.code neg mag = neg.toNat * f.mags + mag := by
  cases neg <;> simp [Fmt.code, hf.sign, hf.policy]

/-- A code is made of its sign and its fields. -/
theorem Fmt.Binary.code_fields {f : Fmt} (hf : f.Binary) {c : Nat} (hc : c < 2 ^ f.width) :
    f.code (f.signOf c) (f.expOf c * 2 ^ f.mb + f.manOf c) = c := by
  have hwidth : 2 ^ f.width = f.mags * 2 := by
    simp only [Fmt.width, hf.sign, Bool.toNat_true, Fmt.mags]; rw [Nat.add_assoc, Nat.add_comm, Nat.pow_succ]
  have hquot : c / f.mags < 2 := Nat.div_lt_of_lt_mul (hwidth ▸ hc)
  have hsign : (f.signOf c).toNat = c / f.mags := by
    show (decide (c / f.mags % 2 = 1)).toNat = _
    rw [Nat.mod_eq_of_lt hquot]
    match c / f.mags, hquot with
    | 0, _ => rfl
    | 1, _ => rfl
  rw [hf.code_eq, ← f.mod_mags, hsign, Nat.mul_comm, Nat.div_add_mod]

/-- The magnitude of a finite code is no larger than the largest. -/
theorem Fmt.Binary.le_maxCode {f : Fmt} (hf : f.Binary) {c : Nat} (hs : f.expOf c ≠ 2 ^ f.eb - 1) :
    f.expOf c * 2 ^ f.mb + f.manOf c ≤ f.maxCode := by
  have hm := f.manOf_lt c
  have he : f.expOf c + 1 ≤ 2 ^ f.eb - 1 := by have := f.expOf_lt c; omega
  have hmul : (f.expOf c + 1) * 2 ^ f.mb ≤ (2 ^ f.eb - 1) * 2 ^ f.mb := Nat.mul_le_mul_right _ he
  have hmax : f.maxCode = (2 ^ f.eb - 1) * 2 ^ f.mb - 1 := by simp [Fmt.maxCode, hf.e8m0, hf.policy]
  rw [Nat.succ_mul] at hmul
  omega

/-- Rounding an infinity. -/
theorem Fmt.Binary.round_inf {f : Fmt} (hf : f.Binary) (rm : Rm) (sat neg : Bool) :
    f.round rm sat (.inf neg) = (f.code neg ((2 ^ f.eb - 1) * 2 ^ f.mb), 0) := by
  simp [Fmt.round, Fmt.hasInf, Fmt.infCode, hf.sign, hf.policy, hf.e8m0]

/-- Rounding a zero keeps its sign. -/
theorem Fmt.Binary.round_zero {f : Fmt} (hf : f.Binary) (rm : Rm) (sat neg : Bool) (e : Int) :
    f.round rm sat (.fin neg 0 e) = (f.code neg 0, 0) := by
  simp [Fmt.round, hf.e8m0]

/-- Rounding a NaN gives the canonical one (R142). -/
theorem Fmt.Binary.round_nan {f : Fmt} (hf : f.Binary) (rm : Rm) (sat : Bool) :
    ∃ c, f.nan? = some c ∧ f.round rm sat (.nan false) = (c, 0) := by
  simp [Fmt.round, Fmt.nan?, hf.e8m0, hf.policy]

/-- Rounding gives a code that is no NaN back, without a flag, in every mode. -/
theorem Fmt.Binary.round_decode {f : Fmt} (hf : f.Binary) (rm : Rm) (sat : Bool) {c : Nat} (hc : c < 2 ^ f.width)
    (hn : isNan (f.decode c) = false) : f.round rm sat (f.decode c) = (c, 0) := by
  have hm := f.manOf_lt c
  have hcode := hf.code_fields hc
  rw [hf.decode_eq] at hn ⊢
  by_cases hs : f.expOf c = 2 ^ f.eb - 1
  · rw [if_pos hs] at hn ⊢
    by_cases h0 : f.manOf c = 0
    · rw [hs, h0, Nat.add_zero] at hcode
      rw [if_pos h0, hf.round_inf, hcode]
    · rw [if_neg h0] at hn; cases hn
  have hmax := hf.le_maxCode hs
  rw [if_neg hs]
  by_cases he : f.expOf c = 0
  · rw [he, Nat.zero_mul, Nat.zero_add] at hcode hmax
    rw [if_pos he]
    by_cases h0 : f.manOf c = 0
    · rw [h0] at hcode ⊢
      rw [hf.round_zero, hcode]
    · have hlead := log2_subnormal h0 hm
      rw [Fmt.round, if_neg h0, hf.roundFinite_exact rm sat _ (by omega) (if_pos hm) hmax, hcode]
  · have h0 : 2 ^ f.mb + f.manOf c ≠ 0 := by omega
    have hk : (if 2 ^ f.mb + f.manOf c < 2 ^ f.mb then 2 ^ f.mb + f.manOf c
        else ((f.expOf c - f.bias - f.mb : Int) + f.mb + f.bias).toNat * 2 ^ f.mb + (2 ^ f.mb + f.manOf c - 2 ^ f.mb)) =
        f.expOf c * 2 ^ f.mb + f.manOf c := by
      rw [if_neg (by omega), Nat.add_sub_cancel_left]
      congr 2; omega
    have hq : max ((Nat.log2 (2 ^ f.mb + f.manOf c) : Int) + (f.expOf c - f.bias - f.mb)) f.emin - f.mb = f.expOf c - f.bias - f.mb := by
      rw [log2_normal hm, hf.emin_eq]; omega
    rw [if_neg he, Fmt.round, if_neg h0, hf.roundFinite_exact rm sat _ hq hk hmax, hcode]

/-! minimumNumber and maximumNumber (R310). -/

/-- The order of R310: −0 comes before +0. -/
def before (a b : XNum) : Bool := if isZero a && isZero b then isNeg a && !isNeg b else lt a b

theorem lt_asymm {a b : XNum} (h : lt a b = true) : lt b a = false := by
  cases a <;> cases b <;> simp only [lt, Bool.false_eq_true, Bool.and_eq_true, Bool.not_eq_true', decide_eq_true_eq] at h ⊢
  · simp [h]
  · simp [h]
  · simp [h]
  · rename_i n1 m1 e1 n2 m2 e2
    rw [Int.min_comm e2 e1]
    simp only [decide_eq_false_iff_not]
    omega

theorem before_asymm {a b : XNum} (h : before a b = true) : before b a = false := by
  unfold before at h ⊢
  rw [Bool.and_comm (isZero b)]
  split at h
  · rename_i hz
    rw [if_pos hz]
    simp only [Bool.and_eq_true, Bool.not_eq_true'] at h
    simp [h]
  · rename_i hz
    rw [if_neg hz]
    exact lt_asymm h

theorem before_irrefl (a : XNum) : before a a = false := by
  cases h : before a a with
  | false => rfl
  | true => exact h.symm.trans (before_asymm h)

/-- One of two values is the smaller, or with `isMax` the larger, in the order of R310. -/
def Selects (isMax : Bool) (a b c : XNum) : Prop :=
  (c = a ∨ c = b) ∧ if isMax then before c a = false ∧ before c b = false else before a c = false ∧ before b c = false

theorem Selects.left {isMax : Bool} {a b : XNum} (h : (if isMax then before a b else before b a) = false) : Selects isMax a b a := by
  refine ⟨.inl rfl, ?_⟩
  cases isMax <;> exact ⟨before_irrefl a, h⟩

theorem Selects.right {isMax : Bool} {a b : XNum} (h : (if isMax then before b a else before a b) = false) : Selects isMax a b b := by
  refine ⟨.inr rfl, ?_⟩
  cases isMax <;> exact ⟨h, before_irrefl b⟩

/-- Of two numbers the result is the selected one; where both are zeros it is a zero of the selected sign. -/
theorem minmax_number (isMax : Bool) {a b : XNum} (ha : isNan a = false) (hb : isNan b = false) :
    ∃ c, Selects isMax a b c ∧ ((minmax isMax a b).1 = c ∨ isZero c = true ∧ (minmax isMax a b).1 = .fin (isNeg c) 0 0) := by
  by_cases hz : (isZero a && isZero b) = true
  · have hbefore (u v : XNum) (h : (isZero u && isZero v) = true) : before u v = (isNeg u && !isNeg v) := if_pos h
    have hab := hbefore a b hz
    have hba := hbefore b a (by rwa [Bool.and_comm])
    simp only [Bool.and_eq_true] at hz
    have hval : (minmax isMax a b).1 = .fin (if isMax then isNeg a && isNeg b else isNeg a || isNeg b) 0 0 := by
      simp [minmax, ha, hb, hz]
    by_cases hs : isNeg a = isMax
    · subst hs
      refine ⟨b, .right ?_, .inr ⟨hz.2, hval.trans ?_⟩⟩
      all_goals cases h : isNeg a <;> simp [hab, hba, h]
    · obtain rfl : isMax = !isNeg a := by cases isMax <;> simpa using hs
      refine ⟨a, .left ?_, .inr ⟨hz.1, hval.trans ?_⟩⟩
      all_goals cases h : isNeg a <;> simp [hab, hba, h]
  · have hab : before a b = lt a b := if_neg hz
    have hval : (minmax isMax a b).1 = if lt a b then (if isMax then b else a) else (if isMax then a else b) := by
      simp only [minmax, ha, hb, hz, Bool.false_eq_true, if_false]
    rw [← hab] at hval
    refine ⟨_, ?_, .inl rfl⟩
    rw [hval]
    cases h : before a b with
    | true =>
      have hba := before_asymm h
      cases isMax
      · exact .left hba
      · exact .right hba
    | false =>
      cases isMax
      · exact .right h
      · exact .left h

/-- A code that R310 gives for two operands: the canonical NaN for two NaNs, the operand beside a NaN, the selected one of two numbers. -/
structure Fmt.MinmaxCode (f : Fmt) (isMax : Bool) (ca cb r : Nat) : Prop where
  nan_nan : isNan (f.decode ca) = true → isNan (f.decode cb) = true → some r = f.nan?
  nan_number : isNan (f.decode ca) = true → isNan (f.decode cb) = false → r = cb
  number_nan : isNan (f.decode ca) = false → isNan (f.decode cb) = true → r = ca
  number_number : isNan (f.decode ca) = false → isNan (f.decode cb) = false →
    (r = ca ∨ r = cb) ∧ Selects isMax (f.decode ca) (f.decode cb) (f.decode r)

/-- Rounding the result of minimumNumber or maximumNumber of two codes gives such a code, without a flag. -/
theorem Fmt.Binary.round_minmax {f : Fmt} (hf : f.Binary) (isMax : Bool) (rm : Rm) (sat : Bool) {ca cb : Nat} (ha : ca < 2 ^ f.width)
    (hb : cb < 2 ^ f.width) :
    ∃ r, f.round rm sat (minmax isMax (f.decode ca) (f.decode cb)).1 = (r, 0) ∧ f.MinmaxCode isMax ca cb r := by
  cases hna : isNan (f.decode ca) <;> cases hnb : isNan (f.decode cb)
  case true.true =>
    obtain ⟨c, hc, hr⟩ := hf.round_nan rm sat
    exact ⟨c, by simpa [minmax, hna, hnb] using hr, by constructor <;> simp [hna, hnb, hc]⟩
  case true.false =>
    exact ⟨cb, by simpa [minmax, hna, hnb] using hf.round_decode rm sat hb hnb, by constructor <;> simp [hna, hnb]⟩
  case false.true =>
    exact ⟨ca, by simpa [minmax, hna, hnb] using hf.round_decode rm sat ha hna, by constructor <;> simp [hna, hnb]⟩
  case false.false =>
    obtain ⟨c, hsel, hval⟩ := minmax_number isMax hna hnb
    obtain ⟨r, hr, hrc, hround⟩ : ∃ r, (r = ca ∨ r = cb) ∧ f.decode r = c ∧ f.round rm sat c = (r, 0) := by
      obtain rfl | rfl := hsel.1
      · exact ⟨ca, .inl rfl, rfl, hf.round_decode rm sat ha hna⟩
      · exact ⟨cb, .inr rfl, rfl, hf.round_decode rm sat hb hnb⟩
    refine ⟨r, ?_, by simp [hna], by simp [hna], by simp [hnb], fun _ _ => ⟨hr, hrc ▸ hsel⟩⟩
    obtain hval | ⟨hz, hval⟩ := hval
    · rw [hval, hround]
    · rw [hval, ← hround]
      match c, hz with
      | .fin n m e, hz =>
        obtain rfl : m = 0 := by simpa [isZero] using hz
        rw [hf.round_zero, hf.round_zero]; rfl

end Sys2Proof.Float
end

section
/-!
PROOF. `FCLASS` (R313): the class bit of an operand's code, and its write in each active lane.
-/
namespace Sys2Proof.Machine

/-- Every float type FT has a format with infinities and signalling NaNs (R267). -/
theorem ftFmt_binary (ft : BitVec 3) : (ftFmt ft).Binary := by
  unfold ftFmt
  split <;> exact ⟨rfl, rfl, rfl, rfl⟩

/-- A lane whose sources hold accepted tags performs. -/
theorem LaneOut.checked_true (ln : Nat) (th : Thread) (o : LaneOut) : LaneOut.checked true ln th o = o := rfl

/-- Lookahead windows are no part of what a register write changes. -/
theorem Thread.setReg_windows_comm (th : Thread) (r : BitVec 8) (v : Word) (g : Tag) (w : List Window) :
    ({ th with windows := w } : Thread).setReg r v g = { th.setReg r v g with windows := w } := by
  unfold Thread.setReg; split <;> rfl

/-- Settles O16: in each active lane the value of the operand is that of its fields, so its class is the one that they tell. -/
theorem classMaskIsWritten : Obligations.ClassMaskIsWritten := by
  unfold Obligations.ClassMaskIsWritten
  intro s x h ft rm d a F bit hr htag
  have hbit (c : Nat) : Float.classBit F (F.decode c) = bit c := by
    refine ((ftFmt_binary ft).classBit_decode c).trans ?_
    simp only [Float.Fmt.signOf, decide_eq_true_eq]
    rfl
  refine State.acts_of_lanewise hr rfl fun ln hl u _ w => ?_
  have htag : ({ (s.tm x.key).lane x.q ln with windows := w } : Thread).ftTagged ft a = true := htag ln hl
  rw [htag, LaneOut.checked_true]
  refine ⟨rfl, rfl, w, ?_⟩
  rw [← hbit]
  exact Thread.setReg_windows_comm ..

end Sys2Proof.Machine
end

section
/-!
PROOF. Writing a fault-log record leaves the teams (R254, R255), and so the kill of a team changes its own threads and squads alone
(R253).
-/
namespace Sys2Proof.Machine

/-- What every change of a fold leaves, the fold leaves. -/
theorem foldl_keeps {σ α β : Type} {g : σ → β} {f : σ → α → σ} (hf : ∀ s a, g (f s a) = g s) (l : List α) (s : σ) :
    g (l.foldl f s) = g s := by
  induction l generalizing s with
  | nil => rfl
  | cons a as ih => rw [List.foldl_cons, ih, hf]

/-- A fold of changes that each leave the teams leaves the teams. -/
theorem State.foldl_teams {α : Type} {f : State → α → State} (hf : ∀ s a, (f s a).teams = s.teams) (l : List α) (s : State) :
    (l.foldl f s).teams = s.teams := foldl_keeps (g := State.teams) hf l s

/-! Messages to other devices (R15, R19, R22). -/

theorem State.sendFlit_teams (s : State) (k : Nat) (kind : FlitKind) (ms : List FabMsg) (tag part : Nat) :
    (s.sendFlit k kind ms tag part).teams = s.teams := by
  unfold State.sendFlit
  generalize (s.port k).flit kind ms part = f
  dsimp only
  split <;> rfl

@[simp] theorem State.protect_teams (s : State) (ch : Nat) (m : FabMsg) : (s.protect ch m).2.teams = s.teams := rfl

theorem State.sendMsg_teams (s : State) (k dev : Nat) (m : FabMsg) (tag : Nat) : (s.sendMsg k dev m tag).teams = s.teams := by
  have hp : (if shielded (s.port k) m.world then s.protect (channel (s.port k) dev) m else (m, s)).2.teams = s.teams := by
    split
    · exact State.protect_teams ..
    · rfl
  unfold State.sendMsg
  dsimp only
  generalize (if shielded (s.port k) m.world then s.protect (channel (s.port k) dev) m else (m, s)) = r at hp
  split
  · exact hp
  · exact (State.foldl_teams (fun _ _ => State.sendFlit_teams ..) _ _).trans hp

theorem State.sendReq_teams {s t : State} {ctx dev : Nat} {m : FabMsg} {wr : Bool} {tag : Nat}
    (h : s.sendReq ctx dev m wr tag = .ok t) : t.teams = s.teams := by
  unfold State.sendReq at h
  split at h
  · cases h
  split at h
  · cases h
  dsimp only at h
  split at h
  · cases h
  · cases h; rw [State.sendMsg_teams]; split <;> rfl

/-! Releases of agents off the cores (R25, R26). -/

theorem State.sendFences_teams (s : State) (r : Release) : (s.sendFences r).2.teams = s.teams := by
  unfold State.sendFences
  exact State.foldl_teams (by intro s k; exact State.sendFlit_teams ..) _ _

theorem State.sendMarkers_teams (s : State) (r : Release) : (s.sendMarkers r).2.teams = s.teams := by
  unfold State.sendMarkers
  exact State.foldl_teams (by intro s d; exact State.foldl_teams (by intro s m; rfl) _ s) _ _

theorem State.pumpRelease_teams (s : State) (r : Release) : (s.pumpRelease r).2.teams = s.teams := by
  unfold State.pumpRelease
  dsimp only
  split
  · rfl
  split
  · have hfences := State.sendFences_teams s
    split
    · exact (State.sendMarkers_teams ..).trans (hfences _)
    · exact hfences _
  · split
    · exact State.sendMarkers_teams ..
    · rfl

theorem State.agentRelease_teams (s : State) (agent ctx scope : Nat) : (s.agentRelease agent ctx scope).2.teams = s.teams := by
  unfold State.agentRelease
  split
  · rfl
  · rcases s.agentRel.find agent with _ | r
    all_goals
      dsimp only
      split
      · exact State.pumpRelease_teams ..
      · split <;> exact State.pumpRelease_teams ..

/-! Accesses of agents off the cores (R365). -/

theorem State.agentXlat_teams (s : State) (agent : Nat) (w : World) (asid va : Nat) (u : Use4) :
    (s.agentXlat agent w asid va u).2.teams = s.teams := by
  have ask (s : State) : ((match s.walkIn w asid va with
      | .fail f => (.fail f, s)
      | .leaf e log => (match s.useLeaf e log va u with | .ok k _ => .ok k | .fail f => .fail f | .absent => .wait, s)
      | .absent => (.wait, (s.pageReq asid (BitVec.ofNat 64 va) u agent).2) : Agent Nat × State)).2.teams = s.teams := by
    split <;> rfl
  unfold State.agentXlat
  dsimp only
  split
  · exact ask s
  · split
    · rfl
    · exact ask _
    · rfl

theorem State.agentKeys_teams (s : State) (agent : Nat) (w : World) (asid : Nat) (u : Use4) (ps : List (Nat × Nat)) :
    (s.agentKeys agent w asid u ps).2.teams = s.teams := by
  induction ps generalizing s with
  | nil => rfl
  | cons p ps ih =>
    have hx := State.agentXlat_teams s agent w asid p.1 u
    unfold State.agentKeys
    split
    · rename_i h; rw [h] at hx; exact hx
    · rename_i h; rw [h] at hx; exact hx
    · rename_i h
      rw [h] at hx
      have hi := ih (s.agentXlat agent w asid p.1 u).2
      rw [h] at hi
      split
      · rename_i hk; rw [hk] at hi; exact hi.trans hx
      · exact hi.trans hx

theorem State.agentAsk_teams (agent : Nat) (w : World) (asid : Nat) (ps : List AgentPart) (s : State) :
    (s.agentAsk agent w asid ps).teams = s.teams := by
  induction ps generalizing s with
  | nil => rfl
  | cons p ps ih =>
    unfold State.agentAsk
    split
    · exact ih s
    · dsimp only
      split
      · rw [ih]; rfl
      · rename_i u h
        have hu := State.sendReq_teams h
        rw [ih]; exact hu

theorem State.askOver_teams (s : State) (sel : AgentReq → Bool) : (s.askOver sel).teams = s.teams := by
  unfold State.askOver
  exact State.foldl_teams (by intro s r; rfl) _ s

theorem State.agentAnswers_teams (s : State) (agent : Nat) (w : World) (asid : Nat) (ps : List AgentPart) :
    (s.agentAnswers agent w asid ps).2.teams = s.teams := by
  have h : (s.agentAwait agent w asid ps).2.teams = s.teams := State.agentAsk_teams ..
  unfold State.agentAnswers
  split
  · rename_i he; rw [he] at h; exact h
  · rename_i he; rw [he] at h; exact (State.askOver_teams ..).trans h

/-! Stores of agents off the cores (R45). -/

theorem State.poke_teams (s : State) (cs : List (Nat × Byte)) : (s.poke cs).teams = s.teams := by
  induction cs generalizing s with
  | nil => rfl
  | cons c cs ih => exact ih _

theorem State.storeLine_teams (s : State) (line : Nat) (cs : List (Nat × Byte)) : (s.storeLine line cs).teams = s.teams := by
  unfold State.storeLine
  exact (State.foldl_teams (by intro s h; rfl) _ _).trans (State.poke_teams s cs)

theorem State.store_teams {s t : State} {w : World} {cs : List (Nat × Byte)} {res : FabricRes} (hs : s.store w cs res = .ok t) :
    t.teams = s.teams := by
  unfold State.store at hs
  split at hs
  · cases hs; rfl
  · split at hs
    · split at hs
      · cases hs
      · split at hs
        · cases hs
        · cases hs
          split
          · rw [State.foldl_teams (by intro s h; rfl), State.foldl_teams (by intro s l; exact State.storeLine_teams ..)]
          · rw [State.foldl_teams (by intro s l; exact State.storeLine_teams ..)]
    · dsimp only at hs
      split at hs
      · cases hs
      · cases hs; exact State.poke_teams ..

theorem State.storeParts_teams {w : World} {ps : List (Nat × Nat × List Byte)} {s t : State} (hs : s.storeParts w ps = .ok t) :
    t.teams = s.teams := by
  induction ps generalizing s with
  | nil => cases hs; rfl
  | cons p ps ih =>
    unfold State.storeParts at hs
    split at hs
    · cases hs
    · rename_i hst; exact (ih hs).trans (State.store_teams hst)

theorem State.agentWrite_teams (s : State) (agent : Nat) (w : World) (asid va : Nat) (bs : List Byte) :
    (s.agentWrite agent w asid va bs).2.teams = s.teams := by
  have hx := State.agentKeys_teams s agent w asid .store (pagesOf va bs.length)
  unfold State.agentWrite
  split
  · rename_i hk; rw [hk] at hx; exact hx
  · rename_i hk; rw [hk] at hx; exact hx
  · rename_i ks s' hk
    rw [hk] at hx
    have ha := (State.agentAnswers_teams s' agent w asid
      ((splitBytes ks bs).map fun p => { key := p.1, n := p.2.1, op := .store, data := p.2.2 })).trans hx
    dsimp only
    split
    · rename_i hk
      rw [hk] at ha
      split
      · exact ha
      · rename_i hst; exact (State.storeParts_teams hst).trans ha
    · exact ha

/-! The fault log (R254, R255). -/

theorem State.logVector_teams (s : State) (f : Nat) (bytes : List Byte) : (s.logVector f bytes).teams = s.teams := by
  unfold State.logVector; split <;> rfl

theorem State.logDrop_teams (s : State) (f : Nat) (bytes : List Byte) : (s.logDrop f bytes).teams = s.teams :=
  State.logVector_teams ..

theorem State.logWrite_teams (s : State) (f : Nat) (bytes : List Byte) : (s.logWrite f bytes).2.teams = s.teams := by
  have hr := State.agentRelease_teams s (agentNum .log f) (recordCtx bytes) 5
  unfold State.logWrite
  dsimp only
  split
  · exact State.logDrop_teams ..
  split
  · rename_i h; rw [h] at hr; exact hr
  · rename_i h; rw [h] at hr; exact (State.logDrop_teams ..).trans hr
  · rename_i s' h
    rw [h] at hr
    have hw := (State.agentWrite_teams s' (agentNum .log f) (s.fn f).world ((s.fn f).fltcfg.extractLsb' 48 16).toNat
      ((s.fn f).fltbase.toNat / 4096 * 4096 + 64 * ((logIdx (s.fn f)).1 % 2 ^ ((s.fn f).fltcfg.extractLsb' 44 4).toNat)) bytes).trans hr
    split
    · rename_i h; rw [h] at hw; exact hw
    · rename_i h; rw [h] at hw; exact (State.logDrop_teams ..).trans hw
    · rename_i h; rw [h] at hw; exact (State.logVector_teams ..).trans hw

theorem State.logPump_teams (s : State) : s.logPump.teams = s.teams := by
  unfold State.logPump
  exact foldl_keeps (g := fun acc : List LogDue × State => acc.2.teams) (by
    intro acc d
    have hw := State.logWrite_teams acc.2 d.fn d.bytes
    split
    · rfl
    · split <;> rename_i h <;> rw [h] at hw <;> exact hw) _ _

theorem State.log_teams (s : State) (f : Nat) (r : LogRec) : (s.log f r).teams = s.teams := State.logPump_teams _

/-! The kill of a team (R253). -/

theorem State.voidSlots_teams (s : State) (t : Team) : (s.voidSlots t).teams = s.teams := by
  unfold State.voidSlots
  exact State.foldl_teams (by intro s th; split <;> rfl) _ s

/-- A team whose threads have ended, and hold no bin slot. -/
def Team.gone (t : Team) : Team := { t.end_ with threads := t.end_.threads.map fun th => { th with slot := none } }

theorem State.endTeam_teams (s : State) (key : Nat) : (s.endTeam key).teams = s.teams.update key Team.gone := by
  unfold State.endTeam
  dsimp only
  split
  · rw [State.onTm_teams, State.setCore_teams, State.askOver_teams, State.voidSlots_teams]; rfl
  · rw [State.onTm_teams, State.askOver_teams, State.voidSlots_teams]; rfl

/-- A kill changes its team alone. -/
theorem State.kill_teams (s : State) (key kind : Nat) : (s.kill key kind).teams = s.teams.update key Team.gone :=
  (State.log_teams ..).trans (State.endTeam_teams ..)

end Sys2Proof.Machine
end

section
/-!
PROOF. A lane of an instruction that acts lane by lane, whether or not a lane raises a cause (R240, R243, R249): its registers and flags
are those of its own outcome, and its causes are in the record of its squad, also where the team halts or is killed.
-/
namespace Sys2Proof.Machine

/-- The registers and flags of every thread of a team, and the causes of one of its squads, are as they were. -/
structure Team.Keeps (t u : Team) (q : Nat) : Prop where
  regs : ∀ tid, (u.thread tid).regs = (t.thread tid).regs
  flags : ∀ tid, (u.thread tid).flags = (t.thread tid).flags
  causes : (u.squad q).causes = (t.squad q).causes

theorem Team.Keeps.refl (t : Team) (q : Nat) : t.Keeps t q := ⟨fun _ => rfl, fun _ => rfl, rfl⟩

theorem Team.Keeps.trans {t u v : Team} {q : Nat} (h : t.Keeps u q) (k : u.Keeps v q) : t.Keeps v q :=
  ⟨fun tid => (k.regs tid).trans (h.regs tid), fun tid => (k.flags tid).trans (h.flags tid), k.causes.trans h.causes⟩

theorem Team.Stops.keeps {t u : Team} {q : Nat} (h : t.Stops u q) : t.Keeps u q := by
  refine ⟨fun tid => ?_, fun tid => ?_, ?_⟩
  · obtain ⟨n, hn⟩ := h.thread tid; rw [hn]
  · obtain ⟨n, hn⟩ := h.thread tid; rw [hn]
  · obtain ⟨r, c, l, hs⟩ := h.squad; rw [hs]

theorem Team.halt_keeps (t : Team) (held : Bool) (q : Nat) : t.Keeps { t.halt with held } q := by
  refine ⟨fun _ => rfl, fun _ => rfl, ?_⟩
  obtain ⟨r, hr⟩ := Team.squad_halt t q
  show (t.halt.squad q).causes = _
  rw [hr]

/-- A kill leaves the registers of its team's threads and the record of its squads. -/
theorem Team.gone_keeps (t : Team) (q : Nat) : t.Keeps t.gone q := by
  have hthread (tid : Nat) : (t.gone.thread tid).regs = (t.thread tid).regs ∧ (t.gone.thread tid).flags = (t.thread tid).flags := by
    simp only [Team.thread, Team.gone, Team.end_, List.getD_eq_getElem?_getD, List.getElem?_map]
    cases t.threads[tid]? <;> exact ⟨rfl, rfl⟩
  refine ⟨fun tid => (hthread tid).1, fun tid => (hthread tid).2, ?_⟩
  simp only [Team.squad, Team.gone, Team.end_, List.getD_eq_getElem?_getD, List.getElem?_map]
  cases t.squads[q]? <;> rfl

theorem Team.causes_setSquad {t : Team} {q : Nat} {x : Squad} {c : Word} (ht : (t.squad q).causes = c) (hx : x.causes = c := by rfl) :
    ((t.setSquad q x).squad q).causes = c := by
  rw [Team.squad_setSquad]
  split
  · exact hx
  · exact ht

theorem settledTeam_keeps (s : State) (x : Convoy) (t : Team) : t.Keeps (settledTeam s x t) x.q := by
  obtain ⟨-, -, -, hthread⟩ := settledTeam_spec s x t
  obtain ⟨-, hsquads, -⟩ := State.fixSkids_spec s t x.q
  refine ⟨fun tid => ?_, fun tid => ?_, ?_⟩
  · obtain ⟨n, hn, -⟩ := hthread tid; rw [hn]
  · obtain ⟨n, hn, -⟩ := hthread tid; rw [hn]
  · have hsquad : (s.fixSkids t x.q).squad x.q = t.squad x.q := by simp only [Team.squad, hsquads]
    unfold settledTeam
    dsimp only
    split
    · exact Team.causes_setSquad (by rw [hsquad])
    · exact Team.causes_setSquad rfl

theorem State.settle_keeps (s : State) (x : Convoy) : (s.tm x.key).Keeps ((s.settle x).tm x.key) x.q := by
  rw [State.settle_eq]
  cases ht : s.teams.find x.key with
  | none =>
    have hsame : s.onTm x.key (settledTeam s x) = s := by
      unfold State.onTm Map.update; rw [ht]
    rw [hsame]; exact .refl ..
  | some t =>
    rw [State.tm_onTm ht, if_pos rfl, State.tm_of_find ht]
    exact settledTeam_keeps s x t

/-- Whatever an event makes of a team that is not killed yet, its squad takes the event into its record, and the threads keep
their registers and flags. -/
theorem State.raise_keeps {s : State} {key : Nat} {t : Team} (ht : s.teams.find key = some t) (hp : t.phase ≠ .killed)
    {hs : List Hit} (hne : hs ≠ []) (q : Nat) (pc : Dword) (code : Word) (own : Bool) :
    (t.setSquad q ((t.squad q).record pc hs code)).Keeps ((s.raise key q pc hs code own).tm key) q := by
  cases hphase : t.phase with
  | killed => exact absurd hphase hp
  | running => exact (State.raise_stops ht hphase hne q pc code own).keeps
  | handler hq hln hpc =>
    have hfind (u : Team) : (s.setTm key u).teams.find key = some u := by rw [State.find_setTm, if_pos rfl]
    have hempty : hs.isEmpty = false := by simpa using hne
    unfold State.raise
    rw [ht]
    simp only [hempty, hphase, Bool.false_eq_true, if_false]
    split
    · rw [State.tm_of_find (t := Team.gone _) (by rw [State.kill_teams, Map.find_update, if_pos rfl, hfind]; rfl)]
      exact Team.gone_keeps ..
    · split
      · rw [State.tm_setTm_self]; exact Team.halt_keeps ..
      · rw [State.tm_setTm_self]; exact .refl ..

/-- The outcomes of the active lanes. -/
def laneOuts (s : State) (f : Team → Nat → Thread → LaneOut) (x : Convoy) (t : Team) : List (Nat × LaneOut) :=
  x.act.map fun ln => (ln, f (issuedTeam s x x.lanes t) ln ((issuedTeam s x x.lanes t).lane x.q ln))

/-- The team after an instruction was performed lane by lane, before its causes are raised. -/
def performedTeam (s : State) (i : Instr) (f : Team → Nat → Thread → LaneOut) (x : Convoy) (t : Team) : Team :=
  (laneOuts s f x t).foldl (fun u o => u.setThread (tidOf x.q o.1) (o.2.after (t.lane x.q o.1) (x.pc + BitVec.ofNat 64 i.len)))
    ((issuedTeam s x x.lanes t).mapLanes x.q (x.lanes.filter fun ln => !x.act.contains ln)
      fun _ th => { th with pc := x.pc + BitVec.ofNat 64 i.len })

theorem State.perform_eq {s : State} {x : Convoy} {t : Team} (ht : s.teams.find x.key = some t) (i : Instr)
    (f : Team → Nat → Thread → LaneOut) : s.perform i f x =
      (s.setTm x.key (performedTeam s i f x t)).raise x.key x.q x.pc ((laneOuts s f x t).flatMap fun o => o.2.hits) 0
        (s.inHandler x.key) := by
  have hissued : s.issued x x.lanes = s.setTm x.key (issuedTeam s x x.lanes t) := by rw [State.issued_eq, State.onTm_eq ht]
  have htwice (u v : Team) : (s.setTm x.key u).setTm x.key v = s.setTm x.key v := by simp only [State.setTm, Map.put_put]
  unfold State.perform
  simp only [hissued, State.tm_setTm_self, State.tm_of_find ht, htwice]
  rfl

@[simp] theorem issuedTeam_bare (s : State) (x : Convoy) (lanes : List Nat) (t : Team) : (issuedTeam s x lanes t).bare = t.bare := by
  simp [issuedTeam]

@[simp] theorem issuedTeam_threads_length (s : State) (x : Convoy) (lanes : List Nat) (t : Team) :
    (issuedTeam s x lanes t).threads.length = t.threads.length := by simp [issuedTeam]

/-- The issue of an instruction changes the lookahead windows of its lanes alone (R123). -/
theorem issuedTeam_lane (s : State) (x : Convoy) {lanes : List Nat} (t : Team) {ln : Nat} (hl : ln ∈ lanes)
    (hn : tidOf x.q ln < t.threads.length) : ∃ w, (issuedTeam s x lanes t).lane x.q ln = { t.lane x.q ln with windows := w } := by
  refine Team.thread_mapLanes_mem t x.q lanes _ ln hl hn (fun th => ∃ w, th = { t.lane x.q ln with windows := w }) fun th h => ?_
  rcases h with h | ⟨w, h⟩ <;> (subst h; exact ⟨_, rfl⟩)

@[simp] theorem performedTeam_bare (s : State) (i : Instr) (f : Team → Nat → Thread → LaneOut) (x : Convoy) (t : Team) :
    (performedTeam s i f x t).bare = t.bare := by simp [performedTeam]

@[simp] theorem performedTeam_squads_length (s : State) (i : Instr) (f : Team → Nat → Thread → LaneOut) (x : Convoy) (t : Team) :
    (performedTeam s i f x t).squads.length = t.squads.length := by
  rw [performedTeam, Team.squads_foldl_set, Team.squads_mapLanes]; simp [issuedTeam]

/-- A lane takes its outcome. -/
theorem performedTeam_lane (s : State) (i : Instr) (f : Team → Nat → Thread → LaneOut) (x : Convoy) (t : Team) {ln : Nat}
    (hl : ln ∈ x.act) (hn : tidOf x.q ln < t.threads.length) : (performedTeam s i f x t).lane x.q ln =
      (f (issuedTeam s x x.lanes t) ln ((issuedTeam s x x.lanes t).lane x.q ln)).after (t.lane x.q ln)
        (x.pc + BitVec.ofNat 64 i.len) := by
  refine Team.thread_foldl_mem x.q (laneOuts s f x t) _ _ ln ⟨_, List.mem_map.mpr ⟨ln, hl, rfl⟩, rfl⟩ (by simpa using hn) ?_
  intro o ho he
  obtain ⟨k, -, rfl⟩ := List.mem_map.mp ho
  obtain rfl : k = ln := he
  rfl

@[simp] theorem LaneOut.after_regs (o : LaneOut) (old : Thread) (next : Dword) : (o.after old next).regs = o.th.regs := by
  unfold LaneOut.after; split <;> rfl

@[simp] theorem LaneOut.after_flags (o : LaneOut) (old : Thread) (next : Dword) : (o.after old next).flags = o.th.flags := by
  unfold LaneOut.after; split <;> rfl

/-- A team that may issue is not killed. -/
theorem Team.phase_of_mayIssue {t : Team} {q : Nat} (h : t.mayIssue q = true) : t.phase ≠ .killed := by
  intro hp
  simp [Team.mayIssue, hp] at h

/-- An active lane after an instruction that acts lane by lane: its registers and flags are those of its outcome, and the causes that
it raised are set in its squad's record. -/
theorem State.lanewise_lane {s : State} {i : Instr} {x : Convoy} (hr : Ready s i x) (f : Team → Nat → Thread → LaneOut) {ln : Nat}
    (hl : ln ∈ x.act) : ∃ (u : Team) (w : List Window) (o : LaneOut), u.bare = (s.tm x.key).bare
      ∧ f u ln { (s.tm x.key).lane x.q ln with windows := w } = o
      ∧ (((s.lanewise i f).tm x.key).lane x.q ln).regs = o.th.regs ∧ (((s.lanewise i f).tm x.key).lane x.q ln).flags = o.th.flags
      ∧ ∀ h ∈ o.hits, ∀ k, h.c.mask.getLsbD k = true → (((s.lanewise i f).tm x.key).squad x.q).causes.getLsbD k = true := by
  obtain ⟨t, ht, hmay, hlen, hact⟩ := State.slot_spec hr.1 hr.2.1
  have hn : tidOf x.q ln < t.threads.length := hlen ln (hact ln hl)
  obtain ⟨w, hw⟩ := issuedTeam_lane s x t (hact ln hl) hn
  rw [State.tm_of_find ht]
  refine ⟨issuedTeam s x x.lanes t, w, _, issuedTeam_bare .., rfl, ?_⟩
  rw [← hw]
  have hlane := performedTeam_lane s i f x t hl hn
  obtain ⟨e, -, hs⟩ := State.issue_ready hr (fun s x => x.act.flatMap fun _ => []) (fun s x => s.perform i f x) (by simp)
  have hsettle := State.settle_keeps { s.perform i f x with ecc := e } x
  rw [show ({ s.perform i f x with ecc := e } : State).settle x = s.lanewise i f from hs.symm] at hsettle
  have htm : ({ s.perform i f x with ecc := e } : State).tm x.key = (s.perform i f x).tm x.key := rfl
  rw [htm, State.perform_eq ht] at hsettle
  by_cases hnil : ((laneOuts s f x t).flatMap fun o => o.2.hits) = []
  · rw [hnil, State.raise_nil, State.tm_setTm_self] at hsettle
    refine ⟨?_, ?_, fun h hh => ?_⟩
    · rw [Team.lane, hsettle.regs, ← Team.lane, hlane, LaneOut.after_regs]
    · rw [Team.lane, hsettle.flags, ← Team.lane, hlane, LaneOut.after_flags]
    · rw [List.flatMap_eq_nil_iff] at hnil
      rw [hnil _ (List.mem_map.mpr ⟨ln, hl, rfl⟩)] at hh
      cases hh
  · have hphase : (performedTeam s i f x t).phase ≠ .killed := by
      have hbare : (performedTeam s i f x t).phase = t.phase := congrArg (·.phase) (performedTeam_bare s i f x t)
      rw [hbare]; exact Team.phase_of_mayIssue hmay
    have hkeeps := (State.raise_keeps (s := s.setTm x.key (performedTeam s i f x t)) (by rw [State.find_setTm, if_pos rfl]) hphase
      hnil x.q x.pc 0 (s.inHandler x.key)).trans hsettle
    refine ⟨?_, ?_, fun h hh k hk => ?_⟩
    · rw [Team.lane, hkeeps.regs, Team.thread_setSquad, ← Team.lane, hlane, LaneOut.after_regs]
    · rw [Team.lane, hkeeps.flags, Team.thread_setSquad, ← Team.lane, hlane, LaneOut.after_flags]
    · have hsquads : x.q < (performedTeam s i f x t).squads.length := by
        rw [performedTeam_squads_length]; exact Team.mayIssue_lt hmay
      have hmem : h ∈ (laneOuts s f x t).flatMap fun o => o.2.hits :=
        List.mem_flatMap.mpr ⟨_, List.mem_map.mpr ⟨ln, hl, rfl⟩, hh⟩
      rw [hkeeps.causes, Team.squad_setSquad, if_pos ⟨rfl, hsquads⟩, Squad.record_causes _ _ _ _ hnil, BitVec.getLsbD_or,
        getLsbD_bitmap, List.any_eq_true.mpr ⟨h, hmem, hk⟩, Bool.or_true]

end Sys2Proof.Machine
end

section
/-!
PROOF. `FMIN` and `FMAX` (R310): what a float instruction leaves in a lane with and without an enabled exception (R144), and the results
and flags of minimumNumber and maximumNumber element by element.
-/
namespace Sys2Proof.Machine

/-! A float instruction in a lane (R144). -/

theorem Thread.setReg_regs_congr {t u : Thread} (h : t.regs = u.regs) (r : BitVec 8) (v : Word) (g : Tag) :
    (t.setReg r v g).regs = (u.setReg r v g).regs := by
  unfold Thread.setReg
  split
  · exact h
  · simp only [h]

/-- The registers after a write depend on the registers before it alone. -/
theorem Thread.setBits_regs_congr {t u : Thread} (h : t.regs = u.regs) (wide : Bool) (r : BitVec 8) (v : Nat) (g : Tag) :
    (t.setBits wide r v g).regs = (u.setBits wide r v g).regs := by
  unfold Thread.setBits
  split
  · exact setReg_regs_congr (setReg_regs_congr h ..) ..
  · exact setReg_regs_congr h ..

@[simp] theorem Thread.setBits_flags (t : Thread) (wide : Bool) (r : BitVec 8) (v : Nat) (g : Tag) :
    (t.setBits wide r v g).flags = t.flags := by
  unfold Thread.setBits
  split <;> simp [Thread.set64]

/-- The mask of a cause has the bit of the cause. -/
theorem Cause.mask_getLsbD_bit (c : Cause) : c.mask.getLsbD c.bit = true := by cases c <;> rfl

/-- Without an enabled exception a float instruction writes. -/
theorem fpOut_of_nil {ctl : BitVec 3} {fl : BitVec 5} (h : fpCauses ctl fl = []) (ln : Nat) (th : Thread) (write : Thread → Thread) :
    fpOut ctl ln th fl write = { th := write (th.flag fl) } := by
  unfold fpOut; rw [h]

/-- An enabled exception keeps the destination and raises its causes. -/
theorem fpOut_of_ne_nil {ctl : BitVec 3} {fl : BitVec 5} (h : fpCauses ctl fl ≠ []) (ln : Nat) (th : Thread) (write : Thread → Thread) :
    fpOut ctl ln th fl write = { th := th.flag fl, hits := (fpCauses ctl fl).map fun c => { ln, c } } := by
  unfold fpOut
  split
  · contradiction
  · rfl

/-- The codes and flags of the elements of a float instruction in a thread. -/
def floatElems (ft : BitVec 3) (srcs : List (BitVec 8)) (f : Float.Fmt → List XNum → Nat × Float.Flags) (th : Thread) :
    List (Nat × Float.Flags) :=
  (List.range (ftCount ft)).map fun e => f (ftFmt ft) (srcs.map fun r => th.ftVal ft r e)

/-- The flags of all elements. -/
def floatFlags (rs : List (Nat × Float.Flags)) : Float.Flags := rs.foldl (fun fl r => fl ||| r.2) 0

/-- An active lane with accepted tags after a float instruction (R144): the flags are sticky; the result is written where no exception is
enabled for them; else the registers stay and the causes are raised. -/
theorem State.floatOp_lane {s : State} {i : Instr} {x : Convoy} (hr : Ready s i x) (ft : BitVec 3) (d : BitVec 8) (srcs : List (BitVec 8))
    (f : Float.Fmt → List XNum → Nat × Float.Flags) {ln : Nat} (hl : ln ∈ x.act)
    (htag : srcs.all (((s.tm x.key).lane x.q ln).ftTagged ft) = true) :
    let t := (s.floatOp i ft d srcs f).tm x.key
    let th := (s.tm x.key).lane x.q ln
    let rs := floatElems ft srcs f th
    let causes := fpCauses (s.tm x.key).fpctl (floatFlags rs)
    (t.lane x.q ln).flags = th.flags ||| floatFlags rs
    ∧ (causes = [] → (t.lane x.q ln).regs = (th.setBits (ft == 3) d (ftJoin (rs.map (·.1))) (ftTag ft)).regs)
    ∧ (causes ≠ [] → (t.lane x.q ln).regs = th.regs ∧ ∀ c ∈ causes, (t.squad x.q).causes.getLsbD c.bit = true) := by
  intro t th rs causes
  obtain ⟨u, w, o, hu, ho, hregs, hflags, hcauses⟩ := State.lanewise_lane hr (fun t ln th =>
    LaneOut.checked (srcs.all (th.ftTagged ft)) ln th (fpOut t.fpctl ln th (floatFlags (floatElems ft srcs f th)) fun th' =>
      th'.setBits (ft == 3) d (ftJoin ((floatElems ft srcs f th).map (·.1))) (ftTag ft))) hl
  have htag : srcs.all (({ th with windows := w } : Thread).ftTagged ft) = true := htag
  have hctl : u.fpctl = (s.tm x.key).fpctl := congrArg (·.fpctl) hu
  have helems : floatElems ft srcs f { th with windows := w } = rs := rfl
  rw [htag, LaneOut.checked_true, hctl, helems] at ho
  change (t.lane x.q ln).regs = _ at hregs
  change (t.lane x.q ln).flags = _ at hflags
  by_cases hc : causes = []
  · rw [fpOut_of_nil hc] at ho
    subst ho
    refine ⟨hflags.trans (Thread.setBits_flags ..), fun _ => hregs.trans ?_, fun h => absurd hc h⟩
    exact Thread.setBits_regs_congr (t := ({ th with windows := w } : Thread).flag (floatFlags rs)) (u := th) rfl ..
  · rw [fpOut_of_ne_nil hc] at ho
    subst ho
    refine ⟨hflags, fun h => absurd h hc, fun _ => ⟨hregs, fun c hm => ?_⟩⟩
    exact hcauses _ (List.mem_map.mpr ⟨c, hm, rfl⟩) _ (Cause.mask_getLsbD_bit c)

/-! Results and flags of minimumNumber and maximumNumber. -/

/-- INV alone raises `FP_INVALID` where INVEN is set, and nothing else. -/
theorem fpCauses_inv (ctl : BitVec 3) (b : Bool) :
    fpCauses ctl (if b then Float.INV else 0) = if b && ctl.getLsbD 0 then [.fpInvalid] else [] := by
  cases b <;> simp [fpCauses, Float.INV]

/-- Elements that set INV or no flag set INV together where one does. -/
theorem floatFlags_inv (l : List Nat) {g : Nat → Nat × Float.Flags} {p : Nat → Bool} (h : ∀ e, (g e).2 = if p e then Float.INV else 0) :
    floatFlags (l.map g) = if l.any p then Float.INV else 0 := by
  have hacc (fl : Float.Flags) : (l.map g).foldl (fun fl r => fl ||| r.2) fl = fl ||| if l.any p then Float.INV else 0 := by
    induction l generalizing fl with
    | nil => simp
    | cons e es ih =>
      rw [List.map_cons, List.foldl_cons, ih, h, List.any_cons, BitVec.or_assoc]
      cases p e <;> cases es.any p <;> simp
  rw [floatFlags, hacc]
  exact BitVec.zero_or

/-- The code of an element of an operand has the width of the format. -/
theorem Thread.ftCode_lt (t : Thread) (ft : BitVec 3) (r : BitVec 8) (e : Nat) : t.ftCode ft r e < 2 ^ (ftFmt ft).width :=
  Nat.mod_lt _ (Nat.two_pow_pos _)

/-- An element of `FMIN` or `FMAX` of two registers. -/
def minmaxElem (isMax : Bool) (ft : BitVec 3) (a b : BitVec 8) (th : Thread) (e : Nat) : Nat × Float.Flags :=
  minmaxOf isMax (ftFmt ft) [th.ftVal ft a e, th.ftVal ft b e]

/-- An element has a code of R310, sets INV where an operand is a signalling NaN, and sets no other flag. -/
theorem minmaxElem_spec (isMax : Bool) (ft : BitVec 3) (a b : BitVec 8) (th : Thread) (e : Nat) :
    (ftFmt ft).MinmaxCode isMax (th.ftCode ft a e) (th.ftCode ft b e) (minmaxElem isMax ft a b th e).1
    ∧ (minmaxElem isMax ft a b th e).2 = if Float.isSig (th.ftVal ft a e) || Float.isSig (th.ftVal ft b e) then Float.INV else 0 := by
  obtain ⟨r, hround, hcode⟩ := (ftFmt_binary ft).round_minmax isMax (Float.rmOf 0 0) false (th.ftCode_lt ft a e) (th.ftCode_lt ft b e)
  have helem : minmaxElem isMax ft a b th e = (r, (Float.minmax isMax (th.ftVal ft a e) (th.ftVal ft b e)).2 ||| 0) := by
    simp only [minmaxElem, minmaxOf, rounded, Thread.ftVal, hround]
  rw [helem]
  exact ⟨hcode, BitVec.or_zero⟩

/-- Settles O15: each element is the selected operand or the canonical NaN, because rounding gives an operand's code back; INV is the one
flag, so `FP_INVALID` is the one cause, and a lane that raises it keeps its registers. -/
theorem minimumAndMaximumNumber : Obligations.MinimumAndMaximumNumber := by
  unfold Obligations.MinimumAndMaximumNumber
  intro s x h isMax ft rm d a b i F A B sig nan zero neg less anySig hr htag
  refine ⟨fun th e => (minmaxElem isMax ft a b th e).1, fun th e _ => ?_, s.floatOp i ft d [a, b] (minmaxOf isMax), ?_, fun ln hl => ?_⟩
  · obtain ⟨hcode, -⟩ := minmaxElem_spec isMax ft a b th e
    exact ⟨hcode.nan_nan, hcode.nan_number, hcode.number_nan, fun ha hb =>
      ⟨(hcode.number_number ha hb).1, (hcode.number_number ha hb).2.2⟩⟩
  · cases isMax <;> rfl
  · intro th th'
    have hflags : floatFlags (floatElems ft [a, b] (minmaxOf isMax) th) = if anySig th then Float.INV else 0 :=
      floatFlags_inv _ fun e => (minmaxElem_spec isMax ft a b th e).2
    have hcodes : (floatElems ft [a, b] (minmaxOf isMax) th).map (·.1) =
        (List.range (ftCount ft)).map fun e => (minmaxElem isMax ft a b th e).1 := List.map_map
    have htags : [a, b].all (th.ftTagged ft) = true := by simpa using htag ln hl
    obtain ⟨hfl, hwrite, hkeep⟩ := State.floatOp_lane hr ft d [a, b] (minmaxOf isMax) hl htags
    rw [hflags] at hfl
    rw [hflags, fpCauses_inv] at hwrite hkeep
    rw [hcodes] at hwrite
    split
    · rename_i hinv
      obtain ⟨hregs, hcauses⟩ := hkeep (by rw [if_pos hinv]; exact List.cons_ne_nil _ _)
      exact ⟨hregs, hcauses .fpInvalid (by rw [if_pos hinv]; exact List.mem_singleton_self _)⟩
    · rename_i hinv
      exact ⟨hwrite (if_neg hinv), hfl⟩

end Sys2Proof.Machine
end
